-- ==== Sys2Proof/Word.lean ====
section
/-!
DEFINITION. The widths the manual counts in (R6, R8: bytes, 32-bit words, doublewords) and the sparse
indexed table in which every "one register per instance" of the manual is held.
-/
namespace Sys2Proof

/-- A byte (00 "Numbers, units and ranges"). -/
abbrev Byte := BitVec 8

/-- A 32-bit register or word (R8). -/
abbrev Word := BitVec 32

/-- A doubleword: an address, a time, a wide register pair (R8). -/
abbrev DWord := BitVec 64

/-- A table of per-instance state, indexed by instance number: the listed instances in rising order,
an unlisted one at the reset value its reader names. -/
abbrev Tab (α : Type) := List (Nat × α)

end Sys2Proof
end

