-- ==== Sys2Proof/Syntax.lean ====
section
/-!
DEFINITION. The commands of the block: one constructor of Instr per row of spec/opcode_table.json, with the operands the
row needs. Agents, widths and message contents that operands name stand before it.
-/
namespace Sys2Proof

/-- Who makes a register access (R507): the physical function, a virtual function, the console, or a thread of a
saggar through a REG page (R204). -/
inductive Agent where
  | pf
  | vf (n : Fin 64)
  | con
  | reg (s : Fin 128)
  deriving DecidableEq, Repr

/-- What the error-correcting code found while data was read (R211, R459): nothing, corrected errors, an uncorrectable
error in the memory read, or one in the tile slot. -/
inductive Ecc where
  | ok
  | corrected (n : Nat)
  | bad
  | badSlot
  deriving DecidableEq, Repr

/-- A thread instruction's place: cluster, vector unit, its own address, and the lanes active for it (R157–R159); and what the
error-correcting code finds in the reads of memory that it makes, one by one: the entries of its walks, its own word, its data. -/
structure At where
  cl : Fin 256
  vu : Fin 4
  pc : DWord
  act : BitVec 16
  ecc : List Ecc
  deriving DecidableEq, Repr

/-- An operand of a command that reads memory, with what the error-correcting code finds in those reads, one by one (R211, R459). -/
structure Found (α : Type) where
  of : α
  ecc : List Ecc
  deriving DecidableEq, Repr

/-- How a read on the host link ends (R122, R238). -/
inductive HostEnd where
  | ok | unsupported | abort | poisoned | timeout
  deriving DecidableEq, Repr

/-- Widths of a thread's load or store: 1, 2, 4 or 8 bytes per lane, or 64 bytes per bundle (07). -/
inductive MemWidth where
  | w1 | w2 | w4 | w8 | w64
  deriving DecidableEq, Repr

/-- What the checks on retained state find in error as a cluster wakes (R461): the retention flip-flops; retained bundles, by vector
unit; lines of retained tile slots, as slot and line of 64 bytes. And what the error-correcting code finds in the reads of memory that
the wake releases (R211). -/
structure RetErr where
  flops : Bool
  bundles : BitVec 4
  lines : List (Fin 128 × Fin 128)
  ecc : List Ecc
  deriving DecidableEq, Repr

/-- The operation of an atomic (R180). -/
inductive AmoOp where
  | load | store | swap | cas | add | fadd | smin | smax | umin | umax | and | or | xor
  deriving DecidableEq, Repr

/-- Operands of an atomic: size field, ord and scope fields of R180, the destination, operand and comparand
registers, and the address of each lane. -/
structure AmoArgs where
  size64 : Bool
  ord : Fin 4
  scope : Fin 3
  dst : Fin 64
  src : Fin 64
  cmp : Fin 64
  addrs : List DWord
  deriving DecidableEq, Repr

/-- Operands of a load or store: width, register, element within each lane's four, and addresses (one per lane, or one
for the 64-byte form). -/
structure MemArgs where
  width : MemWidth
  reg : Fin 64
  elem : Fin 4
  addrs : List DWord
  deriving DecidableEq, Repr

/-- The condition of a wait (R177). -/
inductive WaitCond where
  | eq | ne | uge | sge
  deriving DecidableEq, Repr

/-- The operations of a vector arithmetic instruction (R40, R41). -/
inductive VecOp where
  | fadd | fsub | fmul | fdiv | fma | fsqrt
  | feq | fne | fseq | fsne | flt | fle | fqlt | fqle | funord
  | iadd | isub | imul | iand | ior | ixor
  | ieq | ilts | iltu | imins | imaxs | iminu | imaxu
  deriving DecidableEq, Repr

/-- Operands of a vector arithmetic instruction: operation, format, rounding field, destination vector and mask
registers, sources. -/
structure VecArgs where
  op : VecOp
  fmt : Fin 16
  rm : Fin 4
  dst : Fin 64
  mdst : Fin 8
  a : Fin 64
  b : Fin 64
  c : Fin 64
  deriving DecidableEq, Repr

/-- Operands of a vector conversion (R52–R58): registers, format codes of the path (0 in i1, i2 for none), source scale
byte of a short source, scale mode and GIVEN byte, signature size, register that takes the scale bytes of a short
destination, hint, rounding field. That the 64 elements of a short source share one scale byte, and that the scale bytes
of a short destination go to a register, one in each element, is a DESIGN CHOICE (log entry 38): a register has no scale
array, and R57 names no other place. -/
structure CvtArgs where
  dst : Fin 64
  src : Fin 64
  sfmt : Fin 16
  i1 : Fin 16
  i2 : Fin 16
  dfmt : Fin 16
  sscale : Byte
  block : Bool
  gscale : Byte
  sig16 : Bool
  sdst : Fin 64
  hint : Bool
  hidx : Fin 16
  rm : Fin 4
  deriving DecidableEq, Repr

/-- What the host's configuration of the functions holds once the link is trained (R221, R238): the largest payload and the largest
read request, each 128 bytes times a power of two, and the completion timeouts of functions, in ns. No row of the opcode table writes
configuration space, so the command of the training carries it (log entry 4). -/
structure HostCfg where
  payload : Fin 6
  readReq : Fin 6
  timeouts : List (Fin 65 × Nat)
  deriving DecidableEq, Repr

/-- A host-side error of R238: on a host read (by its completion), on a host write, on the record write; or a
correctable error, which is only counted (R242). -/
inductive HostErr where
  | read (e : HostEnd)
  | write
  | record
  | correctable
  deriving DecidableEq, Repr

/-- The host's answer to an ATS translation request (R226): a page with its permissions, no access, or an error
completion. -/
inductive AtsEnd where
  | page (host : DWord) (r w : Bool)
  | noAccess
  | error
  deriving DecidableEq, Repr

/-- The content of a HELLO (R350); no chip number where the chip has none. -/
structure HelloMsg where
  chip : Option (BitVec 12)
  eligible : Bool
  slice : BitVec 16
  epoch : Word
  master : Option (BitVec 12)
  hops : Nat
  hash : Word
  version : BitVec 24
  state : Fin 5
  deriving DecidableEq, Repr

/-- The content of a JOIN (R350): chip, version, hash, serial, and the rack and position of each cube port's partner; and
whether the chip is master-eligible, which R351 has the master know (log entry 25). -/
structure JoinMsg where
  chip : BitVec 12
  eligible : Bool
  version : BitVec 24
  hash : Word
  serial : DWord
  partners : List (Option (BitVec 12))
  deriving DecidableEq, Repr

/-- A segment of a member's routing table (R346, R350): entries of the rack part and of the position part, as
FAB.RRACK and FAB.RPOS show them. -/
structure TableMsg where
  dst : BitVec 12
  racks : List (Fin 64 × Word)
  poss : List (Fin 64 × Word)
  deriving DecidableEq, Repr

/-- A member as a HANDOVER gives it, and a COMMIT (R350; log entry 25): chip, serial, hash, whether it is eligible, and the chip
beyond each of its ports. -/
structure HandMember where
  chip : BitVec 12
  serial : Option DWord
  hash : Word
  eligible : Bool
  ports : List (Option (BitVec 12))
  deriving DecidableEq, Repr

/-- The content of a HANDOVER (R350): the member set, the members' tables, the epoch. -/
structure HandoverMsg where
  dst : BitVec 12
  members : List HandMember
  tables : List TableMsg
  epoch : Word
  deriving DecidableEq, Repr

/-- The content of an UPDATE (R350): a member's port states (the chip beyond each port that is up) and its hash. -/
structure UpdateMsg where
  chip : BitVec 12
  ports : List (Option (BitVec 12))
  hash : Word
  deriving DecidableEq, Repr

/-- What the start-up step that has ended found (R441, R443): failed die-to-die links and the lanes substituted on each, clusters failing
the logic self-test or the march test and those whose lines were repaired, failed stacks and those mended by row repair, corrected errors
met. -/
structure StepRes where
  d2dFail : BitVec 3
  d2dLanes : List Nat
  logicBad : BitVec 256
  marchBad : BitVec 256
  cluRep : BitVec 256
  hbmFail : BitVec 8
  hbmRep : BitVec 8
  cecc : Nat
  deriving DecidableEq, Repr

/-- What the monitors find when a throttle source may have released (R421): of VIO, VCORE and VSRAM the voltage in mV and for how many
ns it has stood at its warning level plus 20 mV or above; for how many ns the current has stayed below 90 % of ILIM, and the 100 µs
average of the power below 95 % of the cap. -/
structure Calm where
  rails : List (Nat × Nat)
  current : Nat
  cap : Nat
  deriving DecidableEq, Repr

/-- What a register write carries (R227, R505): the word of a 4-byte write, or the two words of an 8-byte one. -/
inductive RegData where
  | word (v : Word)
  | pair (v : DWord)
  deriving DecidableEq, Repr

/-- Where a register read reads, and whether it is one of 8 bytes (R227, R505). -/
structure RegOff where
  off : Nat
  wide : Bool
  deriving DecidableEq, Repr

/-- A command: a host, console or thread access, an instruction, a flit or packet, a pin, a timer or a completion. The
docstring of a constructor is the table's own summary of the row, with the rule it cites. -/
inductive Instr where
  /-- REGISTER_WRITE (R10): A write to a register field that has no row of its own takes effect under its access code. -/
  | registerWrite (ag : Agent) (off : Nat) (v : RegData)
  /-- BAD_REGISTER_ACCESS (R227): A host register access of wrong size or alignment completes with Unsupported Request or is discarded, and is counted in PCI.ERR.bad. -/
  | badRegisterAccess (ag : Agent) (off : Nat) (size : Nat) (isWrite : Bool)
  /-- ACLK_TARGET_WRITE (R26): A write to HUB.ACLK.target starts, replaces or ignores a DVFS transition. -/
  | aclkTargetWrite (ag : Agent) (v : Word)
  /-- DVFS_TRANSITION_DONE (R26): A DVFS transition completes and HUB.ACLK.cur shows the new point. -/
  | dvfsTransitionDone
  /-- D2D_LINK_FAIL (R462): A die-to-die link fails in operation, sets HUB.D2D.fail and poisons channels or sends the chip to FAILED. -/
  | d2dLinkFail (link : Fin 3)
  /-- HINT_READ (R60): A read of NUM.HINT returns the running maximum and clears it in the same access. -/
  | hintRead (ag : Agent) (s : Fin 128) (h : Fin 16)
  /-- VECTOR_CONVERSION (R53): A vector conversion instruction converts elements along its path, counts saturations and flushes and raises flags. -/
  | vectorConversion (at_ : At) (a : CvtArgs)
  /-- TMMA (R63): A tmma command is issued, checked, and either rejected with a completion record or queued on the tensor queue. -/
  | tmma (at_ : At) (cmd : DWord)
  /-- TREAD (R79): A tread command is issued, checked, and either rejected or queued for read-out. -/
  | tread (at_ : At) (cmd : DWord)
  /-- TCLR (R63): A tclr command is issued and queued to free a tile slot. -/
  | tclr (at_ : At) (cmd : DWord)
  /-- TMMA_DONE (R70): A tmma promotes its last segment into the pair accumulator and writes its completion record. -/
  | tmmaDone (cl : Fin 256) (ecc : Ecc)
  /-- TREAD_DONE (R78): A tread finishes read-out with its fused epilogue, writes its destination and completion record. -/
  | treadDone (cl : Fin 256) (ecc : Ecc)
  /-- TCLR_DONE (R75): A tclr takes effect after earlier tmmas on the slot, frees the slot and writes its record. -/
  | tclrDone (cl : Fin 256)
  /-- SFX (R89): An sfx instruction is issued, checked and raises an SFU request or takes an instruction fault. -/
  | sfx (at_ : At) (w : DWord)
  /-- SFU_GRANT (R100): A free SFU grants one waiting request by lost-grant override or round robin. -/
  | sfuGrant (cl : Fin 256) (u : Fin 2)
  /-- SFX_DONE (R102): An SFU request writes its results, counts, flags and possible trap. -/
  | sfxDone (cl : Fin 256) (u : Fin 2)
  /-- SFU_BANK_SWITCH (R123): A cluster's SFUs switch to the shadow bank of newly committed tables at a boundary between grants. -/
  | sfuBankSwitch (cl : Fin 256)
  /-- CRV_LOAD_TABLE (R121): A write to CRV.LCTL with op load table starts loading a curve table image into a slot. -/
  | crvLoadTable (ag : Agent) (v : Word)
  /-- CRV_LOAD_RECIPE (R121): A write to CRV.LCTL with op load recipe starts loading a recipe image into a slot. -/
  | crvLoadRecipe (ag : Agent) (v : Word)
  /-- CRV_UNLOAD (R121): A write to CRV.LCTL with op unload empties a table or recipe slot unless it is in use. -/
  | crvUnload (ag : Agent) (v : Word)
  /-- CRV_LOAD_DONE (R121): A load finishes reading and checking the image and leaves the slot LOADED or EMPTY with its status. -/
  | crvLoadDone (res : HostEnd)
  /-- CRV_COMMIT_WRITE (R123): A write to CRV.COMMIT[s] commits or refuses the staged bindings and recipe permissions of the saggar. -/
  | crvCommitWrite (ag : Agent) (s : Fin 128)
  /-- CRV_COMMIT_DONE (R123): Every owned cluster has switched banks, the generation increments and pend returns to 0. -/
  | crvCommitDone (s : Fin 128)
  /-- SMAX (R136): A rowop with code SMAX is issued and checked. -/
  | smax (at_ : At) (cmd : DWord)
  /-- SMAXP (R139): A rowop with code SMAXP is issued and checked. -/
  | smaxp (at_ : At) (cmd : DWord)
  /-- SMAXF (R139): A rowop with code SMAXF is issued and checked. -/
  | smaxf (at_ : At) (cmd : DWord)
  /-- RMSN (R141): A rowop with code RMSN is issued and checked. -/
  | rmsn (at_ : At) (cmd : DWord)
  /-- MOM (R144): A rowop with code MOM is issued and checked. -/
  | mom (at_ : At) (cmd : DWord)
  /-- MNORM (R147): A rowop with code MNORM is issued and checked. -/
  | mnorm (at_ : At) (cmd : DWord)
  /-- TOPK (R148): A rowop with code TOPK is issued and checked. -/
  | topk (at_ : At) (cmd : DWord)
  /-- ROW_ENGINE_ACQUIRE (R133): A row operation acquires the engines of its whole span group and starts. -/
  | rowEngineAcquire
  /-- ROW_DONE (R151): A row operation finishes its last row, combines parts and writes its completion record. -/
  | rowDone (cl : Fin 256) (vu : Fin 4) (ecc : Ecc)
  /-- L0PROD_WRITE (R162): A write to THR.L0PROD[s] posts launch descriptors or is ignored and sets over. -/
  | l0prodWrite (ag : Agent) (s : Fin 128) (v : Word)
  /-- LNCH (R162): An lnch instruction copies a descriptor into ring 1 and advances its producer index, or stalls on a full ring. -/
  | lnch (at_ : At) (src : Fin 64)
  /-- LAUNCH_TAKE (R161): The hub takes one launch descriptor from a ring, checks it, and starts it, rejects it or halts the ring. -/
  | launchTake (s : Found (Fin 128))
  /-- LAUNCH_RING_UNHALT (R161): Writing 1 to a halt bit of THR.LERR clears it and the hub reads the entry again. -/
  | launchRingUnhalt (ag : Agent) (s : Fin 128) (v : Word)
  /-- BUNDLE_DISPATCH (R163): A bundle of a launch is dispatched to a free vector unit of an owned cluster. -/
  | bundleDispatch (s : Fin 128)
  /-- EXIT (R164): The exit instruction ends the lanes of a bundle. -/
  | exit (at_ : At)
  /-- BUNDLE_EXIT (R164): A bundle's memory and asynchronous operations have completed and its vector unit is freed. -/
  | bundleExit (cl : Fin 256) (vu : Fin 4)
  /-- SAGGAR_ENABLE (R165): Writing en = 1 to SAG.CTL makes an OFF or DRAINING saggar RUNNING. -/
  | saggarEnable (ag : Agent) (s : Fin 128)
  /-- SAGGAR_DISABLE (R165): Writing en = 0 to SAG.CTL makes a RUNNING saggar DRAINING. -/
  | saggarDisable (ag : Agent) (s : Fin 128)
  /-- SAGGAR_KILL (R166): Writing kill = 1 halts and discards every bundle and completes pending launches with KILLED. -/
  | saggarKill (ag : Agent) (s : Fin 128)
  /-- SAGGAR_KILL_DONE (R166): A kill ends once issued operations are complete and the saggar becomes OFF. -/
  | saggarKillDone (s : Fin 128)
  /-- CLUSTER_TAKE (R168): An unowned cluster is taken by a saggar that needs it at an ownership decision. -/
  | clusterTake (cl : Fin 256)
  /-- SLICE_EXPIRY (R168): The owner has held a cluster for its slice while another saggar could take it, so a switch begins. -/
  | sliceExpiry (cl : Fin 256)
  /-- SAGGAR_SWITCH (R168): A saggar switch begins on a cluster and waits for outstanding tensor, SFU, row and memory work. -/
  | saggarSwitch (cl : Fin 256)
  /-- SAGGAR_SWITCH_DONE (R76): The outgoing state and tile images are saved and the incoming saggar's state, tables and slots restored. -/
  | saggarSwitchDone (cl : Fin 256) (restoreBad : Found Bool)
  /-- FAULT_ACK (R171): Writing 1 to SAG.FSTAT.full empties the fault record and terminates bundles halted by a fault. -/
  | faultAck (ag : Agent) (s : Fin 128)
  /-- TRAP_ACK_RESUME (R172): A write to SAG.TSTAT with full = 1 and resume = 1 acknowledges the trap and resumes the halted bundle. -/
  | trapAckResume (ag : Agent) (s : Fin 128)
  /-- TRAP_ACK_TERMINATE (R172): A write to SAG.TSTAT with full = 1 and resume = 0 acknowledges the trap and terminates the bundle with NAN_HALTED. -/
  | trapAckTerminate (ag : Agent) (s : Fin 128)
  /-- COUNTER_CLEAR_SAT (R170): Writing sat = 1 to SAG.CCLR clears the saturated counter. -/
  | counterClearSat (ag : Agent) (s : Fin 128)
  /-- COUNTER_CLEAR_FLUSH (R170): Writing flush = 1 to SAG.CCLR clears the flushed counter. -/
  | counterClearFlush (ag : Agent) (s : Fin 128)
  /-- FRD (R159): The frd instruction reads the thread's fflags. -/
  | frd (at_ : At) (dst : Fin 64)
  /-- FRC (R159): The frc instruction reads and clears the thread's fflags. -/
  | frc (at_ : At) (dst : Fin 64)
  /-- BRK (R171): The brk instruction raises a BREAK instruction fault. -/
  | brk (at_ : At)
  /-- CBAR (R174): A bundle arrives at the cluster barrier, releasing it when every resident bundle of the launch has arrived or exited. -/
  | cbar (at_ : At)
  /-- SBAR (R175): A bundle arrives at a saggar barrier, setting or checking the count and releasing the round when it is reached. -/
  | sbar (at_ : At) (b : Fin 16) (n : BitVec 16)
  /-- BARRIER_TIMEOUT (R176): A barrier round not released within THR.BARTO faults every waiting bundle and starts a new round. -/
  | barrierTimeout (s : Fin 128) (b : Fin 16)
  /-- WAIT (R177): The wait instruction suspends the bundle until a word satisfies a condition or a time passes. -/
  | wait (at_ : At) (addr : DWord) (cond : WaitCond) (v : Word) (us : Word) (dst : Fin 64)
  /-- WAIT_TIMEOUT (R177): A wait's time passes and the bundle resumes with result 0. -/
  | waitTimeout (cl : Fin 256) (vu : Fin 4)
  /-- LOAD (R178): A thread load is translated, checked and performed. -/
  | load (at_ : At) (a : MemArgs) (ecc : Ecc)
  /-- STORE (R178): A thread store is translated, checked and performed. -/
  | store (at_ : At) (a : MemArgs)
  /-- FENCE_C (R179): fence.c orders memory operations at cluster scope. -/
  | fenceC (at_ : At)
  /-- FENCE_P (R179): fence.p orders memory operations at package scope. -/
  | fenceP (at_ : At)
  /-- FENCE_G (R179): fence.g orders memory operations at global scope. -/
  | fenceG (at_ : At)
  /-- AMO_LOAD (R180): An amo with op load is performed. -/
  | amoLoad (at_ : At) (a : AmoArgs)
  /-- AMO_STORE (R180): An amo with op store is performed. -/
  | amoStore (at_ : At) (a : AmoArgs)
  /-- AMO_SWAP (R180): An amo with op swap is performed. -/
  | amoSwap (at_ : At) (a : AmoArgs)
  /-- AMO_COMPARE_AND_SWAP (R180): An amo with op compare-and-swap is performed. -/
  | amoCompareAndSwap (at_ : At) (a : AmoArgs)
  /-- AMO_INTEGER_ADD (R180): An amo with op integer add is performed. -/
  | amoIntegerAdd (at_ : At) (a : AmoArgs)
  /-- AMO_BINARY32_ADD (R180): An amo with op binary32 add is performed with round to nearest and canonical NaN. -/
  | amoBinary32Add (at_ : At) (a : AmoArgs)
  /-- AMO_SIGNED_MIN (R180): An amo with op signed min is performed. -/
  | amoSignedMin (at_ : At) (a : AmoArgs)
  /-- AMO_SIGNED_MAX (R180): An amo with op signed max is performed. -/
  | amoSignedMax (at_ : At) (a : AmoArgs)
  /-- AMO_UNSIGNED_MIN (R180): An amo with op unsigned min is performed. -/
  | amoUnsignedMin (at_ : At) (a : AmoArgs)
  /-- AMO_UNSIGNED_MAX (R180): An amo with op unsigned max is performed. -/
  | amoUnsignedMax (at_ : At) (a : AmoArgs)
  /-- AMO_AND (R180): An amo with op and is performed. -/
  | amoAnd (at_ : At) (a : AmoArgs)
  /-- AMO_OR (R180): An amo with op or is performed. -/
  | amoOr (at_ : At) (a : AmoArgs)
  /-- AMO_XOR (R180): An amo with op xor is performed. -/
  | amoXor (at_ : At) (a : AmoArgs)
  /-- POISON_ACK (R192): A write of an entry's first word to SAG.PACK acknowledges it and reopens the channel. -/
  | poisonAck (ag : Agent) (s : Fin 128) (v : Word)
  /-- INV_4K (R210): A write to MEM.INV with size 0 starts invalidation of a 4 KiB range. -/
  | inv4k (ag : Agent) (s : Fin 128)
  /-- INV_2M (R210): A write to MEM.INV with size 1 starts invalidation of a 2 MiB range. -/
  | inv2m (ag : Agent) (s : Fin 128)
  /-- INV_1G (R210): A write to MEM.INV with size 2 starts invalidation of a 1 GiB range. -/
  | inv1g (ag : Agent) (s : Fin 128)
  /-- INV_ALL (R210): A write to MEM.INV with size 3 starts invalidation of the whole saggar. -/
  | invAll (ag : Agent) (s : Fin 128)
  /-- INVALIDATION_DONE (R210): An invalidation completes and MEM.INVSTAT.busy reads 0. -/
  | invalidationDone (s : Fin 128)
  /-- PAGE_MOVE (R214): A write to MEM.MOVE starts a page move, checks source and destination and holds accesses to the page. -/
  | pageMove (ag : Agent) (s : Fin 128)
  /-- PAGE_MOVE_DONE (R214): The page is copied, the leaf rewritten and invalidated, held accesses released and the status set. -/
  | pageMoveDone (s : Fin 128) (srcBad : Found Bool) (dstBad : Bool)
  /-- MEM_COMMIT (R217): A write to MEM.COMMIT commits or refuses the staged translation, window and save-area set of a saggar. -/
  | memCommit (ag : Agent) (s : Fin 128)
  /-- MEM_COMMIT_DONE (R217): Every cluster and the hub have applied the set, the generation advances and pend returns to 0. -/
  | memCommitDone (s : Fin 128)
  /-- PCIE_LINK_TRAINED (R222): The host link settles at a speed and width, setting or clearing PCI.LSTAT.slow. -/
  | pcieLinkTrained (speed : Fin 7) (width : Fin 17) (flit : Bool) (cfg : HostCfg)
  /-- PCIE_LINK_DOWN (R240): A surprise link down or data link loss (`dll`) poisons queues with host work in flight and resets the ring
  session. -/
  | pcieLinkDown (dll : Bool)
  /-- HOT_RESET (R240): A hot reset poisons queues with host work in flight and resets the ring session and driver claims. -/
  | hotReset
  /-- PERST_ASSERT (R448): PERST# asserted holds the host link in reset. -/
  | perstAssert
  /-- PERST_DEASSERT (R448): PERST# deasserted after READY causes a warm reset. -/
  | perstDeassert
  /-- ATS_INVALIDATION (R226): An ATS invalidation request removes translations and completes within 50 µs. -/
  | atsInvalidation (fn : Fin 65) (addr : DWord) (pages : Nat)
  /-- MSIX_UNMASK (R228): Unmasking an MSI-X vector with its pending bit set fires it. -/
  | msixUnmask (fn : Fin 65) (vec : Fin 264)
  /-- VF_ENABLE (R224): Setting VF Enable in the SR-IOV capability locks every PCI.VFMAP register. -/
  | vfEnable
  /-- VF_DISABLE (R224): Clearing VF Enable releases the lock of PCI.VFMAP. -/
  | vfDisable
  /-- VFMAP_WRITE (R224): A write to PCI.VFMAP maps a virtual function or is ignored for a lock or a duplicate. -/
  | vfmapWrite (ag : Agent) (v : Fin 64) (val : Word)
  /-- FLR_VF (R241): A function-level reset of a virtual function stops its queues and kills its saggar. -/
  | flrVf (v : Fin 64)
  /-- FLR_PF (R241): A function-level reset of the physical function acts on every saggar and queue and clears VF Enable. -/
  | flrPf
  /-- FLR_DONE (R241): Once requests of the function have ended, its view registers are reset and the reset completes. -/
  | flrDone (fn : Fin 65)
  /-- QPROD_WRITE (R229): A write to DMA.QPROD posts descriptors or is ignored and sets over. -/
  | qprodWrite (ag : Agent) (q : Fin 256) (v : Word)
  /-- QUEUE_ENABLE (R232): Writing en = 1 to DMA.QCTL resumes fetching at QFETCH and clears a halt. -/
  | queueEnable (ag : Agent) (q : Fin 256) (v : Word)
  /-- QUEUE_DISABLE (R232): Writing en = 0 to DMA.QCTL stops fetching while fetched descriptors run on. -/
  | queueDisable (ag : Agent) (q : Fin 256) (v : Word)
  /-- DESCRIPTOR_FETCH (R231): The DMA engine issues a read of posted descriptors, cut at QPROD and at the ring end. -/
  | descriptorFetch (q : Found (Fin 256))
  /-- DESCRIPTOR_FETCH_RETURN (R239): A descriptor read returns and its descriptors are accepted, or the queue halts on failure. -/
  | descriptorFetchReturn (q : Found (Fin 256)) (res : HostEnd) (data : List Byte)
  /-- COPY (R234): A DMA descriptor with op copy starts after its checks and fence. -/
  | copy (q : Fin 256)
  /-- FILL (R233): A DMA descriptor with op fill starts after its checks and fence. -/
  | fill (q : Fin 256)
  /-- RECORD_ONLY (R233): A DMA descriptor with op record only starts after its checks and fence. -/
  | recordOnly (q : Fin 256)
  /-- DMA_CHUNK (R236): The DMA engine serves one chunk of a ready queue in round-robin order. -/
  | dmaChunk (ecc : Ecc)
  /-- DMA_COMPLETE (R237): A descriptor finishes, its record is written in ring order and QCONS advances. -/
  | dmaComplete (q : Fin 256)
  /-- HOST_SIDE_ERROR (R238): A host-side error on a read, write or record poisons the queue of the descriptor. `tag` is the tag of
  the read, or the ring index of the descriptor whose data write failed. -/
  | hostSideError (tag : Nat) (q : Fin 256) (kind : HostErr)
  /-- HOST_COMPLETION_TIMEOUT (R238): A host read receives no completion within the completion timeout. -/
  | hostCompletionTimeout (tag : Nat)
  /-- UART_BYTE (R248): A byte is received on the UART and stored, edited, counted as lost or ends a line. -/
  | uartByte (b : Byte) (framing : Bool) (awake : Bool)
  /-- UART_BREAK (R275): A BREAK on the UART resets session 0. -/
  | uartBreak
  /-- RING_INPUT_PRODUCE (R249): A write to CON.IPROD posts input bytes or is ignored and sets over. -/
  | ringInputProduce (v : Word)
  /-- RING_OUTPUT_CONSUME (R249): A write to CON.OCONS frees output room or is ignored and sets over. -/
  | ringOutputConsume (v : Word)
  /-- RING_SESSION_RESET (R275): Writing reset = 1 to CON.RCTL resets session 1. -/
  | ringSessionReset
  /-- DRIVER_CLAIM (R272): A write to CON.CLAIM with req claim takes the resource for the driver if free. -/
  | driverClaim (k : Fin 16)
  /-- DRIVER_RELEASE (R272): A write to CON.CLAIM with req release gives back a claim the driver holds. -/
  | driverRelease (k : Fin 16)
  /-- LINE_CHECK_FAIL (R255): The management core takes a complete line that fails a framing or grammar check and answers with its error. -/
  | lineCheckFail (sess : Fin 2)
  /-- PARTIAL_LINE_TIMEOUT (R274): A partial line with no new byte for 30 s is discarded and answered with er 110. -/
  | partialLineTimeout (sess : Fin 2)
  /-- CHALLENGE_TIMEOUT (R274): A pending service challenge is voided after 30 s. -/
  | challengeTimeout (sess : Fin 2)
  /-- SERVICE_LOCKOUT_END (R274): The 60 s service lockout of a session ends. -/
  | serviceLockoutEnd (sess : Fin 2)
  /-- SESSION_IDLE_TIMEOUT (R274): A session idle beyond CON.CFG.idle returns to its starting privilege and releases claims. -/
  | sessionIdleTimeout (sess : Fin 2)
  /-- COMMAND_TIMEOUT (R282): A command reaches its time limit, issues no further effect and is answered with er 600. -/
  | commandTimeout
  /-- MODE (R264): The mode command changes its session's mode after its response. -/
  | mode (sess : Fin 2)
  /-- PRIV (R268): The priv command reports or changes the session's privilege, or starts the service challenge. -/
  | priv (sess : Fin 2)
  /-- PRIV_ANSWER (R269): The priv answer command checks the service answer and raises the session or counts a failure. -/
  | privAnswer (sess : Fin 2)
  /-- CLAIM (R272): The claim command takes a claim for the session. -/
  | claim (sess : Fin 2)
  /-- RELEASE (R272): The release command gives back a claim of the session. -/
  | release (sess : Fin 2)
  /-- CLAIM_BREAK (R272): The claim break command breaks any holder's claim and logs it. -/
  | claimBreak (sess : Fin 2)
  /-- CLAIMS (R285): The claims command lists the holder of every resource. -/
  | claims (sess : Fin 2)
  /-- NOTIFY (R295): The notify command sets the session's notice level. -/
  | notify (sess : Fin 2)
  /-- HELP (R285): The help command lists command syntax and levels. -/
  | help (sess : Fin 2)
  /-- COLOPHON (R450): The colophon command writes the colophon fields. -/
  | colophon (sess : Fin 2)
  /-- STATUS (R286): The status command reports package state, source, chip, online count, generation and time trust. -/
  | status (sess : Fin 2)
  /-- CLU (R286): The clu command reports cluster state from CLU.STAT and CLU.BUSY. -/
  | clu (sess : Fin 2)
  /-- FLASH_INFO (R286): The flash info command reports flash size, log size and image area use. -/
  | flashInfo (sess : Fin 2)
  /-- ACLK (R287): The aclk command reports the DVFS point in force and requested. -/
  | aclk (sess : Fin 2)
  /-- ACLK_SET (R287): The aclk set command writes HUB.ACLK.target and waits for the transition. -/
  | aclkSet (sess : Fin 2)
  /-- PWR_SHOW (R287): The pwr show command lists domain states. -/
  | pwrShow (sess : Fin 2)
  /-- PWR_REQ (R288): The pwr req command requests states of domains through the handshake, or forces them. -/
  | pwrReq (sess : Fin 2)
  /-- PWR_REFUSALS (R287): The pwr refusals command lists the refuser table and may clear it. -/
  | pwrRefusals (sess : Fin 2)
  /-- SUP_RAILS (R289): The sup rails command reports each rail's voltage and state. -/
  | supRails (sess : Fin 2)
  /-- SUP_PHASES (R289): The sup phases command reports each regulator phase and the cap. -/
  | supPhases (sess : Fin 2)
  /-- SUP_BAK (R289): The sup bak command reports the backup store. -/
  | supBak (sess : Fin 2)
  /-- LNK_SHOW (R290): The lnk show command reports port states. -/
  | lnkShow (sess : Fin 2)
  /-- LNK_TRAIN (R290): The lnk train command starts training of a port. -/
  | lnkTrain (sess : Fin 2)
  /-- LNK_PARK (R290): The lnk park command parks a port. -/
  | lnkPark (sess : Fin 2)
  /-- LNK_ALLOC (R291): The lnk alloc command writes the lane allocation to flash and brings the link layer up under it. -/
  | lnkAlloc (sess : Fin 2)
  /-- FAB_SHOW (R290): The fab show command reports slice membership. -/
  | fabShow (sess : Fin 2)
  /-- FAB_ROUTE (R290): The fab route command reports the routing entry of a chip. -/
  | fabRoute (sess : Fin 2)
  /-- FAB_CHIP (R290): The fab chip command sets or releases the chip-number override. -/
  | fabChip (sess : Fin 2)
  /-- FAB_SLICE (R290): The fab slice command writes the slice identity to the configuration record and FAB.SLICEID. -/
  | fabSlice (sess : Fin 2)
  /-- TIME_SHOW (R290): The time show command reports fabric time and skew. -/
  | timeShow (sess : Fin 2)
  /-- TIME_SET (R357): The time set command sets fabric time on a master or a chip in no slice. -/
  | timeSet (sess : Fin 2)
  /-- COL_SHOW (R290): The col show command lists quires with collectives in progress. -/
  | colShow (sess : Fin 2)
  /-- SAG_SHOW (R292): The sag show command reports a saggar's state and quotas. -/
  | sagShow (sess : Fin 2)
  /-- SAG_EN (R292): The sag en command enables a saggar. -/
  | sagEn (sess : Fin 2)
  /-- SAG_DIS (R292): The sag dis command disables a saggar. -/
  | sagDis (sess : Fin 2)
  /-- SAG_KILL (R292): The sag kill command kills a saggar and waits for OFF. -/
  | sagKill (sess : Fin 2)
  /-- SAG_QUOTA (R292): The sag quota command writes cluster, tile-slot and slice quotas. -/
  | sagQuota (sess : Fin 2)
  /-- SAG_MASK (R292): The sag mask command sets SAG.CMASK. -/
  | sagMask (sess : Fin 2)
  /-- SAG_REC (R292): The sag rec command lists the trap, fault or poison records. -/
  | sagRec (sess : Fin 2)
  /-- SAG_ACK_TRAP (R292): The sag ack trap command acknowledges the trap record. -/
  | sagAckTrap (sess : Fin 2)
  /-- SAG_ACK_FAULT (R292): The sag ack fault command acknowledges the fault record. -/
  | sagAckFault (sess : Fin 2)
  /-- SAG_ACK_POISON (R292): The sag ack poison command acknowledges one poison entry. -/
  | sagAckPoison (sess : Fin 2)
  /-- SAG_COUNT (R292): The sag count command reports and may clear a saggar's counters. -/
  | sagCount (sess : Fin 2)
  /-- CRV_SHOW (R293): The crv show command lists table or recipe slots. -/
  | crvShow (sess : Fin 2)
  /-- CRV_LOAD (R293): The crv load command loads a table or recipe from flash. -/
  | crvLoad (sess : Fin 2)
  /-- CRV_UNLOAD_CMD (R293): The crv unload command unloads a table or recipe slot. -/
  | crvUnloadCmd (sess : Fin 2)
  /-- CRV_BIND (R293): The crv bind command stages a binding. -/
  | crvBind (sess : Fin 2)
  /-- CRV_PERM (R293): The crv perm command stages the recipe permission mask. -/
  | crvPerm (sess : Fin 2)
  /-- CRV_MODE (R293): The crv mode command writes CRV.MODE. -/
  | crvMode (sess : Fin 2)
  /-- CRV_COMMIT (R293): The crv commit command commits a saggar's staged bindings and waits for pend 0. -/
  | crvCommit (sess : Fin 2)
  /-- LOG_SHOW (R294): The log show command lists log entries and records. -/
  | logShow (sess : Fin 2)
  /-- LOG_MARK (R294): The log mark command writes an info entry with a string. -/
  | logMark (sess : Fin 2)
  /-- LOG_CLEAR (R294): The log clear command empties the ring and erases the flash mirror. -/
  | logClear (sess : Fin 2)
  /-- STAGE_SHOW (R296): The stage show command lists staged settings and the generation. -/
  | stageShow (sess : Fin 2)
  /-- STAGE_SET (R296): The stage set command records a value in the staged set. -/
  | stageSet (sess : Fin 2)
  /-- STAGE_DROP (R296): The stage drop command empties the staged set. -/
  | stageDrop (sess : Fin 2)
  /-- COMMIT (R296): The commit command commits the staged set under the next generation. -/
  | commit (sess : Fin 2)
  /-- KEY_SHOW (R298): The key show command reports whether a key is present and its kid. -/
  | keyShow (sess : Fin 2)
  /-- KEY_SET (R299): The key set command writes a new installation key and lowers service sessions. -/
  | keySet (sess : Fin 2)
  /-- KEY_CLEAR (R298): The key clear command removes the installation key. -/
  | keyClear (sess : Fin 2)
  /-- RESET (R300): The reset command drains its response and then starts a warm or cold reset. -/
  | reset (sess : Fin 2)
  /-- TEST_RESULT (R298): The test result command lists the last self-test results. -/
  | testResult (sess : Fin 2)
  /-- TEST_BSCAN (R452): The test bscan command gives the boundary-scan port to the board or takes it back. -/
  | testBscan (sess : Fin 2)
  /-- DRAIN_COMPLETE (R283): A drained chip is no longer at load, the setting is applied and saggars and queues are re-enabled. -/
  | drainComplete
  /-- DRAIN_TIMEOUT (R283): A drain not done within 30 s re-enables saggars and queues without applying the setting. -/
  | drainTimeout
  /-- SIGNAL_DETECT (R308): Signal on at least 2 lanes for 1 ms starts a training attempt. -/
  | signalDetect (p : Fin 12)
  /-- LANE_PHASE_DONE (R310): Lock and good-lane masks are exchanged and the link width is chosen. -/
  | lanePhaseDone (p : Fin 12) (mine : BitVec 96) (arrive : List Nat) (peerGood : BitVec 96) (peerCount : Nat)
  /-- ALIGN_PHASE_DONE (R309): Lanes are deskewed and the flit boundary locked. -/
  | alignPhaseDone (p : Fin 12)
  /-- IDENT (R315): An IDENT message is received and checked. -/
  | ident (p : Fin 12) (flit : List Byte)
  /-- AUTH (R316): An AUTH message is received and its tag verified. -/
  | auth (p : Fin 12) (flit : List Byte)
  /-- ARM (R317): An ARM message is received and the link becomes UP. -/
  | arm (p : Fin 12) (flit : List Byte)
  /-- RESUME (R329): A RESUME message is received and replay begins from the partner's E. -/
  | resume (p : Fin 12) (flit : List Byte)
  /-- TRAINING_PHASE_TIMEOUT (R311): A training phase times out and the attempt fails, to QUIET or PARKED. -/
  | trainingPhaseTimeout (p : Fin 12)
  /-- QUIET_END (R311): The 10 ms QUIET pause ends and the port returns to DETECT. -/
  | quietEnd (p : Fin 12)
  /-- UNPLUG (R312): Loss of signal for 10 µs during an attempt abandons it and sends the port to DETECT. -/
  | unplug (p : Fin 12)
  /-- REPROBE (R313): At a reprobe time a parked port turns its transmitter on and listens for signal. -/
  | reprobe (p : Fin 12)
  /-- REPROBE_WINDOW_END (R313): A reprobe sees no signal within 20 ms and the port returns to PARKED. -/
  | reprobeWindowEnd (p : Fin 12)
  /-- LNK_TRAIN_START (R314): Writing start to LNK.TRAIN resets the failure count and starts an attempt. -/
  | lnkTrainStart (ag : Agent) (p : Fin 12)
  /-- LNK_TRAIN_PARK (R314): Writing park to LNK.TRAIN parks the port, taking an UP link down in order. -/
  | lnkTrainPark (ag : Agent) (p : Fin 12)
  /-- DATA (R323): A DATA flit is received and accepted, discarded as duplicate or ahead, or NAKed on a check failure. -/
  | data (p : Fin 12) (flit : List Byte)
  /-- NULL (R321): A NULL flit is received and its ack and credits applied. -/
  | nullFlit (p : Fin 12) (flit : List Byte)
  /-- NAK (R324): A NAK flit is received and the sender replays from A. -/
  | nak (p : Fin 12) (flit : List Byte)
  /-- TRAIN (R309): A TRAIN flit is received, carrying a training message or being a protocol error while UP. -/
  | train (p : Fin 12) (flit : List Byte)
  /-- DOWN (R330): A DOWN flit is received and the link goes down. -/
  | down (p : Fin 12) (flit : List Byte)
  /-- NULL_FLIT_TIMER (R321): A port with nothing to send sends a NULL flit at least every 1 µs. -/
  | nullFlitTimer (p : Fin 12)
  /-- NAK_EXPIRY (R323): An outstanding NAK expires after 10 µs without E advancing. -/
  | nakExpiry (p : Fin 12)
  /-- REPLAY_TIMEOUT (R324): A has not advanced for 10 µs and the sender replays, entering RETRAIN after 8 replays. -/
  | replayTimeout (p : Fin 12)
  /-- LOCK_LOSS (R328): A lane loses clock-data lock for 1 µs and the link enters RETRAIN. -/
  | lockLoss (p : Fin 12) (lane : Fin 96)
  /-- CODEWORD_ERRORS (R328): A lane has more than 4 uncorrectable codewords in 1 ms and the link enters RETRAIN. -/
  | codewordErrors (p : Fin 12) (lane : Fin 96) (n : Nat)
  /-- SYMBOL_ERROR_RATIO (R328): A lane's symbol error ratio exceeds 10^-4 over 1 ms and the link enters RETRAIN. -/
  | symbolErrorRatio (p : Fin 12) (lane : Fin 96) (n : Nat)
  /-- FLIT_SILENCE (R328): No flit arrives for 10 µs and the link enters RETRAIN. -/
  | flitSilence (p : Fin 12)
  /-- RETRAIN_PATTERN (R328): A partner's retrain pattern is seen and the port enters RETRAIN. -/
  | retrainPattern (p : Fin 12)
  /-- RETRAIN_TIMEOUT (R329): No replayed flit is sent within 2 ms of the trigger and the link goes down. -/
  | retrainTimeout (p : Fin 12)
  /-- ORDERLY_DOWN_END (R330): An orderly down ends when A reaches N or 1 ms passes, handing back unknown flits. -/
  | orderlyDownEnd (p : Fin 12)
  /-- WRITE (R343): A WRITE packet is received and performed, held, forwarded or discarded by sequence. -/
  | write (p : Fin 12) (vc : Found (Fin 8))
  /-- READ (R343): A READ packet is received and performed with a RESP, held, forwarded or discarded. -/
  | read (p : Fin 12) (vc : Found (Fin 8))
  /-- ATOMIC (R343): An ATOMIC packet is received and performed at the target, held, forwarded or discarded. -/
  | atomic (p : Fin 12) (vc : Found (Fin 8))
  /-- RESP (R343): A RESP packet is received and completes the requesting access. -/
  | resp (p : Fin 12) (vc : Found (Fin 8))
  /-- ACK (R344): An ACK packet is received and releases acknowledged packets of a stream. -/
  | ack (p : Fin 12)
  /-- CLOSE (R345): A CLOSE packet is received, the stream entry freed and CLOSED answered. -/
  | close (p : Fin 12)
  /-- CLOSED (R345): A CLOSED packet is received and the source frees its stream entry. -/
  | closed (p : Fin 12)
  /-- PACKET_RESEND_TIMER (R344): An unacknowledged sequenced packet is resent 1 ms after its last send. -/
  | packetResendTimer (key : Nat) (seq : Word)
  /-- STREAM_FAILURE_DECLARED (R344): A stream's operation is declared failed, its channel poisoned and the stream abandoned. -/
  | streamFailureDeclared (key : Nat)
  /-- STREAM_CLOSE (R345): A stream fully acknowledged and idle for 1 ms is closed by sending CLOSE. -/
  | streamClose (key : Nat)
  /-- ABANDON_CLOSE_TIMER (R345): An abandoning CLOSE is sent again every 1 ms until CLOSED arrives. -/
  | abandonCloseTimer (key : Nat)
  /-- HOP_HOLD_TIMEOUT (R341): A packet held more than 50 µs at one hop is discarded. -/
  | hopHoldTimeout
  /-- HELLO (R350): A HELLO message is received and the path toward the master updated. -/
  | hello (p : Fin 12) (m : HelloMsg)
  /-- HELLO_TIMER (R350): A chip sends HELLO to its neighbours every 100 ms. -/
  | helloTimer
  /-- ELECT (R351): An ELECT message is received and passed on if its candidate is better. -/
  | elect (p : Fin 12) (src : BitVec 12) (slice : BitVec 16) (cand : BitVec 12) (epoch : Word)
  /-- ELECTION_START (R351): An eligible chip that hears no master for 5 ms starts an election. -/
  | electionStart
  /-- BECOME_MASTER (R351): A candidate that hears no better candidate for 5 ms becomes master. -/
  | becomeMaster
  /-- JOIN (R352): A JOIN message reaches the master, which checks and admits, quarantines or refuses. -/
  | join (p : Fin 12) (src : BitVec 12) (slice : BitVec 16) (m : JoinMsg)
  /-- ADMIT (R352): An ADMIT message is received by the newcomer. -/
  | admission (p : Fin 12) (src : BitVec 12) (slice : BitVec 16) (dst : BitVec 12) (epoch : Word)
  /-- QUAR (R352): A QUAR message places the newcomer in quarantine. -/
  | quar (p : Fin 12) (src : BitVec 12) (slice : BitVec 16) (dst : BitVec 12) (cause : Byte)
  /-- REFUSE (R352): A REFUSE message places the newcomer in the refused state. -/
  | refuse (p : Fin 12) (src : BitVec 12) (slice : BitVec 16) (dst : BitVec 12) (cause : Byte)
  /-- TABLE (R354): A TABLE message delivers a segment of the member's routing table. -/
  | table (p : Fin 12) (src : BitVec 12) (slice : BitVec 16) (m : TableMsg)
  /-- SLICE_COMMIT_MSG (R354): A COMMIT message makes the member apply its new table and epoch. -/
  | sliceCommitMsg (p : Fin 12) (src : BitVec 12) (slice : BitVec 16) (epoch : Word) (master : BitVec 12) (members : List HandMember)
  /-- TSYNC (R357): A TSYNC message is received and answered with TSYNCR. -/
  | tsync (p : Fin 12) (src : BitVec 12) (slice : BitVec 16) (t : DWord)
  /-- TSYNCR (R357): A TSYNCR message is received and the child's offset corrected by step or slew. -/
  | tsyncr (p : Fin 12) (src : BitVec 12) (slice : BitVec 16) (offset : Int) (rtt : Nat)
  /-- TSYNC_TIMER (R357): A parent sends TSYNC to its children every 1 ms. -/
  | tsyncTimer
  /-- TSYNC_MISSING (R358): A missing time exchange for 10 ms sets TIME_UNTRUSTED. -/
  | tsyncMissing
  /-- LEAVE (R353): A LEAVE message reaches the master, which commits without the member. -/
  | leave (p : Fin 12) (src : BitVec 12) (slice : BitVec 16) (chip : BitVec 12)
  /-- HANDOVER (R351): A HANDOVER message passes mastership and state to the new master. -/
  | handover (p : Fin 12) (src : BitVec 12) (slice : BitVec 16) (m : HandoverMsg)
  /-- UPDATE (R353): An UPDATE message reports a member's port states and hash to the master. -/
  | update (p : Fin 12) (src : BitVec 12) (slice : BitVec 16) (m : UpdateMsg)
  /-- MASTER_LOSS (R353): A member that hears no COMMIT or TSYNC for 10 ms starts an election. -/
  | masterLoss
  /-- HASH_MISMATCH_TIMEOUT (R353): A member whose hash has differed from the master's for 1 s is quarantined. -/
  | hashMismatchTimeout (chip : BitVec 12)
  /-- QUARANTINE_REJOIN (R352): A quarantined chip sends JOIN again at least once every 1 s. -/
  | quarantineRejoin
  /-- CHIPOV_WRITE (R338): A write to FAB.CHIPOV changes the chip-number source and the chip rejoins. -/
  | chipovWrite (ag : Agent) (v : Word)
  /-- SLICEID_WRITE (R348): A write to FAB.SLICEID changes the slice identity and the hash. -/
  | sliceidWrite (ag : Agent) (v : Word)
  /-- TWIST_WRITE (R359): A write to FAB.TWIST changes the twist and hash, or is ignored and sets FAB.ERR.twist. -/
  | twistWrite (ag : Agent) (d : Fin 6) (v : Word)
  /-- FORM (R365): A coll FORM operation forms a quire after digest exchange. -/
  | form (at_ : At) (cmd : DWord)
  /-- DISSOLVE (R365): A coll DISSOLVE frees the quire entry after earlier operations. -/
  | dissolve (at_ : At) (cmd : DWord)
  /-- REDUCE (R372): A coll REDUCE operation merges inputs along the tree to the root. -/
  | reduce (at_ : At) (cmd : DWord)
  /-- ALLREDUCE (R372): A coll ALLREDUCE operation merges along the tree and delivers to every member. -/
  | allreduce (at_ : At) (cmd : DWord)
  /-- BCAST (R372): A coll BCAST operation sends the root's data to every member. -/
  | bcast (at_ : At) (cmd : DWord)
  /-- BARRIER (R382): A coll BARRIER operation completes when every member has issued it. -/
  | barrier (at_ : At) (cmd : DWord)
  /-- COLL_START (R369): A collective operation starts its round when the previous operation of the quire has written its record. -/
  | collStart (i : Fin 256) (ecc : Ecc)
  /-- CFORM (R375): A CFORM packet is received, used or held, and acknowledged. -/
  | cform (p : Fin 13) (vc : Fin 8)
  /-- CDATA (R375): A CDATA packet is received, merged, held or discarded, and acknowledged. -/
  | cdata (p : Fin 13) (vc : Fin 8)
  /-- CACK (R375): A CACK packet is received and releases the covered packet. -/
  | cack (p : Fin 13) (vc : Fin 8)
  /-- CABORT (R377): A CABORT packet is received and breaks the quire at this member. -/
  | cabort (p : Fin 13) (vc : Fin 8)
  /-- COLL_RESEND_TIMER (R375): An unacknowledged collective packet is resent every 1 ms. -/
  | collResendTimer (i : Fin 256) (k : Nat)
  /-- COLL_TIMEOUT (R377): The collective timeout passes, the round fails with COL_TIMEOUT and CABORT is sent. -/
  | collTimeout (i : Fin 256)
  /-- CFORM_HOLD_EXPIRY (R375): A CFORM held for an unformed qid is discarded after the collective timeout. -/
  | cformHoldExpiry
  /-- IDLE_TIMER_EXPIRY (R391): A domain's idle timer reaches its limit and a timer entry to BANKED starts. -/
  | idleTimerExpiry (d : Fin 278)
  /-- PWR_REQ_ACTIVE (R395): A write to PWR.REQ with state ACTIVE requests a wake of a domain. -/
  | pwrReqActive (ag : Agent) (v : Word)
  /-- PWR_REQ_IDLE (R395): A write to PWR.REQ with state IDLE requests entry to IDLE. -/
  | pwrReqIdle (ag : Agent) (v : Word)
  /-- PWR_REQ_BANKED (R395): A write to PWR.REQ with state BANKED requests entry to BANKED. -/
  | pwrReqBanked (ag : Agent) (v : Word)
  /-- HANDSHAKE_ANSWER (R392): A power port answers ACCEPT, REFUSE or DEFER, reaching the commit point or ending the entry. -/
  | handshakeAnswer (d : Fin 278) (k : Fin 32) (busy : Bool)
  /-- DEFER_TIMEOUT (R392): A deferring port does not answer within 100 µs and the entry is aborted. -/
  | deferTimeout (d : Fin 278)
  /-- ENTRY_RETRY (R390): A refused timer entry is retried every PWR.RETRY µs. -/
  | entryRetry (d : Fin 278)
  /-- ENTRY_COMPLETE (R401): A domain reaches IDLE or BANKED after its commit point. -/
  | entryComplete (d : Fin 278)
  /-- FORCED_ENTRY (R396): A service-level forced entry skips the handshake and aborts work in the domain. -/
  | forcedEntry (d : Fin 278)
  /-- FORCED_ENTRY_DRAIN_TIMEOUT (R396): Memory operations not performed within 1 ms of a forced entry fail and poison their channels. -/
  | forcedEntryDrainTimeout (d : Fin 278)
  /-- WAKE_STEP_READY (R402): A wake step's ready signal arrives and the next step of regulator, oscillator, memory or logic begins. -/
  | wakeStepReady (d : Fin 278)
  /-- WAKE_WAVE (R402): A new wave of up to 32 cluster wakes from BANKED starts every 2 µs. -/
  | wakeWave
  /-- WAKE_COMPLETE (R401): A domain reaches ACTIVE, releases clamps and held requests proceed. -/
  | wakeComplete (d : Fin 278) (ret : RetErr)
  /-- REFUSER_TABLE_CLEAR (R398): A write to PWR.REFCLR empties the refuser table. -/
  | refuserTableClear (ag : Agent)
  /-- PWRON_RISE (R413): PWRON rises and the power-on sequence runs. -/
  | pwronRise
  /-- PWRON_FALL (R413): PWRON falls, the hub banks in order and the main rails power down. -/
  | pwronFall
  /-- RAIL_GOOD (R412): A rail reports good and the next rail of the sequence is enabled. -/
  | railGood (k : Fin 6) (mv : Nat)
  /-- RAIL_GOOD_TIMEOUT (R412): A rail not good within 10 ms of enable ends the sequence and powers down. -/
  | railGoodTimeout
  /-- RAIL_WARNING_CROSSING (R420): A rail crosses below an armed warning level and the throttle stretches the clocks. -/
  | railWarningCrossing (k : Fin 6) (mv : Nat)
  /-- RAIL_RESET_CROSSING (R413): A main rail crosses its reset level and every main rail drops at once. -/
  | railResetCrossing (k : Fin 6) (mv : Nat)
  /-- RESTART_TIMER (R413): 10 ms after a main-rail reset with PWRON high the power-on sequence runs again. -/
  | restartTimer
  /-- CURRENT_LIMIT (R420): VCORE current above ILIM for 1 µs raises the throttle. -/
  | currentLimit
  /-- POWER_CAP (R420): Package power above the cap raises the throttle. -/
  | powerCap
  /-- CAP_NOT_HELD (R416): Package power still above the cap after 1 ms of throttle forces the three-lost-phase action. -/
  | capNotHeld
  /-- THROTTLE_RELEASE (R421): Every throttle source has released and the episode ends with its event. -/
  | throttleRelease (mv : Calm)
  /-- PHASE_DROP (R415): A regulator phase open or sense-failed for 8 µs is dropped and the limits of R416 applied. -/
  | phaseDrop (drops : List (Fin 16 × Bool))
  /-- ORDERLY_ENTRY_TIMEOUT (R417): A commanded hub entry not BANKED within 10 ms becomes a forced entry. -/
  | orderlyEntryTimeout
  /-- PHASE_LOCK_CLEAR (R418): Writing 1 to SUP.PHSTAT.lock clears the phase lock. -/
  | phaseLockClear (ag : Agent)
  /-- ENERGY_ESTIMATE (R423): The always-on domain estimates usable backup energy every 1 ms and may start a snapshot or brown record. -/
  | energyEstimate (vaux vbak : Nat)
  /-- VAUX_HANDOVER (R428): VAUX crosses below 3.05 V and the hand-over to VBAK starts, or a brown record is written without a store. -/
  | vauxHandover (vaux vbak : Nat)
  /-- HANDOVER_DONE (R428): The hand-over to VBAK completes within 2 ms. -/
  | handoverDone
  /-- VAUX_RETURN (R429): VAUX stays above 3.15 V for 50 ms and the domain returns to VAUX. -/
  | vauxReturn
  /-- VAUX_LOSS (R431): VAUX crosses 2.85 V without a backup and the always-on domain resets. -/
  | vauxLoss
  /-- FLASH_PROGRAM_DONE (R425): A flash page program finishes and is verified. -/
  | flashProgramDone (ok : Bool)
  /-- FLASH_ERASE_DONE (R425): A flash sector erase finishes and is verified. -/
  | flashEraseDone (ok : Bool)
  /-- MIRROR_PROGRAM (R475): The mirror starts programming a page of two entries, or an erase ahead, when available and allowed. -/
  | mirrorProgram
  /-- MIRROR_RETRY (R465): A paused mirror is retried after 1 s. -/
  | mirrorRetry
  /-- AON_POWER_ON (R436): VAUX reaches 2.85 V on an unpowered always-on domain, which starts, latches straps and restores log numbering. -/
  | aonPowerOn (straps : BitVec 5) (pwron : Bool)
  /-- CRYSTAL_STABLE (R436): The crystal becomes stable and always-on timers switch to it. -/
  | crystalStable
  /-- COLD_START (R441): A cold start begins from step 1 of the start-up sequence. -/
  | coldStart (straps : BitVec 5)
  /-- START_STEP_DONE (R441): A start-up step ends and the next begins, ending in READY, FAILED or SCAN. -/
  | startStepDone (r : StepRes)
  /-- WARM_RESET (R446): A warm reset resets hub and clusters with rails on and restarts from step 6. -/
  | warmReset
  /-- SYSRST (R447): SYSRST_N held low for 1 ms causes a cold reset. -/
  | sysrst
  /-- BYPASS (R453): The boundary-scan instruction BYPASS is selected. -/
  | bypass
  /-- IDCODE (R453): The boundary-scan instruction IDCODE is selected. -/
  | idcode
  /-- SAMPLE_PRELOAD (R453): The boundary-scan instruction SAMPLE/PRELOAD is selected. -/
  | samplePreload (pins shift : BitVec 65)
  /-- EXTEST (R454): The boundary-scan instruction EXTEST drives covered pins in SCAN. -/
  | extest (pins shift : BitVec 65)
  /-- CLAMP (R453): The boundary-scan instruction CLAMP is selected in SCAN. -/
  | clamp
  /-- HIGHZ (R453): The boundary-scan instruction HIGHZ is selected in SCAN. -/
  | highz
  /-- TABLE_STORE_ERROR (R460): An uncorrectable table-store error is repaired from the other copy or fails the slot. -/
  | tableStoreError (recipe : Bool) (slot : Fin 128) (both : Bool) (cl : Option (Fin 256))
  /-- TEMP_SAMPLE (R463): The hub reads each die's sensor every 10 µs and acts on thresholds. -/
  | tempSample (t0 t1 t2 : BitVec 16)
  /-- TEMP_BANK (R463): A temperature above 110 °C for 1 ms commands an orderly entry of the hub to BANKED. -/
  | tempBank
  /-- TEMP_TRIP (R463): A temperature above 125 °C for 10 µs drops the main rails. -/
  | tempTrip
  /-- WATCHDOG_EXPIRY (R464): The management core fails to signal the watchdog for 2 s and is reset. -/
  | watchdogExpiry
  /-- LOG_ENTRY_WRITE (R472): The always-on domain writes the next queued event as a log entry with the next sequence number. -/
  | logEntryWrite
  /-- COALESCE_WINDOW_END (R473): A 100 ms coalescing window ends and its further entry is queued if occurrences came. -/
  | coalesceWindowEnd (code : BitVec 16) (src : Word)
  /-- LOG_FETCH (R476): A write to LOG.SEL starts fetching an entry into LOG.ENT. -/
  | logFetch (ag : Agent) (v : Word)
  /-- LOG_FETCH_DONE (R476): The fetch of an entry completes from the ring or mirror or finds it not held. -/
  | logFetchDone
  /-- STAGE_REGISTER_WRITE (R487): A write to HUB.STG stages or removes a setting, or is refused for range or during a commit. -/
  | stageRegisterWrite (ag : Agent) (k : Fin 5) (v : Word)
  /-- STAGE_COMMIT_WRITE (R488): A write to HUB.STGCMT commits the staged set under the next generation. -/
  | stageCommitWrite (ag : Agent)
  /-- COMMIT_SAFE_POINT (R489): A domain reaches its safe point and applies the commit, the last one completing it. -/
  | commitSafePoint
  /-- REGISTER_READ_CLEAR (R10): A read of an RC field returns its value and clears it to zero in the same access. -/
  | registerReadClear (ag : Agent) (off : RegOff)
  /-- VECTOR_ARITHMETIC (R40): A vector instruction performs IEEE 754-2019 arithmetic, comparisons or integer work per lane, raising sticky flags and flushing in RELAXED mode. -/
  | vectorArithmetic (at_ : At) (a : VecArgs)
  /-- ILLEGAL_INSTRUCTION (R171): An undefined instruction or one with a non-zero reserved field takes an ILLEGAL instruction fault. -/
  | illegalInstruction (at_ : At)
  /-- HOST_READ_COMPLETION (R237): A completion for a host memory read arrives with data, letting a DMA chunk, table load or HOST load continue. -/
  | hostReadCompletion (tag : Nat) (data : List Byte)
  /-- ATS_TRANSLATION_COMPLETION (R226): The host answers an ATS translation request, filling the translation cache or ending the access with MEM_FAULT. -/
  | atsTranslationCompletion (fn : Fin 65) (page : DWord) (res : AtsEnd)
  /-- TRAIN_RESEND (R309): During IDENT, AUTH and ARM the port sends its TRAIN flit again every 1 µs until the next phase begins. -/
  | trainResend (p : Fin 12)
  /-- RAIL_FALL_TIMEOUT (R412): During power-down, 10 ms pass without the following rail falling below its reset level and the next rail is disabled anyway. -/
  | railFallTimeout
  /-- AON_TEMP_READ (R463): After a thermal banking the always-on domain reads every sensor at 1 ms intervals and, once all are at or below 95 °C, serves the latched wakes. -/
  | aonTempRead (t0 t1 t2 : BitVec 16)
  /-- RESET_START (R300): The reset commanded by reset begins once its response has drained from the UART, within 10 ms after the last byte. -/
  | resetStart
  deriving DecidableEq, Repr

end Sys2Proof
end

