-- ==== Sys2Proof/Machine/Tab.lean ====
section
/-!
DEFINITION. Reading and writing the sparse tables of per-instance state, and the byte and bit-field
helpers every other file uses: little-endian packing (R7), bit fields (R6), saturating addition (R11).
-/
namespace Sys2Proof

/-- The entry of instance `k`, or the reset value `d`. -/
def Tab.look {α : Type} (d : α) : Tab α → Nat → α
  | [], _ => d
  | (j, v) :: t, k => if j = k then v else Tab.look d t k

/-- Set instance `k`. -/
def Tab.put {α : Type} : Tab α → Nat → α → Tab α
  | [], k, v => [(k, v)]
  | (j, w) :: t, k, v =>
    if j = k then (k, v) :: t
    else if k < j then (k, v) :: (j, w) :: t
    else (j, w) :: Tab.put t k v

/-- Change instance `k` by `f`, from the reset value `d` when it is unlisted. -/
def Tab.upd {α : Type} (d : α) (t : Tab α) (k : Nat) (f : α → α) : Tab α :=
  Tab.put t k (f (Tab.look d t k))

/-- Remove instance `k`, so that it reads as its reset value again. -/
def Tab.del {α : Type} : Tab α → Nat → Tab α
  | [], _ => []
  | (j, w) :: t, k => if j = k then Tab.del t k else (j, w) :: Tab.del t k

/-- Map every listed instance. -/
def Tab.mapV {α β : Type} (f : Nat → α → β) (t : Tab α) : Tab β :=
  List.map (fun p => (p.1, f p.1 p.2)) t

/-- The first element that satisfies `p`. -/
def firstSome {α : Type} (p : α → Bool) (l : List α) : Option α := l.find? p

/-- `n` numbers from `a` on. -/
def rangeFrom (a n : Nat) : List Nat := (List.range n).map (a + ·)

/-- Bits `[hi:lo]` of a natural number (R6). -/
def bits (x hi lo : Nat) : Nat := (x >>> lo) % 2 ^ (hi + 1 - lo)

/-- Bit `n` as a Bool. -/
def bit (x n : Nat) : Bool := x.testBit n

/-- A Bool as bit 0. -/
def b2n (b : Bool) : Nat := if b then 1 else 0

/-- The low `n` bytes of `x`, little-endian (R7). -/
def leBytes : Nat → Nat → List Byte
  | 0, _ => []
  | n + 1, x => BitVec.ofNat 8 x :: leBytes n (x / 256)

/-- The value of a little-endian byte string (R7). -/
def leVal : List Byte → Nat
  | [] => 0
  | b :: t => b.toNat + 256 * leVal t

/-- `n` bytes of a byte string from offset `o`, as a little-endian value; missing bytes count as zero. -/
def leAt (l : List Byte) (o n : Nat) : Nat := leVal ((l.drop o).take n)

/-- The low `n` bytes of `x`, most significant first. -/
def beBytes (n x : Nat) : List Byte := (leBytes n x).reverse

/-- The value of a big-endian byte string. -/
def beVal (l : List Byte) : Nat := leVal l.reverse

/-- Saturating addition at the bound `2^w − 1` (R11, R81). -/
def satAdd (w a b : Nat) : Nat := min (a + b) (2 ^ w - 1)

/-- Signed value of the low `w` bits of `x`. -/
def sext (w x : Nat) : Int :=
  let y := x % 2 ^ w
  if y < 2 ^ (w - 1) then (y : Int) else (y : Int) - (2 ^ w : Nat)

/-- The low `w` bits of an integer. -/
def wrapI (w : Nat) (x : Int) : Nat := (x % ((2 ^ w : Nat) : Int)).toNat

/-- Ceiling division. -/
def cdiv (a b : Nat) : Nat := (a + b - 1) / b

/-- Whether two half-open ranges meet. -/
def rangesMeet (a alen b blen : Nat) : Bool := a < b + blen && b < a + alen

/-- The text of ASCII bytes. -/
def asciiBytes (s : String) : List Byte := s.toList.map (fun c => BitVec.ofNat 8 c.toNat)

end Sys2Proof
end

