-- ==== Sys2Proof/Machine/Hash.lean ====
section
/-!
DEFINITION. The check codes and digests of the public standards the manual uses (R13): CRC-16/CCITT-FALSE for Atser
machine mode, CRC-32, SHA-256 (FIPS 180-4) and HMAC-SHA-256 (FIPS 198-1).
-/
namespace Sys2Proof

/-- `n` shift steps of a left-shifting CRC register of width `w`. -/
def crcShiftL (w poly : Nat) : Nat → Nat → Nat
  | 0, c => c
  | n + 1, c =>
    let d := (c * 2) % 2 ^ w
    crcShiftL w poly n (if c.testBit (w - 1) then d ^^^ poly else d)

/-- CRC-16/CCITT-FALSE: polynomial 0x1021, initial value 0xFFFF, no reflection, no final inversion. -/
def crc16 (l : List Byte) : Nat :=
  l.foldl (fun c b => crcShiftL 16 0x1021 8 (c ^^^ (b.toNat <<< 8))) 0xFFFF

/-- `n` shift steps of the reflected CRC-32 register. -/
def crcShiftR : Nat → Nat → Nat
  | 0, c => c
  | n + 1, c => crcShiftR n (if c % 2 = 1 then (c / 2) ^^^ 0xEDB88320 else c / 2)

/-- CRC-32 of IEEE 802.3: reflected polynomial 0xEDB88320, initial value and final inversion of all ones. -/
def crc32 (l : List Byte) : Nat :=
  (l.foldl (fun c b => crcShiftR 8 (c ^^^ b.toNat)) 0xFFFFFFFF) ^^^ 0xFFFFFFFF

/-- `n` words of 32 bits of a number, the most significant first. -/
def words32 (n x : Nat) : List Nat := (List.range n).map fun i => x / 2 ^ (32 * (n - 1 - i)) % 2 ^ 32

/-- Reduce to 32 bits. -/
def mod32 (x : Nat) : Nat := x % 2 ^ 32

/-- The constants of the 64 rounds, and the initial chaining value, of SHA-256 (FIPS 180-4), each run of eight words as one number. -/
def roundWords : List Nat :=
  [0x428a2f9871374491b5c0fbcfe9b5dba53956c25b59f111f1923f82a4ab1c5ed5, 0xd807aa9812835b01243185be550c7dc372be5d7480deb1fe9bdc06a7c19bf174,
   0xe49b69c1efbe47860fc19dc6240ca1cc2de92c6f4a7484aa5cb0a9dc76f988da, 0x983e5152a831c66db00327c8bf597fc7c6e00bf3d5a7914706ca635114292967,
   0x27b70a852e1b21384d2c6dfc53380d13650a7354766a0abb81c2c92e92722c85, 0xa2bfe8a1a81a664bc24b8b70c76c51a3d192e819d6990624f40e3585106aa070,
   0x19a4c1161e376c082748774c34b0bcb5391c0cb34ed8aa4a5b9cca4f682e6ff3, 0x748f82ee78a5636f84c878148cc7020890befffaa4506cebbef9a3f7c67178f2].flatMap
    (words32 8)

def chainStart : List Nat := words32 8 0x6a09e667bb67ae853c6ef372a54ff53a510e527f9b05688c1f83d9ab5be0cd19

/-- Exclusive or of a word turned right by some amounts, and shifted right by one (0 bits turned: none). -/
def turns (x : Nat) (rots : List Nat) (shift : Option Nat) : Nat :=
  rots.foldl (fun y n => y ^^^ (x / 2 ^ n + x % 2 ^ n * 2 ^ (32 - n))) ((shift.map fun n => x / 2 ^ n).getD 0)

/-- The word of the message schedule that follows the last sixteen, the oldest first. -/
def nextWord (last : List Nat) : Nat :=
  mod32 ((last.getD 0 0) + turns (last.getD 1 0) [7, 18] (some 3) + (last.getD 9 0) + turns (last.getD 14 0) [17, 19] (some 10))

/-- One round on the eight working words, as a shift register whose first and fifth places take new values. -/
def mixRound (r : List Nat) (kw : Nat) : List Nat :=
  let at_ (i : Nat) : Nat := r.getD i 0
  let choice := at_ 6 ^^^ (at_ 4 &&& (at_ 5 ^^^ at_ 6))
  let most := (at_ 0 &&& (at_ 1 ||| at_ 2)) ||| (at_ 1 &&& at_ 2)
  let fresh := at_ 7 + turns (at_ 4) [6, 11, 25] none + choice + kw
  mod32 (fresh + turns (at_ 0) [2, 13, 22] none + most) :: r.take 3 ++ mod32 (at_ 3 + fresh) :: (r.drop 4).take 3

/-- The rounds of one block: each takes a constant and the oldest word of the schedule, which then moves on by one. -/
def mixBlock : List Nat → List Nat → List Nat → List Nat
  | [], _, r => r
  | k :: ks, sched, r => mixBlock ks (sched.drop 1 ++ [nextWord sched]) (mixRound r (k + sched.getD 0 0))

/-- Take a padded message into the chaining value, 64 bytes at a time. -/
def absorb : Nat → List Byte → List Nat → List Nat
  | 0, _, c => c
  | n + 1, l, c =>
    let r := mixBlock roundWords (words32 16 (beVal (l.take 64))) c
    absorb n (l.drop 64) ((c.zip r).map fun p => mod32 (p.1 + p.2))

/-- A message with its padding: a 1 bit, zeros, and its length in bits as 8 bytes. -/
def padded (l : List Byte) : List Byte :=
  l ++ 0x80#8 :: List.replicate ((119 - l.length % 64) % 64) 0#8 ++ beBytes 8 (8 * l.length)

/-- SHA-256: the 32 bytes of the digest. -/
def sha256 (l : List Byte) : List Byte :=
  let m := padded l
  (absorb (m.length / 64) m chainStart).flatMap (beBytes 4)

/-- HMAC-SHA-256. -/
def hmac (key msg : List Byte) : List Byte :=
  let k0 := if 64 < key.length then sha256 key else key
  let k := k0 ++ List.replicate (64 - k0.length) 0#8
  sha256 (k.map (· ^^^ 0x5C#8) ++ sha256 (k.map (· ^^^ 0x36#8) ++ msg))

/-- The 32-bit identity of an image body: bits [255:224] of its digest, its first four bytes big-endian (R107). -/
def bodyIdentity (body : List Byte) : Nat := beVal ((sha256 body).take 4)

end Sys2Proof
end

