-- ==== Sys2Proof/Machine/Text.lean ====
section
/-!
DEFINITION. Text that the console writes: numbers (R265), names of sources (R471), names and data of event codes (R476,
R478).
-/
namespace Sys2Proof.Machine

/-- ASCII text as bytes. -/
abbrev txt (s : String) : List Byte := asciiBytes s

/-- A decimal number without commas. -/
def decText (n : Nat) : List Byte := txt (Nat.repr n)

def intText (i : Int) : List Byte := if i < 0 then txt "-" ++ decText i.natAbs else decText i.natAbs

/-- Decimal digits with leading zeros. -/
def padText (digits n : Nat) : List Byte :=
  let d := decText n
  List.replicate (digits - d.length) 0x30 ++ d

def hexDigit (n : Nat) : Byte := BitVec.ofNat 8 (if n < 10 then 0x30 + n else 0x37 + n)

/-- The low `k` hexadecimal digits, upper case, most significant first. -/
def hexLow : Nat → Nat → List Byte
  | 0, _ => []
  | k + 1, n => hexLow k (n / 16) ++ [hexDigit (n % 16)]

/-- How many hexadecimal digits a number has. -/
def hexLen : Nat → Nat → Nat
  | 0, _ => 1
  | f + 1, n => if n < 16 then 1 else 1 + hexLen f (n / 16)

/-- Groups of four digits counted from the right, joined by underscores. -/
def hexGroups : Nat → List Byte → List Byte
  | 0, l => l
  | f + 1, l => if l.length ≤ 4 then l else hexGroups f (l.take (l.length - 4)) ++ 0x5F :: l.drop (l.length - 4)

/-- A hexadecimal number of at least `digits` digits (R265). -/
def hexText (digits n : Nat) : List Byte := txt "0x" ++ hexGroups 8 (hexLow (max digits (hexLen 32 n)) n)

/-- Texts joined by a separator. -/
def joinText (sep : List Byte) : List (List Byte) → List Byte
  | [] => []
  | [x] => x
  | x :: t => x ++ sep ++ joinText sep t

/-- A key and its value. -/
def kvText (k : String) (v : List Byte) : List Byte := txt k ++ 0x3D :: v

def bitText (b : Bool) : List Byte := decText (b2n b)

/-- Pairs separated by single spaces (R280). -/
def pairsText (l : List (String × List Byte)) : List Byte := joinText (txt " ") (l.map fun x => kvText x.1 x.2)

/-- The console name of a power domain (R385). -/
def domName (d : Nat) : List Byte :=
  if d < 256 then txt "clu." ++ padText 3 d
  else if d = 256 then txt "hub"
  else if d < 269 then txt "port." ++ padText 2 (d - 257)
  else if d < 277 then txt "hbm." ++ decText (d - 269)
  else txt "aon"

/-- The names of the rails, in the order of R409. -/
def railName (k : Nat) : String := ["vaux", "vbak", "vio", "vcore", "vsram", "hbm"].getD k ""

/-- The name of a source code (R471). -/
def srcName (src : Nat) : List Byte :=
  let i := src % 65536
  match src / 0x1000000 with
  | 0x01 => txt "clu." ++ padText 3 i
  | 0x02 => txt "hub"
  | 0x03 => txt "port." ++ padText 2 i
  | 0x04 => txt "hbm." ++ decText i
  | 0x05 => txt "dma.q" ++ decText i
  | 0x06 => txt "sag." ++ padText 3 i
  | 0x07 => txt (["d2d.c0h", "d2d.c1h", "d2d.c0c1"].getD i "")
  | 0x08 => txt "rail." ++ txt (railName i)
  | 0x09 => txt "phase." ++ padText 2 i
  | 0x0A => txt "con.s" ++ decText i
  | 0x0B => txt "fab"
  | 0x0C => txt "col.q" ++ padText 3 i
  | 0x0D => txt "pci"
  | 0x0E => txt "aon"
  | 0x0F => txt "flash"
  | 0x10 => if bit i 15 then txt "crv.r" ++ padText 3 (i % 32768) else txt "crv.t" ++ padText 2 i
  | 0x11 => txt (["temp.c0", "temp.c1", "temp.h"].getD i "")
  | _ => []

def className (c : Nat) : String := ["info", "warn", "fault", "crit"].getD c ""

/-- How the console writes a data field (R476): a number in decimal, one in hexadecimal, a signed temperature; with its
size in bytes. -/
inductive LogFld where
  | dec (n : Nat)
  | hex (n : Nat)
  | temp
  deriving DecidableEq, Repr

def LogFld.size : LogFld → Nat
  | .dec n => n
  | .hex n => n
  | .temp => 4

def LogFld.text (f : LogFld) (v : Nat) : List Byte :=
  match f with
  | .dec _ => decText v
  | .hex _ => hexText 0 v
  | .temp => intText (sext 32 v)

/-- The name of an event code and its data fields (R478). -/
def codeInfo (c : Nat) : String × List LogFld :=
  match c with
  | 0x0100 => ("RESET", [.dec 4, .dec 4])
  | 0x0101 => ("READY", [.dec 4, .dec 4, .dec 4])
  | 0x0102 => ("FAILED", [.dec 4])
  | 0x0103 => ("CFG_DEFAULT", [.dec 4, .dec 4])
  | 0x0104 => ("BOOT_LOAD_FAIL", [.dec 4, .dec 4])
  | 0x0105 => ("LANE_DEFAULT", [])
  | 0x0106 => ("CLUSTER_OFFLINE", [.dec 4])
  | 0x0107 => ("D2D_REPAIRED", [.dec 4])
  | 0x0200 => ("THROTTLE", [.dec 4, .dec 4, .dec 4, .dec 4, .dec 4, .dec 4])
  | 0x0201 => ("PHASE_DROP", [.dec 4])
  | 0x0202 => ("SERVICE", [.dec 4, .dec 4])
  | 0x0203 => ("RAIL_RESET", [.dec 4])
  | 0x0204 => ("RESTART_LIMIT", [])
  | 0x0205 => ("HANDOVER", [.dec 4, .dec 4, .dec 4, .dec 4])
  | 0x0206 => ("BROWN_NOSTORE", [.dec 4])
  | 0x0207 => ("TEMP_HIGH", [.temp])
  | 0x0208 => ("TEMP_BANK", [.temp])
  | 0x0209 => ("TEMP_TRIP", [.temp])
  | 0x0300 => ("CECC_RATE", [.dec 4])
  | 0x0301 => ("UNCORRECTABLE", [.hex 8, .dec 4, .hex 4])
  | 0x0302 => ("TABLE_STORE", [])
  | 0x0303 => ("D2D_FAIL", [.dec 4])
  | 0x0304 => ("RESTORE_FAIL", [.dec 4, .dec 4, .dec 4])
  | 0x0400 => ("PCI_SLOW", [.dec 4, .dec 4])
  | 0x0401 => ("HOST_ERROR", [.dec 4, .dec 4])
  | 0x0402 => ("LINK_LOSS", [.dec 4, .dec 4])
  | 0x0403 => ("DESC_FETCH", [.dec 4])
  | 0x0500 => ("LINK_RETRAIN", [.dec 4, .dec 4])
  | 0x0501 => ("LINK_DOWN", [.dec 4])
  | 0x0502 => ("PORT_PARKED", [.dec 4])
  | 0x0503 => ("AUTH_FAIL", [.dec 8])
  | 0x0504 => ("LINK_REJECT", [.dec 4, .dec 4])
  | 0x0600 => ("EXCLUDED", [.dec 4, .dec 4])
  | 0x0601 => ("JOIN_REFUSED", [.dec 4, .dec 8])
  | 0x0602 => ("QUARANTINED", [.dec 4, .dec 8])
  | 0x0603 => ("EPOCH_MAX", [])
  | 0x0604 => ("STALE_RESET", [.dec 4, .dec 4])
  | 0x0700 => ("POISON", [.hex 4])
  | 0x0701 => ("COL_BROKEN", [.dec 4, .dec 4, .dec 4])
  | 0x0800 => ("MARK", [])
  | 0x0801 => ("LOG_CLEARED", [.dec 4])
  | 0x0802 => ("SVC_FAIL", [.dec 4])
  | 0x0803 => ("CLAIM_BREAK", [.dec 4, .dec 4])
  | 0x0804 => ("IDLE_END", [])
  | 0x0805 => ("CMD_FAIL", [.hex 4])
  | 0x0806 => ("KEY_CHANGED", [.dec 4])
  | 0x0807 => ("WATCHDOG", [])
  | 0x0900 => ("LOG_LOST", [.dec 4, .dec 4])
  | 0x0901 => ("FLASH_FAIL", [.hex 8])
  | _ => ("", [])

/-- The data fields of an entry from an offset on, as d`k`=<value>. -/
def fldTexts (data : List Byte) : Nat → Nat → List LogFld → List (List Byte)
  | _, _, [] => []
  | k, o, f :: t =>
    let o := (o + f.size - 1) / f.size * f.size
    (0x64 :: decText k ++ 0x3D :: f.text (leAt data o f.size)) :: fldTexts data (k + 1) (o + f.size) t

/-- The text of an entry: the code's name and its data (R476). -/
def eventText (code : Nat) (data : List Byte) : List Byte :=
  if code = 0x0800 then txt "MARK " ++ data.takeWhile (· ≠ 0)
  else joinText (txt " ") (txt (codeInfo code).1 :: fldTexts data 0 0 (codeInfo code).2)

end Sys2Proof.Machine
end

