-- ==== Sys2Proof/Machine/ConText.lean ====
section
/-!
DEFINITION. The grammar of an Atser line: tokens (R253, R254), the command set with its levels, claims, limits (R279, 11),
the checks on a line (R255, R262).
-/
namespace Sys2Proof.Machine

/-- A value that an argument or a parameter holds (R254): number, range, list, word, string. -/
inductive TokVal where
  | num (n : Nat)
  | range (a b : Nat)
  | list (items : List (Nat × Nat))
  | word (w : List Byte)
  | str (s : List Byte)
  deriving DecidableEq, Repr

/-- A token (R254): hex groups as their bytes, a value, a parameter. -/
inductive Tok where
  | hex (bytes : List Byte)
  | val (v : TokVal)
  | param (k : List Byte) (v : TokVal)
  deriving DecidableEq, Repr

/-- Lower case (R254). -/
def lowByte (b : Byte) : Byte := if 0x41 ≤ b.toNat ∧ b.toNat ≤ 0x5A then b + 0x20 else b

/-- End the token being read. -/
def endTok (cur : List Byte) (rest : List (List Byte)) : List (List Byte) := if cur = [] then rest else cur.reverse :: rest

/-- Cut a line into tokens: spaces outside strings part them, a # outside a string starts a comment, text outside strings
is folded (R253, R254). -/
def splitFrom : Bool → List Byte → List Byte → List (List Byte)
  | _, cur, [] => endTok cur []
  | true, cur, b :: t => splitFrom (b ≠ 0x22) (b :: cur) t
  | false, cur, b :: t =>
    if b = 0x22 then splitFrom true (b :: cur) t
    else if b = 0x23 then endTok cur []
    else if b = 0x20 then endTok cur (splitFrom false [] t)
    else splitFrom false (lowByte b :: cur) t

def splitLine (l : List Byte) : List (List Byte) := splitFrom false [] l

/-- The value of a hexadecimal digit. -/
def digitVal (b : Byte) : Option Nat :=
  let n := b.toNat
  if 0x30 ≤ n ∧ n ≤ 0x39 then some (n - 0x30)
  else if 0x61 ≤ n ∧ n ≤ 0x66 then some (n - 0x57)
  else if 0x41 ≤ n ∧ n ≤ 0x46 then some (n - 0x37)
  else none

/-- The value of digits in a base; an underscore stands between two digits of a base other than ten (R254). -/
def digitsVal (base : Nat) : Bool → Nat → List Byte → Option Nat
  | prev, acc, [] => if prev then some acc else none
  | prev, acc, b :: t =>
    if b = 0x5F then (if prev ∧ base ≠ 10 ∧ t ≠ [] then digitsVal base false acc t else none)
    else match digitVal b with
      | some d => if d < base then digitsVal base true (acc * base + d) t else none
      | none => none

/-- A number (R254). No command takes a signed value. -/
def numberOf (l : List Byte) : Option Nat :=
  let v := match l with
    | 0x30 :: 0x78 :: t => digitsVal 16 false 0 t
    | 0x30 :: 0x62 :: t => digitsVal 2 false 0 t
    | t => digitsVal 10 false 0 t
  match v with
  | some n => if n < 2 ^ 64 then some n else none
  | none => none

/-- Cut at the first two dots in a row. -/
def cutDots : List Byte → List Byte → Option (List Byte × List Byte)
  | acc, 0x2E :: 0x2E :: t => some (acc.reverse, t)
  | acc, b :: t => cutDots (b :: acc) t
  | _, [] => none

/-- A range (R254). -/
def rangeOf (l : List Byte) : Option (Nat × Nat) :=
  match cutDots [] l with
  | some (a, b) =>
    match numberOf a, numberOf b with
    | some x, some y => if x ≤ y then some (x, y) else none
    | _, _ => none
  | none => none

/-- Cut at every byte of a value. -/
def cutAt (sep : Byte) : List Byte → List Byte → List (List Byte)
  | acc, [] => [acc.reverse]
  | acc, b :: t => if b = sep then acc.reverse :: cutAt sep [] t else cutAt sep (b :: acc) t

def itemOf (l : List Byte) : Option (Nat × Nat) :=
  match numberOf l with
  | some n => some (n, n)
  | none => rangeOf l

/-- A list of at most 32 numbers and ranges (R254). -/
def listOf (l : List Byte) : Option (List (Nat × Nat)) :=
  let parts := cutAt 0x2C [] l
  if 2 ≤ parts.length ∧ parts.length ≤ 32 then parts.mapM itemOf else none

def isLetter (b : Byte) : Bool := 0x61 ≤ b.toNat && b.toNat ≤ 0x7A
def isDigit (b : Byte) : Bool := 0x30 ≤ b.toNat && b.toNat ≤ 0x39

/-- A word (R254), after folding. -/
def isWord (l : List Byte) : Bool :=
  l.length ≤ 32 && (match l with | b :: _ => isLetter b | [] => false) &&
    l.all fun b => isLetter b || isDigit b || b == 0x2E || b == 0x5F || b == 0x2D

/-- A string of at most 64 characters (R254). -/
def stringOf (l : List Byte) : Option (List Byte) :=
  let inner := (l.drop 1).dropLast
  if 2 ≤ l.length ∧ l.headD 0 = 0x22 ∧ l.getLastD 0 = 0x22 ∧ inner.length ≤ 64 ∧
      (inner.all fun b => 0x20 ≤ b.toNat && b.toNat ≤ 0x7E && b ≠ 0x22 && b ≠ 0x5C) = true then some inner
  else none

/-- The first form of a value that a text matches (R254). -/
def valueOf (l : List Byte) : Option TokVal :=
  match numberOf l with
  | some n => some (.num n)
  | none =>
    match rangeOf l with
    | some (a, b) => some (.range a b)
    | none =>
      match listOf l with
      | some items => some (.list items)
      | none => if isWord l then some (.word l) else (stringOf l).map .str

/-- Two bytes of a group of four hex digits, its first two digits first (R299). -/
def groupBytes (g : List Byte) : Option (List Byte) :=
  match g.mapM digitVal with
  | some [a, b, c, d] => some [BitVec.ofNat 8 (16 * a + b), BitVec.ofNat 8 (16 * c + d)]
  | _ => none

/-- 2–16 hex groups (R254). -/
def hexGroupsOf (l : List Byte) : Option (List Byte) :=
  let parts := cutAt 0x2D [] l
  if 2 ≤ parts.length ∧ parts.length ≤ 16 then (parts.mapM groupBytes).map List.flatten else none

/-- A token: the first form that it matches (R254). -/
def tokenOf (l : List Byte) : Option Tok :=
  match hexGroupsOf l with
  | some g => some (.hex g)
  | none =>
    match valueOf l with
    | some v => some (.val v)
    | none =>
      let k := l.takeWhile (· ≠ 0x3D)
      if isWord k && k.length < l.length then (valueOf (l.drop (k.length + 1))).map (.param k) else none

/-- The commands of chapter 11. -/
inductive Cmd where
  | mode | priv | privAnswer | claim | release | claimBreak | claims | notify | help | colophon | status | clu
  | flashInfo | aclk | aclkSet | pwrShow | pwrReq | pwrRefusals | supRails | supPhases | supBak | lnkShow | lnkTrain
  | lnkPark | lnkAlloc | fabShow | fabRoute | fabChip | fabSlice | timeShow | timeSet | colShow | sagShow | sagEn
  | sagDis | sagKill | sagQuota | sagMask | sagRec | sagAck | sagCount | crvShow | crvLoad | crvUnload | crvBind
  | crvPerm | crvMode | crvCommit | logShow | logMark | logClear | stageShow | stageSet | stageDrop | commit | keyShow
  | keySet | keyClear | reset | testResult | testBscan
  deriving DecidableEq, Repr

/-- What a command needs (R30, R279): the always-on domain, the hub, or the hub and the port it names. -/
inductive CmdDom where
  | aon | hub | port
  deriving DecidableEq, Repr

/-- An entry of the command reference: name, syntax, positional arguments (least, most), parameters, level, the parameter
whose value 1 raises level and claims, claims by index of R271, domains, limit in ms, whether it may be cancelled (R279,
R282). -/
structure CmdSpec where
  cmd : Cmd
  name : List String
  syn : String
  lo : Nat := 0
  hi : Nat := 0
  params : List String := []
  level : Nat := 0
  raise : Option (String × Nat) := none
  claims : List Nat := []
  dom : CmdDom := .aon
  limit : Nat := 10000
  cancel : Bool := false

def paged : List String := ["from", "max"]

/-- Session, identity, clock and power, supply commands (R285–R289). -/
def cmdTableA : List CmdSpec :=
  [ { cmd := .mode, name := ["mode"], syn := "mode <interactive|machine>", lo := 1, hi := 1, limit := 10 },
    { cmd := .priv, name := ["priv"], syn := "priv [view|operate|service]", hi := 1, limit := 10 },
    { cmd := .privAnswer, name := ["priv", "answer"], syn := "priv answer <groups>", lo := 1, hi := 1, limit := 10 },
    { cmd := .claim, name := ["claim"], syn := "claim <resource>", lo := 1, hi := 1, level := 1, limit := 10 },
    { cmd := .release, name := ["release"], syn := "release <resource>", lo := 1, hi := 1, level := 1, limit := 10 },
    { cmd := .claimBreak, name := ["claim", "break"], syn := "claim break <resource>", lo := 1, hi := 1, level := 2, limit := 10 },
    { cmd := .claims, name := ["claims"], syn := "claims", limit := 10 },
    { cmd := .notify, name := ["notify"], syn := "notify <info|warn|fault|crit|off>", lo := 1, hi := 1, limit := 10 },
    { cmd := .help, name := ["help"], syn := "help [name]", hi := 3, params := paged, limit := 10 },
    { cmd := .colophon, name := ["colophon"], syn := "colophon" },
    { cmd := .status, name := ["status"], syn := "status" },
    { cmd := .clu, name := ["clu"], syn := "clu <list>", lo := 1, hi := 1, params := paged, dom := .hub },
    { cmd := .flashInfo, name := ["flash", "info"], syn := "flash info" },
    { cmd := .aclk, name := ["aclk"], syn := "aclk", dom := .hub },
    { cmd := .aclkSet, name := ["aclk", "set"], syn := "aclk set <point>", lo := 1, hi := 1, level := 1, claims := [0],
      dom := .hub, limit := 1 },
    { cmd := .pwrShow, name := ["pwr", "show"], syn := "pwr show <clu|hub|port|hbm|aon|all> [n=<list>]", lo := 1, hi := 1,
      params := "n" :: paged },
    { cmd := .pwrReq, name := ["pwr", "req"], syn := "pwr req <kind> <active|idle|banked> [n=<list>] [force=1]", lo := 2,
      hi := 2, params := ["n", "force"], level := 1, raise := some ("force", 2), claims := [2], dom := .hub, limit := 100,
      cancel := true },
    { cmd := .pwrRefusals, name := ["pwr", "refusals"], syn := "pwr refusals [clear=1]", params := "clear" :: paged,
      raise := some ("clear", 1), claims := [2], dom := .hub },
    { cmd := .supRails, name := ["sup", "rails"], syn := "sup rails" },
    { cmd := .supPhases, name := ["sup", "phases"], syn := "sup phases", dom := .hub },
    { cmd := .supBak, name := ["sup", "bak"], syn := "sup bak" } ]

/-- Link, fabric, collective and saggar commands (R290–R292). -/
def cmdTableB : List CmdSpec :=
  [ { cmd := .lnkShow, name := ["lnk", "show"], syn := "lnk show [n=<list>]", params := "n" :: paged, dom := .hub },
    { cmd := .lnkTrain, name := ["lnk", "train"], syn := "lnk train <port>", lo := 1, hi := 1, level := 1, claims := [4],
      dom := .port, limit := 10 },
    { cmd := .lnkPark, name := ["lnk", "park"], syn := "lnk park <port>", lo := 1, hi := 1, level := 1, claims := [4],
      dom := .port, limit := 10 },
    { cmd := .lnkAlloc, name := ["lnk", "alloc"], syn := "lnk alloc <list> [drain=1]", lo := 1, hi := 1,
      params := ["drain"], level := 2, claims := [4, 13], dom := .hub, limit := 1000 },
    { cmd := .fabShow, name := ["fab", "show"], syn := "fab show", dom := .hub },
    { cmd := .fabRoute, name := ["fab", "route"], syn := "fab route <chip>", lo := 1, hi := 1, dom := .hub },
    { cmd := .fabChip, name := ["fab", "chip"], syn := "fab chip <number|auto> [drain=1]", lo := 1, hi := 1,
      params := ["drain"], level := 2, claims := [5], dom := .hub, limit := 1000 },
    { cmd := .fabSlice, name := ["fab", "slice"], syn := "fab slice <id> [drain=1]", lo := 1, hi := 1,
      params := ["drain"], level := 2, claims := [5, 13], dom := .hub, limit := 1000 },
    { cmd := .timeShow, name := ["time", "show"], syn := "time show", dom := .hub },
    { cmd := .timeSet, name := ["time", "set"], syn := "time set <ns>", lo := 1, hi := 1, level := 1, claims := [9],
      dom := .hub, limit := 10 },
    { cmd := .colShow, name := ["col", "show"], syn := "col show", params := paged, dom := .hub },
    { cmd := .sagShow, name := ["sag", "show"], syn := "sag show <s>", lo := 1, hi := 1, dom := .hub },
    { cmd := .sagEn, name := ["sag", "en"], syn := "sag en <s>", lo := 1, hi := 1, level := 1, claims := [12],
      dom := .hub, limit := 10 },
    { cmd := .sagDis, name := ["sag", "dis"], syn := "sag dis <s>", lo := 1, hi := 1, level := 1, claims := [12],
      dom := .hub, limit := 10 },
    { cmd := .sagKill, name := ["sag", "kill"], syn := "sag kill <s>", lo := 1, hi := 1, level := 1, claims := [12],
      dom := .hub, limit := 1000 },
    { cmd := .sagQuota, name := ["sag", "quota"], syn := "sag quota <s> [cmax=] [tq=] [slice=]", lo := 1, hi := 1,
      params := ["cmax", "tq", "slice"], level := 1, claims := [12], dom := .hub, limit := 10 },
    { cmd := .sagMask, name := ["sag", "mask"], syn := "sag mask <s> <list>", lo := 2, hi := 2, level := 1,
      claims := [12], dom := .hub, limit := 10 },
    { cmd := .sagRec, name := ["sag", "rec"], syn := "sag rec <s> <trap|fault|poison>", lo := 2, hi := 2,
      params := paged, dom := .hub },
    { cmd := .sagAck, name := ["sag", "ack"], syn := "sag ack <s> <trap|fault|poison> [<w0>] [resume=1]", lo := 2,
      hi := 2, params := ["resume"], level := 1, claims := [12], dom := .hub, limit := 10 },
    { cmd := .sagCount, name := ["sag", "count"], syn := "sag count <s> [clear=1]", lo := 1, hi := 1,
      params := ["clear"], raise := some ("clear", 1), claims := [12], dom := .hub } ]

/-- Curve-table, log, stage, key, reset and test commands (R293–R300). -/
def cmdTableC : List CmdSpec :=
  [ { cmd := .crvShow, name := ["crv", "show"], syn := "crv show <tables|recipes> [n=<list>]", lo := 1, hi := 1,
      params := "n" :: paged, dom := .hub },
    { cmd := .crvLoad, name := ["crv", "load"], syn := "crv load <table|recipe> <slot> off=<flash offset>", lo := 2,
      hi := 2, params := ["off"], level := 1, claims := [1], dom := .hub, limit := 10 },
    { cmd := .crvUnload, name := ["crv", "unload"], syn := "crv unload <table|recipe> <slot>", lo := 2, hi := 2,
      level := 1, claims := [1], dom := .hub, limit := 10 },
    { cmd := .crvBind, name := ["crv", "bind"], syn := "crv bind <s> <index> <slot|none>", lo := 3, hi := 3, level := 1,
      claims := [1], dom := .hub, limit := 10 },
    { cmd := .crvPerm, name := ["crv", "perm"], syn := "crv perm <s> <list>", lo := 2, hi := 2, level := 1,
      claims := [1], dom := .hub, limit := 10 },
    { cmd := .crvMode, name := ["crv", "mode"], syn := "crv mode <s> [bexo=0|1] [bounds=0|1]", lo := 1, hi := 1,
      params := ["bexo", "bounds"], level := 1, claims := [1], dom := .hub, limit := 10 },
    { cmd := .crvCommit, name := ["crv", "commit"], syn := "crv commit <s>", lo := 1, hi := 1, level := 1,
      claims := [1], dom := .hub, limit := 1 },
    { cmd := .logShow, name := ["log", "show"], syn := "log show [from=<seq>] [max=] [min=<class>]",
      params := "min" :: paged, cancel := true },
    { cmd := .logMark, name := ["log", "mark"], syn := "log mark <string>", lo := 1, hi := 1, level := 1, claims := [7],
      limit := 10 },
    { cmd := .logClear, name := ["log", "clear"], syn := "log clear", level := 2, claims := [7, 13], limit := 5000 },
    { cmd := .stageShow, name := ["stage", "show"], syn := "stage show", params := paged, dom := .hub },
    { cmd := .stageSet, name := ["stage", "set"], syn := "stage set <setting> <value>", lo := 2, hi := 2, level := 1,
      claims := [8], dom := .hub, limit := 10 },
    { cmd := .stageDrop, name := ["stage", "drop"], syn := "stage drop", level := 1, claims := [8], dom := .hub,
      limit := 10 },
    { cmd := .commit, name := ["commit"], syn := "commit", level := 1, claims := [8], dom := .hub, limit := 1000 },
    { cmd := .keyShow, name := ["key", "show"], syn := "key show" },
    { cmd := .keySet, name := ["key", "set"], syn := "key set <kid> <groups> [drain=1]", lo := 2, hi := 2,
      params := ["drain"], level := 2, claims := [11, 13], limit := 1000 },
    { cmd := .keyClear, name := ["key", "clear"], syn := "key clear [drain=1]", params := ["drain"], level := 2,
      claims := [11, 13], limit := 1000 },
    { cmd := .reset, name := ["reset"], syn := "reset <warm|cold>", lo := 1, hi := 1, level := 2 },
    { cmd := .testResult, name := ["test", "result"], syn := "test result", params := paged },
    { cmd := .testBscan, name := ["test", "bscan"], syn := "test bscan <on|off>", lo := 1, hi := 1, level := 2,
      claims := [10], dom := .hub, limit := 10 } ]

def cmdTable : List CmdSpec := cmdTableA ++ cmdTableB ++ cmdTableC

/-- A parsed line: its command's entry, positional arguments, parameters. -/
structure CmdLine where
  spec : CmdSpec
  pos : List Tok
  params : List (List Byte × TokVal)

def CmdLine.param (c : CmdLine) (k : String) : Option TokVal := (c.params.find? fun x => x.1 == txt k).map Prod.snd

/-- The words that a line begins with. -/
def leadWords : List Tok → List (List Byte)
  | .val (.word w) :: t => w :: leadWords t
  | _ => []

/-- The command that a line names: the longest match (R255). -/
def findCmd (ts : List Tok) : Option CmdSpec :=
  let ws := (leadWords ts).take 3
  let hit (k : Nat) : Option CmdSpec :=
    if ws.length < k then none else cmdTable.find? fun s => s.name.length == k && s.name.map txt == ws.take k
  ((hit 3).or (hit 2)).or (hit 1)

def Tok.isParam : Tok → Bool
  | .param _ _ => true
  | _ => false

def Tok.isWordTok (t : Tok) (s : String) : Bool := t == .val (.word (txt s))

/-- The positional arguments that a line must and may have: `sag ack` takes the first word of an entry for poison alone
(R292). -/
def CmdSpec.count (s : CmdSpec) (pos : List Tok) : Nat × Nat :=
  if s.cmd = .sagAck ∧ (match pos[1]? with | some t => t.isWordTok "poison" | none => false) = true then (3, 3) else (s.lo, s.hi)

/-- Whether a parameter is unknown to the command or given twice. -/
def paramsBad (s : CmdSpec) : List (List Byte) → List (List Byte × TokVal) → Bool
  | _, [] => false
  | seen, (k, _) :: t => !(s.params.map txt).contains k || seen.contains k || paramsBad s (k :: seen) t

def CmdLine.raised (c : CmdLine) : Bool :=
  match c.spec.raise with
  | some (k, _) => c.param k == some (.num 1)
  | none => false

/-- The level that a line needs (R279). -/
def CmdLine.level (c : CmdLine) : Nat :=
  match c.spec.raise with
  | some (_, l) => if c.raised then l else c.spec.level
  | none => c.spec.level

/-- The resources that a line needs (R271, R279): a command at view level needs them only with the parameter that raises
it. -/
def CmdLine.claims (c : CmdLine) : List Nat :=
  if c.spec.raise.isSome ∧ c.spec.level = 0 ∧ !c.raised then [] else c.spec.claims

/-- Checks 1 to 4 of R255. -/
def parseCmd (ts : List Tok) : Except Nat CmdLine :=
  match findCmd ts with
  | none => .error 101
  | some s =>
    let args := ts.drop s.name.length
    let pos := args.filter fun t => !t.isParam
    let n := s.count pos
    let params := args.filterMap fun t => match t with | .param k v => some (k, v) | _ => none
    if pos.length < n.1 then .error 103
    else if n.2 < pos.length ∨ ((args.dropWhile fun t => !t.isParam).any fun t => !t.isParam) = true then .error 111
    else if paramsBad s [] params then .error 104
    else .ok ⟨s, pos, params⟩

/-- A line beyond 256 bytes (R253). -/
def lineMax : Nat := 256

/-- The framing of a machine-mode line (R260, R262 checks 2 to 4): its tag and its command, or its error. -/
def unframe (l : List Byte) : Except Nat (List Byte × List Byte) :=
  let tag := (l.drop 1).take 4
  let n := l.length
  let crc := l.drop (n - 4)
  if l.any (fun b => !(0x20 ≤ b.toNat && b.toNat ≤ 0x7E)) then .error 102
  else if n < 11 ∨ l.headD 0 ≠ 0x40 ∨ (tag.all isDigit) = false ∨ tag = txt "0000" ∨ l.getD 5 0 ≠ 0x20 ∨
      l.getD (n - 5) 0 ≠ 0x2A ∨ (crc.mapM digitVal).isNone then .error 106
  else
    let v := (crc.mapM digitVal).getD []
    if crc16 (l.take (n - 5)) ≠ v.foldl (fun a d => 16 * a + d) 0 then .error 105
    else .ok (tag, (l.take (n - 5)).drop 6)

/-- The tokens of a command line; 102 where one has no form (R254). -/
def tokensOf (l : List Byte) : Except Nat (List Tok) :=
  match (splitLine l).mapM tokenOf with
  | some ts => .ok ts
  | none => .error 102

/-- Whether a line holds only spaces or a comment (R253). -/
def lineIgnored (l : List Byte) : Bool := splitLine l == []

end Sys2Proof.Machine
end

