-- ==== Sys2Proof/Config.lean ====
section
/-!
DEFINITION. What one part fixes and what the manual leaves open. Every constant here is opaque: it has no body, so
no proof can lean on a value of it, and a statement about it holds for every value. The reader applies it to the
operands it depends on, or to the counter `free` of the state for a fresh value each time (log entry 1).
-/
namespace Sys2Proof.Config

/-- How far the wide value of a built-in function stands from the exact one, in units of its 32-bit significand, by
function code and binary32 argument (R91, R94: binary32 results are promised only within bounds). -/
opaque wideDelta : Nat → Nat → Int

/-- The same for the read-only Bexo table set (R125). -/
opaque bexoDelta : Nat → Nat → Int

/-- A wide value a recipe step leaves open, as binary32 bits, by recipe slot and argument (R115). -/
opaque recipeOpen : Nat → Nat → BitVec 32

/-- An integer a recipe step leaves open (R115). -/
opaque recipeOpenInt : Nat → Nat → Int

/-- Bytes of a random draw: service challenges (R269) and link nonces (R315). -/
opaque randomByte : Nat → BitVec 8

/-- A byte that a failing operation "may or may not" have written, or any other open byte (R82, R153, R237, R379). -/
opaque openByte : Nat → BitVec 8

/-- Whether an open choice falls the one way or the other. -/
opaque openBool : Nat → Bool

/-- An open word. -/
opaque openWord : Nat → BitVec 32

/-- Whether a fused multiply-add of zero, infinity and a quiet NaN signals invalid (R40). -/
opaque fmaInvalid : Bool

/-- The fuses of the part (R450): 64-bit serial. -/
opaque serial : BitVec 64

/-- The fuses of the part (R450): patch number of the version 2.0.x. -/
opaque patch : BitVec 8

/-- Whether the host has enabled ATS in a function's capability (R226; log entry 4). -/
opaque atsEnabled : Nat → Bool

/-- The fuses of the part (R410): VCORE trim in mV, 0–100. -/
opaque trim : Fin 101

/-- The stepping field of HUB.DEVID (R35). -/
opaque stepping : BitVec 8

/-- The mismatch marker of a quire's digest exchange (R365, R374). -/
opaque formMarker : BitVec 32

end Sys2Proof.Config
end

