-- ==== Sys2Proof/Machine/ConfigSpace.lean ====
section
/-!
DEFINITION. What identifies a function in its configuration space (R501), and what of the register map and of the numbering of the
virtual functions follows from it.
-/
namespace Sys2Proof.Machine

/-- A base address register: 64-bit, prefetchable, bytes. -/
structure BarId where
  wide : Bool
  prefetchable : Bool
  size : Nat
  deriving DecidableEq, Repr

/-- The MSI-X capability: the BAR of its structures, their offsets there, its vectors. -/
structure MsixId where
  bir : Nat
  table : Nat
  pba : Nat
  vectors : Nat
  deriving DecidableEq, Repr

/-- The SR-IOV capability of the physical function. -/
structure SriovId where
  totalVfs : Nat
  firstVf : Nat
  stride : Nat
  vfDevice : Nat
  vfBar0 : BarId
  deriving DecidableEq, Repr

/-- What R501 names of a function's configuration space. -/
structure ConfigId where
  vendor : Nat
  device : Nat
  revision : Nat
  classCode : Nat
  bar0 : BarId
  otherBars : List BarId
  msix : MsixId
  sriov : Option SriovId
  deriving DecidableEq, Repr

/-- BAR0 of the physical function, and of a virtual one. -/
def pfBar0 : BarId := ⟨true, false, 64 * 2 ^ 20⟩
def vfBar0 : BarId := ⟨true, false, 64 * 2 ^ 10⟩

/-- The SR-IOV capability (R501). -/
def sriovId : SriovId := ⟨64, 1, 1, 0x0049, vfBar0⟩

/-- The identity of function `fn`, 0 being the physical one (R501). -/
def configId (fn : Nat) : ConfigId :=
  if fn = 0 then ⟨0x1C4B, 0x0048, Config.stepping.toNat, 0x120000, pfBar0, [], ⟨0, 0x1000000, 0x1002000, 264⟩, some sriovId⟩
  else ⟨0x1C4B, sriovId.vfDevice, Config.stepping.toNat, 0x120000, sriovId.vfBar0, [], ⟨0, 0x1000, 0x1800, 4⟩, none⟩

/-- The function of virtual function `v` (R501: First VF Offset, VF Stride). -/
def vfFn (v : Nat) : Nat := sriovId.firstVf + v * sriovId.stride

/-- Where an offset lies in a function's MSI-X table, and in its pending bits, which are 8 bytes for 64 vectors (R501). -/
def MsixId.inTable (m : MsixId) (o : Nat) : Bool := decide (m.table ≤ o) && decide (o < m.table + 16 * m.vectors)
def MsixId.inPba (m : MsixId) (o : Nat) : Bool := decide (m.pba ≤ o) && decide (o < m.pba + 8 * ((m.vectors + 63) / 64))

end Sys2Proof.Machine
end

