-- ==== Sys2Proof/Machine/Exact.lean ====
section
/-!
DEFINITION. Exact values and their rounding (R40, R41, R42, R53, R67, R91): a value of any element format
as an exact signed multiple of a power of two, an infinity or a NaN; the five exception flags; rounding to a
precision under each direction, and round-to-odd, which keeps what a later, narrower rounding needs.
-/
namespace Sys2Proof

/-- The four rounding directions of R40 and the round-to-odd of R53. -/
inductive RMode where
  | rne | rtz | rup | rdn | odd
  deriving DecidableEq, Repr

/-- The rounding direction of the 2-bit field rm (R40). -/
def RMode.ofField (n : Nat) : RMode :=
  match n % 4 with
  | 0 => .rne
  | 1 => .rtz
  | 2 => .rup
  | _ => .rdn

/-- An exact value: NaN (with its signalling bit), infinity, or `±m·2^e`. -/
inductive Val where
  | nan (sig : Bool)
  | inf (neg : Bool)
  | fin (neg : Bool) (m : Nat) (e : Int)
  deriving DecidableEq, Repr

/-- The five IEEE 754 exception flags (R42). -/
structure Flags where
  nv : Bool
  dz : Bool
  ovf : Bool
  unf : Bool
  nx : Bool
  deriving DecidableEq, Repr

def Flags.none : Flags := ⟨false, false, false, false, false⟩
def Flags.invalid : Flags := ⟨true, false, false, false, false⟩
def Flags.divz : Flags := ⟨false, true, false, false, false⟩
def Flags.or (a b : Flags) : Flags :=
  ⟨a.nv || b.nv, a.dz || b.dz, a.ovf || b.ovf, a.unf || b.unf, a.nx || b.nx⟩

namespace Val

def zero (neg : Bool) : Val := .fin neg 0 0
def one : Val := .fin false 1 0
def isNaN : Val → Bool
  | .nan _ => true
  | _ => false
def isSig : Val → Bool
  | .nan s => s
  | _ => false
def isInf : Val → Bool
  | .inf _ => true
  | _ => false
def isZero : Val → Bool
  | .fin _ m _ => m == 0
  | _ => false
def isFin : Val → Bool
  | .fin _ _ _ => true
  | _ => false
def sign : Val → Bool
  | .nan _ => false
  | .inf n => n
  | .fin n _ _ => n
def neg : Val → Val
  | .nan s => .nan s
  | .inf n => .inf (!n)
  | .fin n m e => .fin (!n) m e
def abs : Val → Val
  | .nan s => .nan s
  | .inf _ => .inf false
  | .fin _ m e => .fin false m e
def withSign (n : Bool) : Val → Val
  | .nan s => .nan s
  | .inf _ => .inf n
  | .fin _ m e => .fin n m e

/-- The exponent of the leading bit of `m·2^e`. -/
def ilog (m : Nat) (e : Int) : Int := (m.log2 : Int) + e

/-- An integer as a value. -/
def ofInt (i : Int) : Val := .fin (i < 0) i.natAbs 0

/-- Signed exact sum of two finite magnitudes at the smaller exponent. -/
def sumAt (n1 : Bool) (m1 : Nat) (e1 : Int) (n2 : Bool) (m2 : Nat) (e2 : Int) : Int × Int :=
  let e := min e1 e2
  let a : Int := ((m1 <<< (e1 - e).toNat : Nat) : Int)
  let b : Int := ((m2 <<< (e2 - e).toNat : Nat) : Int)
  ((if n1 then -a else a) + (if n2 then -b else b), e)

/-- IEEE 754 addition before rounding; the flag says whether it is invalid. An exact zero sum is +0, but −0
toward negative, and keeps the sign of two like zeros. -/
def addX (rm : RMode) (x y : Val) : Val × Bool :=
  match x, y with
  | .nan s, .nan t => (.nan false, s || t)
  | .nan s, _ => (.nan false, s)
  | _, .nan t => (.nan false, t)
  | .inf a, .inf b => if a = b then (.inf a, false) else (.nan false, true)
  | .inf a, _ => (.inf a, false)
  | _, .inf b => (.inf b, false)
  | .fin n1 m1 e1, .fin n2 m2 e2 =>
    if m1 = 0 then
      if m2 = 0 then (zero (if n1 = n2 then n1 else decide (rm = .rdn)), false) else (.fin n2 m2 e2, false)
    else if m2 = 0 then (.fin n1 m1 e1, false)
    else
      let r := sumAt n1 m1 e1 n2 m2 e2
      if r.1 = 0 then (zero (decide (rm = .rdn)), false)
      else (.fin (decide (r.1 < 0)) r.1.natAbs r.2, false)

def subX (rm : RMode) (x y : Val) : Val × Bool := addX rm x y.neg

/-- IEEE 754 multiplication before rounding. -/
def mulX (x y : Val) : Val × Bool :=
  match x, y with
  | .nan s, .nan t => (.nan false, s || t)
  | .nan s, _ => (.nan false, s)
  | _, .nan t => (.nan false, t)
  | .inf a, .inf b => (.inf (a != b), false)
  | .inf a, .fin b m _ => if m = 0 then (.nan false, true) else (.inf (a != b), false)
  | .fin a m _, .inf b => if m = 0 then (.nan false, true) else (.inf (a != b), false)
  | .fin a m e, .fin b k f => (.fin (a != b) (m * k) (e + f), false)

/-- The quotient of two positive integers with at least 160 significant bits, its last bit set when inexact
(round-to-odd), and its exponent. -/
def quo (m k : Nat) : Nat × Int :=
  let sh := 160 + k.log2 + 1 - min m.log2 (k.log2 + 1)
  let n := m <<< sh
  let q := n / k
  let q' := if q * k = n then q else (if q % 2 = 0 then q + 1 else q)
  (q', -(sh : Int))

/-- IEEE 754 division before rounding: value, invalid, divideByZero. -/
def divX (x y : Val) : Val × Bool × Bool :=
  match x, y with
  | .nan s, .nan t => (.nan false, s || t, false)
  | .nan s, _ => (.nan false, s, false)
  | _, .nan t => (.nan false, t, false)
  | .inf _, .inf _ => (.nan false, true, false)
  | .inf a, .fin b _ _ => (.inf (a != b), false, false)
  | .fin a _ _, .inf b => (zero (a != b), false, false)
  | .fin a m e, .fin b k f =>
    if k = 0 then (if m = 0 then (.nan false, true, false) else (.inf (a != b), false, true))
    else if m = 0 then (zero (a != b), false, false)
    else
      let q := quo m k
      (.fin (a != b) q.1 (q.2 + e - f), false, false)

/-- Integer square root by Newton steps from above, with fuel. -/
def isqrtFuel : Nat → Nat → Nat → Nat
  | 0, _, g => g
  | f + 1, n, g =>
    let h := (g + n / g) / 2
    if h < g then isqrtFuel f n h else g

/-- Floor of the square root. -/
def isqrt (n : Nat) : Nat := if n = 0 then 0 else isqrtFuel 4096 n (2 ^ (n.log2 / 2 + 1))

/-- Square root of `m·2^e` with at least 160 bits, its last bit set when inexact. -/
def rootOf (m : Nat) (e : Int) : Nat × Int :=
  let sh := 400 + (if (e - 400) % 2 = 0 then 0 else 1)
  let n := m <<< sh
  let r := isqrt n
  let r' := if r * r = n then r else (if r % 2 = 0 then r + 1 else r)
  (r', (e - (sh : Int)) / 2)

/-- IEEE 754 square root before rounding. -/
def sqrtX : Val → Val × Bool
  | .nan s => (.nan false, s)
  | .inf n => if n then (.nan false, true) else (.inf false, false)
  | .fin n m e =>
    if m = 0 then (.fin n 0 0, false)
    else if n then (.nan false, true)
    else
      let r := rootOf m e
      (.fin false r.1 r.2, false)

/-- Compare two non-NaN values: −1, 0 or 1; zeros of both signs are equal. -/
def cmp (x y : Val) : Int :=
  match x, y with
  | .nan _, _ => 0
  | _, .nan _ => 0
  | .inf a, .inf b => if a = b then 0 else if a then -1 else 1
  | .inf a, .fin _ _ _ => if a then -1 else 1
  | .fin _ _ _, .inf b => if b then 1 else -1
  | .fin n1 m1 e1, .fin n2 m2 e2 => (sumAt n1 m1 e1 (!n2) m2 e2).1.sign

def lt (x y : Val) : Bool := !x.isNaN && !y.isNaN && decide (cmp x y < 0)
def le (x y : Val) : Bool := !x.isNaN && !y.isNaN && decide (cmp x y ≤ 0)
def eqv (x y : Val) : Bool := !x.isNaN && !y.isNaN && decide (cmp x y = 0)

end Val

/-- `m·2^e` as a multiple of `2^q`, rounded under `rm` with the sign `neg`: the multiple, and whether a non-zero
part was dropped. -/
def roundAt (rm : RMode) (neg : Bool) (m : Nat) (e q : Int) : Nat × Bool :=
  if q ≤ e then (m <<< (e - q).toNat, false)
  else
    let s := (q - e).toNat
    let k := m >>> s
    let r := m - (k <<< s)
    if r = 0 then (k, false)
    else
      let up : Bool :=
        match rm with
        | .rne => decide (2 * r > 2 ^ s) || (decide (2 * r = 2 ^ s) && k % 2 = 1)
        | .rtz => false
        | .rup => !neg
        | .rdn => neg
        | .odd => k % 2 = 0
      (if up then k + 1 else k, true)

/-- Round a non-zero magnitude to `p` significant bits with an unbounded exponent. -/
def roundUnb (rm : RMode) (p : Nat) (neg : Bool) (m : Nat) (e : Int) : Nat × Int × Bool :=
  if m = 0 then (0, 0, false)
  else
    let q := Val.ilog m e - ((p : Int) - 1)
    let r := roundAt rm neg m e q
    (r.1, q, r.2)

/-- Round a magnitude to `p` significant bits, no finer than `2^qmin`. -/
def roundMin (rm : RMode) (p : Nat) (qmin : Int) (neg : Bool) (m : Nat) (e : Int) : Nat × Int × Bool :=
  if m = 0 then (0, qmin, false)
  else
    let q := max (Val.ilog m e - ((p : Int) - 1)) qmin
    let r := roundAt rm neg m e q
    (r.1, q, r.2)

/-- Whether `a·2^d < b·2^f`. -/
def dyLt (a : Nat) (d : Int) (b : Nat) (f : Int) : Bool :=
  let g := min d f
  decide (a <<< (d - g).toNat < b <<< (f - g).toNat)

/-- Whether `a·2^d ≤ b·2^f`. -/
def dyLe (a : Nat) (d : Int) (b : Nat) (f : Int) : Bool := !dyLt b f a d

end Sys2Proof
end

