-- ==== Sys2Proof/Machine/Formats.lean ====
section
/-!
DEFINITION. Element formats (02): format codes and roles (R37), the long formats, the short formats
(R46, R47), INT8 and INT32 (R48), the E8M0 scale (R49), element packing in memory (R50), and decoding
and encoding of every code.
-/
namespace Sys2Proof

/-- The formats of R37. -/
inductive Fmt where
  | b32 | b16 | bf16 | e4m3 | e5m2 | e3m2 | e2m3 | e2m1 | e2m1n | i8 | i32
  deriving DecidableEq, Repr

/-- The format of a 4-bit code; none for a reserved code (R37). -/
def Fmt.ofCode : Nat → Option Fmt
  | 0 => some .b32
  | 1 => some .b16
  | 2 => some .bf16
  | 3 => some .e4m3
  | 4 => some .e5m2
  | 5 => some .e3m2
  | 6 => some .e2m3
  | 7 => some .e2m1
  | 8 => some .e2m1n
  | 9 => some .i8
  | 10 => some .i32
  | _ => none

/-- The code of a format (R37). -/
def Fmt.code : Fmt → Nat
  | .b32 => 0 | .b16 => 1 | .bf16 => 2 | .e4m3 => 3 | .e5m2 => 4 | .e3m2 => 5
  | .e2m3 => 6 | .e2m1 => 7 | .e2m1n => 8 | .i8 => 9 | .i32 => 10

/-- Element width in bits (R37). -/
def Fmt.width : Fmt → Nat
  | .b32 => 32 | .b16 => 16 | .bf16 => 16 | .e4m3 => 8 | .e5m2 => 8 | .e3m2 => 6
  | .e2m3 => 6 | .e2m1 => 4 | .e2m1n => 4 | .i8 => 8 | .i32 => 32

/-- The long formats (after R513). -/
def Fmt.isLong : Fmt → Bool
  | .b32 | .b16 | .bf16 => true
  | _ => false

/-- The short formats, codes 0x3–0x8 (after R513). -/
def Fmt.isShort : Fmt → Bool
  | .e4m3 | .e5m2 | .e3m2 | .e2m3 | .e2m1 | .e2m1n => true
  | _ => false

/-- May the format be an operand of the tensor array (R37)? -/
def Fmt.isTensor : Fmt → Bool
  | .b32 | .i32 => false
  | _ => true

/-- May the format be the destination of step 4 of the epilogue (R37)? -/
def Fmt.isEpilogueDst : Fmt → Bool
  | .i32 => false
  | _ => true

/-- Exponent field width, fraction width and bias of a floating format (02 "Long formats", R46); integers have no
exponent. -/
def Fmt.ebits : Fmt → Nat
  | .b32 => 8 | .b16 => 5 | .bf16 => 8 | .e4m3 => 4 | .e5m2 => 5 | .e3m2 => 3
  | .e2m3 => 2 | .e2m1 => 2 | .e2m1n => 2 | .i8 => 0 | .i32 => 0
def Fmt.fbits : Fmt → Nat
  | .b32 => 23 | .b16 => 10 | .bf16 => 7 | .e4m3 => 3 | .e5m2 => 2 | .e3m2 => 2
  | .e2m3 => 3 | .e2m1 => 1 | .e2m1n => 1 | .i8 => 0 | .i32 => 0
def Fmt.bias : Fmt → Nat
  | .b32 => 127 | .b16 => 15 | .bf16 => 127 | .e4m3 => 7 | .e5m2 => 15 | .e3m2 => 3
  | .e2m3 => 1 | .e2m1 => 1 | .e2m1n => 1 | .i8 => 0 | .i32 => 0

/-- Significant bits of a normal value. -/
def Fmt.prec (f : Fmt) : Nat := f.fbits + 1
/-- Exponent of the smallest normal value. -/
def Fmt.emin (f : Fmt) : Int := 1 - (f.bias : Int)
/-- The unit of the subnormals, as an exponent of two. -/
def Fmt.qmin (f : Fmt) : Int := f.emin - (f.fbits : Int)
/-- Exponent of the largest finite value (R57 for the short formats). -/
def Fmt.emax : Fmt → Int
  | .b32 => 127 | .b16 => 15 | .bf16 => 127 | .e4m3 => 8 | .e5m2 => 15 | .e3m2 => 4
  | .e2m3 => 2 | .e2m1 => 2 | .e2m1n => 2 | .i8 => 6 | .i32 => 30
/-- The code of the largest finite magnitude. -/
def Fmt.maxCode : Fmt → Nat
  | .b32 => 0x7F7FFFFF | .b16 => 0x7BFF | .bf16 => 0x7F7F | .e4m3 => 0x7E | .e5m2 => 0x7B
  | .e3m2 => 0x1F | .e2m3 => 0x1F | .e2m1 => 0x7 | .e2m1n => 0x7 | .i8 => 127 | .i32 => 0x7FFFFFFF
/-- The canonical NaN a conversion writes (R43, R55); zero in a format without NaN. -/
def Fmt.nanCode : Fmt → Nat
  | .b32 => 0x7FC00000 | .b16 => 0x7E00 | .bf16 => 0x7FC0 | .e4m3 => 0x7F | .e5m2 => 0x7E | .e2m1n => 0x8
  | _ => 0
def Fmt.hasNaN : Fmt → Bool
  | .b32 | .b16 | .bf16 | .e4m3 | .e5m2 | .e2m1n => true
  | _ => false
def Fmt.hasInf : Fmt → Bool
  | .b32 | .b16 | .bf16 | .e5m2 => true
  | _ => false

/-- The value of a code. Integers decode as themselves; a short code decodes without its scale. -/
def Fmt.decode (f : Fmt) (c : Nat) : Val :=
  match f with
  | .i8 => Val.ofInt (sext 8 c)
  | .i32 => Val.ofInt (sext 32 c)
  | .e2m1n => if c % 16 = 8 then .nan false else decodeFloat .e2m1 c
  | f => decodeFloat f c
where
  decodeFloat (f : Fmt) (c : Nat) : Val :=
    let s := c.testBit (f.width - 1)
    let ef := (c >>> f.fbits) % 2 ^ f.ebits
    let fr := c % 2 ^ f.fbits
    if ef = 0 then .fin s fr f.qmin
    else if ef + 1 = 2 ^ f.ebits && f.hasInf then
      if fr = 0 then .inf s else .nan (f.isLong && !fr.testBit (f.fbits - 1))
    else if f = .e4m3 && ef = 15 && fr = 7 then .nan false
    else .fin s (fr + 2 ^ f.fbits) (f.qmin + (ef : Int) - 1)

/-- The magnitude code of a finite `k·2^q` that the format holds exactly. -/
def Fmt.magCode (f : Fmt) (k : Nat) (q : Int) : Nat :=
  if k = 0 then 0
  else
    let x := Val.ilog k q
    if x < f.emin then (if f.qmin ≤ q then k <<< (q - f.qmin).toNat else k >>> (f.qmin - q).toNat)
    else
      let u := x - (f.fbits : Int)
      let sig := if u ≤ q then k <<< (q - u).toNat else k >>> (u - q).toNat
      ((x + (f.bias : Int)).toNat <<< f.fbits) + (sig - 2 ^ f.fbits)

/-- Put a sign on a magnitude code; E2M1N has no negative zero (R47). -/
def Fmt.signCode (f : Fmt) (neg : Bool) (mag : Nat) : Nat :=
  if neg && !(f = .e2m1n && mag = 0) then mag + 2 ^ (f.width - 1) else mag

/-- The code of infinity (formats that have one). -/
def Fmt.infCode (f : Fmt) (neg : Bool) : Nat :=
  f.signCode neg ((2 ^ f.ebits - 1) <<< f.fbits)

/-- Is the value a subnormal of the format (nonzero, below the smallest normal)? -/
def Fmt.isSub (f : Fmt) : Val → Bool
  | .fin _ m e => m != 0 && decide (Val.ilog m e < f.emin)
  | _ => false

/-- The exact value of an encodable long value. -/
def b32Val (c : Nat) : Val := Fmt.b32.decode c

/-- Result of an IEEE rounding into a long format: the value delivered, its flags, and whether a non-zero value
became zero. -/
structure Rounded where
  code : Nat
  val : Val
  flags : Flags
  toZero : Bool
  deriving DecidableEq, Repr

/-- Round an exact value once into a long format under a direction, with the flags of R40–R42: tininess is
detected after rounding, an overflow is delivered as IEEE 754-2019 states for the direction, NaN is canonical
(R43). -/
def Fmt.round (f : Fmt) (rm : RMode) (v : Val) : Rounded :=
  match v with
  | .nan _ => ⟨f.nanCode, .nan false, .none, false⟩
  | .inf n => ⟨f.infCode n, .inf n, .none, false⟩
  | .fin n m e =>
    if m = 0 then ⟨f.signCode n 0, .fin n 0 0, .none, false⟩
    else
      let r := roundMin rm f.prec f.qmin n m e
      if r.1 ≠ 0 ∧ f.emax < Val.ilog r.1 r.2.1 then
        let toInf : Bool :=
          match rm with
          | .rne => true
          | .rtz => false
          | .rup => !n
          | .rdn => n
          | .odd => false
        let fl : Flags := ⟨false, false, true, false, true⟩
        if toInf then ⟨f.infCode n, .inf n, fl, false⟩
        else ⟨f.signCode n f.maxCode, f.decode (f.signCode n f.maxCode), fl, false⟩
      else
        let u := roundUnb rm f.prec n m e
        let tiny := decide (Val.ilog u.1 u.2.1 < f.emin)
        let fl : Flags := ⟨false, false, false, tiny && r.2.2, r.2.2⟩
        ⟨f.signCode n (f.magCode r.1 r.2.1), .fin n r.1 r.2.1, fl, r.1 = 0⟩

/-- Binary32 round-to-nearest-even of an exact value, as an exact value: the `fl()` of the manual. -/
def fl32 (v : Val) : Val := (Fmt.b32.round .rne v).val

/-- The binary32 code of an exact value rounded to nearest even. -/
def code32 (v : Val) : Nat := (Fmt.b32.round .rne v).code

/-- `fl()` sum, difference and product. -/
def fadd (x y : Val) : Val := fl32 (Val.addX .rne x y).1
def fsub (x y : Val) : Val := fl32 (Val.subX .rne x y).1
def fmul (x y : Val) : Val := fl32 (Val.mulX x y).1

/-- Bytes per row of `n` elements packed as R50 states. -/
def Fmt.packedBytes (f : Fmt) (n : Nat) : Nat := cdiv (n * f.width) 8

/-- Element `i` of a packed row: 8-, 16- and 32-bit elements by bytes, 4-bit elements by halves, 6-bit elements in
24-bit groups of four (R50), which is the little-endian bit string in every width. -/
def Fmt.unpack (f : Fmt) (row : List Byte) (i : Nat) : Nat :=
  let b := i * f.width
  (leAt row (b / 8) 5 >>> (b % 8)) % 2 ^ f.width

/-- Pack codes into bytes, little-endian bit string (R50). -/
def Fmt.pack (f : Fmt) (codes : List Nat) : List Byte :=
  leBytes (f.packedBytes codes.length)
    (codes.foldr (fun c acc => (c % 2 ^ f.width) + acc * 2 ^ f.width) 0)

end Sys2Proof
end

