-- ==== Sys2Proof/Machine/Convert.lean ====
section
/-!
DEFINITION. Conversion (R52–R58, R515): the path of intermediates rounded to odd, the signature's scale, the
final rounding, the special values of R55, the counts and the flags of R515; the choice of scales of R57;
the magnitude a scale hint records (R58).
-/
namespace Sys2Proof

/-- What one element's conversion delivers: the code, its marks for the counts, and the flags of R515. -/
structure Conv where
  code : Nat
  sat : Bool
  flush : Bool
  flags : Flags
  deriving DecidableEq, Repr

/-- Replace a subnormal long-format input by the zero of its sign in RELAXED mode (R44). -/
def relaxIn (relaxed : Bool) (f : Fmt) (v : Val) : Val :=
  if relaxed && f.isLong && f.isSub v then Val.zero v.sign else v

/-- The path rule of R52: every intermediate is a long format and has at least two more fraction bits than every
format after it. -/
def pathValid (ints : List Fmt) (dst : Fmt) : Bool :=
  match ints with
  | [] => true
  | i :: rest =>
    i.isLong && (rest ++ [dst]).all (fun f => decide (fracBitsOf f + 2 ≤ i.fbits)) && pathValid rest dst
where
  /-- Fraction bits of a format; an integer format has none (DEDUCED, log entry 10). -/
  fracBitsOf (f : Fmt) : Nat := f.fbits

/-- One intermediate step (R53, R44): the value, whether it saturated, whether RELAXED replaced it. -/
def viaOdd (relaxed : Bool) (f : Fmt) (v : Val) : Val × Bool × Bool :=
  match v with
  | .nan s => (.nan s, false, false)
  | .inf n => (.inf n, false, false)
  | .fin n m e =>
    if m = 0 then (v, false, false)
    else
      let r := roundMin .odd f.prec f.qmin n m e
      if f.emax < Val.ilog r.1 r.2.1 then (f.decode (f.signCode n f.maxCode), true, false)
      else
        let w : Val := .fin n r.1 r.2.1
        if relaxed && f.isSub w then (Val.zero n, false, true) else (w, false, false)

/-- All intermediate steps in order. -/
def viaPath (relaxed : Bool) : List Fmt → Val → Val × Bool × Bool
  | [], v => (v, false, false)
  | f :: rest, v =>
    let a := viaOdd relaxed f v
    let b := viaPath relaxed rest a.1
    (b.1, a.2.1 || b.2.1, a.2.2 || b.2.2)

/-- The final step into a short format (R46, R47, R54, R55): divide by the scale exactly, round to nearest even with
an unbounded exponent above, saturate, flush. -/
def toShort (f : Fmt) (scale : Nat) (v : Val) : Nat × Bool × Bool :=
  match v with
  | .nan _ => (f.nanCode, !f.hasNaN, false)
  | .inf n => if f.hasInf then (f.infCode n, false, false) else (f.signCode n f.maxCode, true, false)
  | .fin n m e =>
    if m = 0 then (f.signCode n 0, false, false)
    else
      let e' := e - ((scale : Int) - 127)
      let r := roundMin .rne f.prec f.qmin n m e'
      if r.1 = 0 then (f.signCode n 0, false, true)
      else
        let top := f.decode f.maxCode
        if Val.lt top (.fin false r.1 r.2.1) then (f.signCode n f.maxCode, true, false)
        else (f.signCode n (f.magCode r.1 r.2.1), false, false)

/-- The final step into an integer format (R55). -/
def toInt (f : Fmt) (v : Val) : Nat × Bool × Bool :=
  let hi : Int := f.maxCode
  match v with
  | .nan _ => (0, true, false)
  | .inf n => (wrapI f.width (if n then -hi - 1 else hi), true, false)
  | .fin n m e =>
    if m = 0 then (0, false, false)
    else
      let r := (roundAt .rne n m e 0).1
      let i : Int := if n then -(r : Int) else (r : Int)
      if hi < i then (wrapI f.width hi, true, false)
      else if i < -hi - 1 then (wrapI f.width (-hi - 1), true, false)
      else (wrapI f.width i, false, r = 0)

/-- Whether two non-NaN values are the same number. -/
def sameVal (x y : Val) : Bool :=
  match x, y with
  | .nan _, .nan _ => true
  | .nan _, _ => false
  | _, .nan _ => false
  | x, y => decide (Val.cmp x y = 0)

/-- Convert one source value along a path (R53–R55, R44), with the flags of R515. `rm` is the direction of the final
step: to nearest even but for a direct conversion between long formats. Whether an integer destination raises invalid is judged on the
value after the intermediate formats (DESIGN CHOICE, log entry 43). -/
def convert (relaxed : Bool) (src : Fmt) (ints : List Fmt) (dst : Fmt) (scale : Nat) (rm : RMode)
    (v0 : Val) : Conv :=
  let v := relaxIn relaxed src v0
  let p := viaPath relaxed ints v
  let x := p.1
  if dst.isLong then
    let r := dst.round rm x
    let sub := relaxed && dst.isSub r.val
    let code := if sub then dst.signCode r.val.sign 0 else r.code
    let delivered : Val := if sub then Val.zero r.val.sign else r.val
    let inexact := v.isFin && !sameVal delivered v
    let overflow := v.isFin && (p.2.1 || r.flags.ovf)
    let tiny := v.isFin && !v.isZero && (r.flags.unf || dst.isSub delivered || delivered.isZero)
    let under := (inexact && tiny) || sub || p.2.2
    let fl : Flags := ⟨v.isSig, false, overflow, under, inexact || overflow⟩
    { code := code, sat := p.2.1, flush := !p.2.1 && (p.2.2 || r.toZero || sub), flags := fl }
  else if dst.isShort then
    let r := toShort dst scale x
    { code := r.1, sat := p.2.1 || r.2.1, flush := !p.2.1 && !r.2.1 && (p.2.2 || r.2.2), flags := .none }
  else
    let r := toInt dst x
    { code := r.1, sat := p.2.1 || r.2.1, flush := !p.2.1 && !r.2.1 && (p.2.2 || r.2.2)
      flags := ⟨r.2.1, false, false, false, false⟩ }

/-- A block scale (R57): floor(log2 amax) − emax + 127 clamped to 0–254, and 127 when no finite element is
non-zero. -/
def blockScale (dst : Fmt) (xs : List Val) : Nat :=
  let tops := xs.filterMap (fun v => match v with
    | .fin _ m e => if m = 0 then none else some (Val.ilog m e)
    | _ => none)
  match tops with
  | [] => 127
  | t :: rest =>
    let top := rest.foldl max t
    (min (max (top - dst.emax + 127) 0) 254).toNat

/-- The 31-bit magnitude a hint records for a source value: rounded toward +infinity, +infinity for an infinite
source, nothing for a NaN (R58). -/
def hintMag (v : Val) : Nat :=
  match v with
  | .nan _ => 0
  | v => (Fmt.b32.round .rup v.abs).code

/-- The running maximum over a list of sources (R58): binary32 magnitudes order as their codes. -/
def hintMax (cur : Nat) (xs : List Val) : Nat := xs.foldl (fun a v => max a (hintMag v)) cur

/-- Split a list into blocks of `n`, with fuel. -/
def chunks {α : Type} (n : Nat) : Nat → List α → List (List α)
  | 0, _ => []
  | f + 1, l => if l.isEmpty then [] else l.take n :: chunks n f (l.drop n)

/-- Scales of a row for a short destination (R57). -/
def rowScales (dst : Fmt) (block : Bool) (given sigSize : Nat) (xs : List Val) : List Nat :=
  (chunks sigSize (xs.length + 1) xs).map (fun c => if block then blockScale dst c else given)

/-- Decode one short element under its scale byte; a scale of 0xFF makes it NaN (R49). -/
def decodeScaled (f : Fmt) (scale c : Nat) : Val :=
  if f.isShort then
    if scale = 255 then .nan false
    else
      match f.decode c with
      | .fin n m e => .fin n m (e + ((scale : Int) - 127))
      | v => v
  else f.decode c

end Sys2Proof
end

