-- ==== Sys2Proof/Machine/Curves.lean ====
section
/-!
DEFINITION. Wide values (R91), curve tables (R110–R112) and recipes (R113–R115): decoding an image with every rule
of the layout, and the exact arithmetic that yields W(x).
-/
namespace Sys2Proof

/-- A segment of a curve table (R111): the integers of the coefficients, and the exponent. -/
structure Seg where
  c0 : Int
  c1 : Int
  c2 : Int
  c3 : Int
  sh : Int
  deriving DecidableEq, Repr

/-- A decoded curve table (R110). -/
structure CurveTable where
  binade : Bool
  sym : Nat
  recon : Bool
  k : Nat
  nbin : Nat
  lo : Nat
  emin : Int
  w : Int
  alo : Nat
  blo : Nat
  ahi : Nat
  bhi : Nat
  segs : List Seg
  deriving DecidableEq, Repr

/-- A decoded recipe (R113): the two references with their identities, the constants, the step words. -/
structure Recipe where
  ref0 : Option Nat
  ref1 : Option Nat
  id0 : Nat
  id1 : Nat
  ks : List Nat
  steps : List Nat
  deriving DecidableEq, Repr

/-- Round an exact value into the wide format (R91). -/
def wround (v : Val) : Val :=
  match v with
  | .fin n m e =>
    if m = 0 then v
    else
      let r := roundUnb .rne 32 n m e
      let x := Val.ilog r.1 r.2.1
      if 512 ≤ x then .inf n
      else if x < -512 then Val.zero n
      else .fin n r.1 r.2.1
  | v => v

def wadd (x y : Val) : Val := wround (Val.addX .rne x y).1
def wmul (x y : Val) : Val := wround (Val.mulX x y).1

/-- Multiply by a power of two exactly. -/
def Val.scale2 (v : Val) (s : Int) : Val :=
  match v with
  | .fin n m e => .fin n m (e + s)
  | v => v

/-- A 30-bit coefficient as a value (R111). -/
def coef (c : Int) : Val := .fin (c < 0) c.natAbs (-28)

/-- Horner's rule in the wide format (R112 step 3). -/
def horner (c0 c1 c2 c3 t : Val) : Val := wadd (wmul (wadd (wmul (wadd (wmul c3 t) c2) t) c1) t) c0

/-- Where an argument falls (R112 step 2): a segment with its coordinate, or a tail. -/
inductive Placed where
  | seg (s : Seg) (t : Val)
  | tail (a b : Nat)
  deriving DecidableEq, Repr

/-- Placement of a non-NaN argument (R112 step 2). -/
def CurveTable.place (c : CurveTable) (y : Val) : Placed :=
  let zeroSeg : Seg := ⟨0, 0, 0, 0, 0⟩
  match y with
  | .nan _ => .tail c.ahi c.bhi
  | .inf n => if n then .tail c.alo c.blo else .tail c.ahi c.bhi
  | .fin _ _ _ =>
    if c.binade then
      match y with
      | .fin n m e =>
        if n || m = 0 then .tail c.alo c.blo
        else
          let x := Val.ilog m e
          if x < c.emin || x < -126 then .tail c.alo c.blo
          else if c.emin + (c.nbin : Int) ≤ x then .tail c.ahi c.bhi
          else
            -- (m/2^x − 1)·2^k as a multiple of 2^(−L), L = log2 m
            let num := (m - 2 ^ m.log2) <<< c.k
            let j := (x - c.emin).toNat * 2 ^ c.k + num >>> m.log2
            let t : Val := .fin false (num % 2 ^ m.log2) (-(m.log2 : Int))
            .seg (c.segs.getD j zeroSeg) t
      | _ => .tail c.ahi c.bhi
    else
      let d := (Val.subX .rne y (b32Val c.lo)).1
      match d with
      | .fin n m e =>
        if n && m ≠ 0 then .tail c.alo c.blo
        else
          let e' := e - c.w
          let u := if 0 ≤ e' then m <<< e'.toNat else m >>> (-e').toNat
          if 2 ^ c.k ≤ u then .tail c.ahi c.bhi
          else
            let t : Val := if 0 ≤ e' then Val.zero false else .fin false (m % 2 ^ (-e').toNat) e'
            .seg (c.segs.getD u zeroSeg) t
      | _ => .tail c.ahi c.bhi

/-- The value in a tail (R112 step 4). -/
def tailVal (a b : Nat) (y : Val) : Val :=
  let av := b32Val a
  match y with
  | .inf n => if av.isZero then b32Val b else .inf (n != av.sign)
  | y => wround (Val.addX .rne (Val.mulX av y).1 (b32Val b)).1

/-- W(x) of a curve table for a non-NaN argument (R112). -/
def CurveTable.eval (c : CurveTable) (x : Val) : Val :=
  let y := if c.sym = 0 then x else x.abs
  let v :=
    match c.place y with
    | .tail a b => tailVal a b y
    | .seg s t =>
      let p := wround ((horner (coef s.c0) (coef s.c1) (coef s.c2) (coef s.c3) t).scale2 s.sh)
      if c.recon then wmul p y else p
  if c.sym = 1 && x.sign then v.neg else v

/-- The recipe machine (R114). -/
structure RState where
  w : List Val
  n : List Int
  p : List Bool
  l0 : Val
  l1 : Val
  l2 : Val
  l3 : Val
  lsh : Int
  patch : Option (Val × Flags)
  made : Bool
  deriving DecidableEq, Repr

/-- The registers as a recipe begins (R115). The coefficients and the shift that POLY uses before any LKUP has latched some are +0 and 0
(DESIGN CHOICE, log entry 42). -/
def RState.start (x : Val) : RState :=
  ⟨x :: List.replicate 7 (Val.zero false), [0, 0, 0, 0], [false, false, false, false],
    Val.zero false, Val.zero false, Val.zero false, Val.zero false, 0, none, false⟩

def RState.wr (s : RState) (i : Nat) : Val := s.w.getD i (Val.zero false)

/-- Write a wide result; a NaN made from non-NaN operands is noted. -/
def RState.setW (s : RState) (d : Nat) (v : Val) (operands : List Val) : RState :=
  { s with w := s.w.set d v, made := s.made || (v.isNaN && !operands.any Val.isNaN) }

/-- The nearest integer of a finite value, ties to even. -/
def rneInt (v : Val) : Option Int :=
  match v with
  | .fin n m e => let r := (roundAt .rne n m e 0).1; some (if n then -(r : Int) else (r : Int))
  | _ => none

/-- Is the original argument in class `i` of the PTCH mask (R115)? -/
def ptchClass (x : Val) (p0 : Bool) (i : Nat) : Bool :=
  match i with
  | 0 => x.isNaN
  | 1 => x.isInf && !x.sign
  | 2 => x.isInf && x.sign
  | 3 => x.isZero && !x.sign
  | 4 => x.isZero && x.sign
  | 5 => x.isFin && x.sign && !x.isZero
  | 6 => Fmt.b32.isSub x
  | _ => p0

/-- Decompose a positive value as 2^n·m with m in [k, 2k): the n. -/
def rredExp (m : Nat) (e : Int) (km : Nat) (ke : Int) : Int :=
  let d := Val.ilog m e - Val.ilog km ke
  -- m·2^(e−d) against k
  if dyLt m (e - d) km ke then d - 1 else d

/-- Whether a value lies below another as minimum and maximum of IEEE 754-2019 order them: −0 lies below +0. -/
def Val.below (x y : Val) : Bool := Val.lt x y || (x.isZero && y.isZero && x.sign && !y.sign)

/-- One recipe step (R115). `tab` gives the table of a reference; `slot` and `xb` name open values. Three points that R115 leaves
to reading (DEDUCED, log entry 38): a LKUP of a NaN delivers the NaN and leaves the latched coefficients as they were, since R112
places no NaN; RRED mode 0 of an infinity or a NaN, for which n has no value, delivers wa; RSEED of a zero delivers the infinity of
a division by zero and raises no divideByZero, since R114 names invalid alone. The integer registers have no bound, and RRED mode 2
delivers n exactly where the wide format holds it and else rounds, as every wide result does (DESIGN CHOICE, log entry 42). -/
def recipeStep (r : Recipe) (tab : Nat → Option CurveTable) (slot xb : Nat) (x : Val) (word : Nat) (s : RState) :
    RState :=
  let op := bits word 31 28
  let d := bits word 27 25
  let wa := s.wr (bits word 24 22)
  let bi := bits word 21 19
  let wb := s.wr bi
  let k := fun (i : Nat) => b32Val (r.ks.getD i 0)
  let ni := bits word 3 2
  match op with
  | 1 =>
    let c := bits word 6 4
    match bits word 1 0 with
    | 0 =>
      match rneInt (Val.mulX wa (k c)).1 with
      | some n =>
        let nv := Val.ofInt n
        let a := (Val.subX .rne wa (Val.mulX nv (k (c + 1))).1).1
        let v := wround (Val.subX .rne a (Val.mulX nv (k (c + 2))).1).1
        { s.setW d v [wa] with n := s.n.set ni n }
      | none => { s.setW d wa [wa] with n := s.n.set ni (Config.recipeOpenInt slot xb) }
    | 1 =>
      match wa, k c with
      | .fin neg m e, .fin kneg km ke =>
        if m = 0 then { s.setW d wa [wa] with n := s.n.set ni 0 }
        else if neg || kneg || km = 0 then
          { s.setW d (b32Val (Config.recipeOpen slot xb).toNat) [wa] with
            n := s.n.set ni (Config.recipeOpenInt slot xb) }
        else
          let n := rredExp m e km ke
          { s.setW d (.fin false m (e - n)) [wa] with n := s.n.set ni n }
      | _, _ => { s.setW d wa [wa] with n := s.n.set ni 0 }
    | _ => s.setW d (wround (Val.ofInt (s.n.getD ni 0))) []
  | 2 =>
    match tab (bits word 0 0) with
    | none => s
    | some t =>
      match wa with
      | .nan g => s.setW d (.nan g) [wa]
      | wa =>
        match t.place wa with
        | .seg g u =>
          { s.setW d (wround u) [wa] with l0 := coef g.c0, l1 := coef g.c1, l2 := coef g.c2, l3 := coef g.c3, lsh := g.sh }
        | .tail a b =>
          { s.setW d wa [wa] with
            l0 := b32Val b, l1 := b32Val a, l2 := Val.zero false, l3 := Val.zero false, lsh := 0 }
  | 3 =>
    let c := bits word 5 3
    let base :=
      match bits word 1 0 with
      | 0 => wround ((horner s.l0 s.l1 s.l2 s.l3 wa).scale2 s.lsh)
      | 1 => horner (k c) (k (c + 1)) (k (c + 2)) (k (c + 3)) wa
      | _ => wmul wa wb
    if word.testBit 2 then s.setW d (wadd base wb) [wa, wb]
    else if bits word 1 0 = 2 then s.setW d base [wa, wb]
    else s.setW d base [wa]
  | 4 =>
    let sh := sext 11 (bits word 18 8)
    let sh := if word.testBit 2 then sh + s.n.getD (bits word 1 0) 0 else sh
    s.setW d (wround (wa.scale2 sh)) [wa]
  | 5 =>
    let q :=
      if word.testBit 0 then (Val.divX Val.one (Val.sqrtX wa).1).1 else (Val.divX Val.one wa).1
    let v :=
      match q with
      | .fin n m e => let u := roundUnb .rne 12 n m e; wround (.fin n u.1 u.2.1)
      | q => q
    s.setW d v [wa]
  | 6 =>
    let two : Val := .fin false 2 0
    let v :=
      if word.testBit 0 then
        let t := (Val.mulX (Val.mulX (.fin false 1 (-1)) wa).1 (Val.mulX wb wb).1).1
        (Val.mulX wb (Val.subX .rne (.fin false 3 (-1)) t).1).1
      else (Val.mulX wb (Val.subX .rne two (Val.mulX wa wb).1).1).1
    s.setW d (wround v) [wa, wb]
  | 7 =>
    let v := if word.testBit 5 then k (bits word 8 6) else wb
    let r :=
      match bits word 4 2 with
      | 0 => Val.lt wa v
      | 1 => Val.le wa v
      | 2 => Val.eqv wa v
      | _ => wa.isNaN || v.isNaN
    { s with p := s.p.set (bits word 1 0) r }
  | 8 => let v := if s.p.getD (bits word 1 0) false then wa else wb; s.setW d v [wa, wb]
  | 9 =>
    let c := bits word 2 0
    let a := if Val.below wa (k c) then k c else wa
    let v := if Val.below (k (c + 1)) a then k (c + 1) else a
    s.setW d v [wa]
  | 10 =>
    match s.patch with
    | some _ => s
    | none =>
      let hit := (List.range 8).any (fun i => (bits word 7 0).testBit i && ptchClass x (s.p.getD 0 false) i)
      if hit then
        let v :=
          match bits word 10 8 with
          | 0 => Val.zero false
          | 1 => Val.zero true
          | 2 => .inf false
          | 3 => .inf true
          | 4 => .nan false
          | 5 => Val.one
          | _ => k bi
        let f :=
          match bits word 12 11 with
          | 1 => Flags.invalid
          | 2 => Flags.divz
          | _ => Flags.none
        { s with patch := some (v, f) }
      else s
  | _ => s

/-- What a recipe or a table yields for an argument: the value, whether a patch made it final (then exact and not
counted), its flags, and whether it is a NaN produced here. -/
structure WRes where
  v : Val
  final : Bool
  flags : Flags
  made : Bool
  deriving DecidableEq, Repr

/-- Run a recipe (R114). -/
def Recipe.eval (r : Recipe) (tab : Nat → Option CurveTable) (slot xb : Nat) (x : Val) : WRes :=
  let s := r.steps.foldl (fun s w => recipeStep r tab slot xb x w s) (RState.start x)
  match s.patch with
  | some (v, f) => ⟨v, true, f, v.isNaN && !x.isNaN⟩
  | none =>
    let v := s.wr 0
    let made := v.isNaN && !x.isNaN
    ⟨v, false, if s.made then Flags.invalid else Flags.none, made⟩

/-- Is a step word of a recipe allowed (R115)? -/
def stepValid (r : Recipe) (word : Nat) : Bool :=
  let d := bits word 27 25
  let a := bits word 24 22
  let b := bits word 21 19
  let imm := bits word 18 0
  let z := fun (hi lo : Nat) => bits imm hi lo == 0
  match bits word 31 28 with
  | 1 =>
    match bits imm 1 0 with
    | 0 => decide (bits imm 6 4 ≤ 5) && b == 0 && z 18 7
    | 1 => b == 0 && z 18 7
    | 2 => a == 0 && b == 0 && z 18 4
    | _ => false
  | 2 => b == 0 && z 18 1 && (if imm.testBit 0 then r.ref1.isSome else r.ref0.isSome)
  | 3 =>
    match bits imm 1 0 with
    | 0 => z 18 3 && (imm.testBit 2 || b == 0)
    | 1 => z 18 6 && decide (bits imm 5 3 ≤ 4) && (imm.testBit 2 || b == 0)
    | 2 => z 18 2
    | _ => false
  | 4 => b == 0 && z 7 3 && (imm.testBit 2 || z 1 0)
  | 5 => b == 0 && z 18 1
  | 6 => z 18 1
  | 7 =>
    d == 0 && z 18 9 && decide (bits imm 4 2 ≤ 3) &&
      (if imm.testBit 5 then b == 0 else z 8 6)
  | 8 => z 18 2
  | 9 => b == 0 && z 18 3 && decide (bits imm 2 0 ≤ 6)
  | 10 => d == 0 && a == 0 && z 18 13 && decide (bits imm 10 8 ≤ 6) && decide (bits imm 12 11 ≤ 2) &&
      (decide (bits imm 10 8 = 6) || b == 0)
  | _ => false

/-- Is a binary32 word finite? -/
def finite32 (c : Nat) : Bool := bits c 30 23 != 255

/-- The checks of R110 after magic and version, and the decoded table; none is BAD_LAYOUT. `body` is the image. -/
def decodeTable (img : List Byte) : Option CurveTable :=
  let h := fun (o n : Nat) => leAt img o n
  let w4 := h 4 4
  let imode := bits w4 31 30
  let sym := bits w4 29 28
  let k := bits w4 11 8
  let nbin := bits w4 7 0
  let binade := imode == 1
  let nseg := if binade then nbin * 2 ^ k else 2 ^ k
  let w8 := h 8 4
  let wc := h 12 4
  let w := sext 8 wc
  let emin := sext 8 w8
  let lov := b32Val w8
  let uniformOk :=
    nbin == 0 && finite32 w8 && bits wc 31 8 == 0 &&
      (match lov with
       | .fin _ m e => m == 0 || decide (w ≤ e) || m % 2 ^ (w - e).toNat == 0
       | _ => false) &&
      decide (-149 ≤ w) && decide (w ≤ 127) &&
      !Val.lt (Fmt.b32.decode 0x7F7FFFFF) (Val.addX .rne lov (.fin false 1 ((k : Int) + w))).1
  let binadeOk :=
    decide (1 ≤ nbin) && decide (nbin * 2 ^ k ≤ 256) && bits w8 31 8 == 0 && decide (-126 ≤ emin) &&
      decide (emin + (nbin : Int) ≤ 128) && wc == 0
  let ok :=
    h 0 1 == 1 && decide (imode ≤ 1) && decide (sym ≤ 2) && bits w4 26 12 == 0 && decide (k ≤ 8) &&
      (if binade then binadeOk else uniformOk) &&
      finite32 (h 0x10 4) && finite32 (h 0x14 4) && finite32 (h 0x18 4) && finite32 (h 0x1C 4) &&
      h 0x30 16 == 0 && decide (img.length = 0x80 + 16 * nseg)
  if ok then
    some
      { binade := binade, sym := sym, recon := w4.testBit 27, k := k, nbin := nbin, lo := w8
        emin := emin, w := w, alo := h 0x10 4, blo := h 0x14 4, ahi := h 0x18 4, bhi := h 0x1C 4
        segs := (List.range nseg).map (fun j =>
          let v := h (0x40 + 16 * j) 16
          ⟨sext 30 (bits v 37 8), sext 30 (bits v 67 38), sext 30 (bits v 97 68), sext 30 (bits v 127 98),
            sext 8 (bits v 7 0)⟩) }
  else none

/-- The checks of R113 and R115 after magic and version, and the decoded recipe; none is BAD_LAYOUT. -/
def decodeRecipe (img : List Byte) : Option Recipe :=
  let h := fun (o n : Nat) => leAt img o n
  let w4 := h 4 4
  let nstep := bits w4 5 0
  let ks := (List.range 8).map (fun i => h (0x10 + 4 * i) 4)
  let all := (List.range 32).map (fun i => h (0x40 + 4 * i) 4)
  let r : Recipe :=
    { ref0 := if w4.testBit 15 then some (bits w4 14 12) else none
      ref1 := if w4.testBit 19 then some (bits w4 18 16) else none
      id0 := h 8 4, id1 := h 12 4, ks := ks, steps := all.take nstep }
  let ok :=
    h 0 1 == 2 && bits w4 31 20 == 0 && bits w4 11 6 == 0 && decide (1 ≤ nstep) && decide (nstep ≤ 32) &&
      ks.all finite32 && (all.drop nstep).all (· == 0) && r.steps.all (stepValid r) && decide (img.length = 256)
  if ok then some r else none

end Sys2Proof
end

