-- ==== Sys2Proof/Machine/Trans.lean ====
section
/-!
DEFINITION. The exact functions of R90, each as an exact value or as a value with several hundred correct bits
whose last bit is set to say that it is not exact; rounding it to the widths of the manual is then the rounding
of the exact f(x) (R92). Fixed-point work has 768 fraction bits.
-/
namespace Sys2Proof

/-- Fraction bits of the fixed-point work. -/
def fxP : Nat := 768
def fxOne : Nat := 2 ^ fxP
def fxMul (a b : Nat) : Nat := (a * b) >>> fxP
def fxDiv (a b : Nat) : Nat := (a <<< fxP) / b

/-- Σ term, term := term·x/k over k from `k` on, until the term vanishes: the tail of the exponential series. -/
def expSeries : Nat → Nat → Nat → Nat → Nat → Nat
  | 0, _, _, _, acc => acc
  | f + 1, k, x, t, acc =>
    let t' := fxMul t x / k
    if t' = 0 then acc else expSeries f (k + 1) x t' (acc + t')

/-- Σ z^(2k+1)/(2k+1) with `zz = z²`: the area tangent series. -/
def atanhSeries : Nat → Nat → Nat → Nat → Nat → Nat
  | 0, _, _, _, acc => acc
  | f + 1, k, zz, p, acc =>
    let p' := fxMul p zz
    if p' = 0 then acc else atanhSeries f (k + 2) zz p' (acc + p' / k)

/-- 2·artanh(z) for 0 ≤ z < 1. -/
def fxAtanh2 (z : Nat) : Nat := 2 * atanhSeries 2000 3 (fxMul z z) z z

/-- ln 2. -/
def fxLn2 : Nat := fxAtanh2 (fxOne / 3)

/-- arctan(1/n): alternating series over a positive and a negative part. -/
def atanInv : Nat → Nat → Nat → Nat → Bool → Nat → Nat → Nat
  | 0, _, _, _, _, pos, ng => pos - ng
  | f + 1, n2, p, k, s, pos, ng =>
    if p = 0 then pos - ng
    else if s then atanInv f n2 (p / n2) (k + 2) false (pos + p / k) ng
    else atanInv f n2 (p / n2) (k + 2) true pos (ng + p / k)

/-- π by Machin's formula. -/
def fxPi : Nat := 16 * atanInv 2000 25 (fxOne / 5) 1 true 0 0 - 4 * atanInv 2000 57121 (fxOne / 239) 1 true 0 0

/-- Square root in fixed point. -/
def fxSqrt (a : Nat) : Nat := Val.isqrt (a <<< fxP)

/-- A positive approximated magnitude. -/
structure Mag where
  m : Nat
  e : Int
  deriving DecidableEq, Repr

/-- Mark a magnitude as not exact. -/
def Mag.inexact (a : Mag) : Mag := ⟨if a.m % 2 = 0 then a.m + 1 else a.m, a.e⟩

/-- A fixed-point number as a magnitude. -/
def Mag.ofFx (a : Nat) : Mag := ⟨a, -(fxP : Int)⟩

/-- A value far below every output, and one just under 1. -/
def Mag.tiny : Mag := ⟨1, -3000⟩
def Mag.almostOne : Mag := ⟨2 ^ 3000 - 1, -3000⟩

def Mag.mul (a b : Mag) : Mag := ⟨a.m * b.m, a.e + b.e⟩
def Mag.add (a b : Mag) : Mag :=
  let g := min a.e b.e
  ⟨a.m <<< (a.e - g).toNat + b.m <<< (b.e - g).toNat, g⟩
/-- Difference of `a ≥ b`. -/
def Mag.sub (a b : Mag) : Mag :=
  let g := min a.e b.e
  ⟨a.m <<< (a.e - g).toNat - b.m <<< (b.e - g).toNat, g⟩
/-- Quotient with at least 768 bits. -/
def Mag.div (a b : Mag) : Mag :=
  let sh := fxP + b.m.log2 + 1
  ⟨(a.m <<< sh) / b.m, a.e - b.e - (sh : Int)⟩
/-- Nearest fixed-point number below. -/
def Mag.toFx (a : Mag) : Nat :=
  let s := a.e + (fxP : Int)
  if 0 ≤ s then a.m <<< s.toNat else a.m >>> (-s).toNat

/-- e^y for a fixed-point y of either sign, |y| < 2^14: y = n·ln 2 + r with r ≥ 0. -/
def expMag (neg : Bool) (y : Nat) : Mag :=
  let y' : Int := if neg then -(y : Int) else (y : Int)
  let n := y' / (fxLn2 : Int)
  let r := (y' - n * (fxLn2 : Int)).toNat
  ⟨expSeries 1000 1 r fxOne fxOne, n - (fxP : Int)⟩

/-- 2·artanh of t/(2+t): ln(1 + t) for 0 < t ≤ 1, by its first terms where t is very small. -/
def ln1pMag (t : Mag) : Mag :=
  if Val.ilog t.m t.e < -250 then
    Mag.sub t (Mag.mul ⟨1, -1⟩ (Mag.mul t t))
  else
    let f := t.toFx
    Mag.ofFx (fxAtanh2 (fxDiv f (2 * fxOne + f)))

/-- ln of m·2^e: sign and magnitude; zero for 1. -/
def lnFx (m : Nat) (e : Int) : Bool × Nat :=
  let k := Val.ilog m e
  let y := (m <<< fxP) >>> m.log2
  let big := decide (3 * fxOne ≤ 2 * y)
  let k := if big then k + 1 else k
  let a := fxAtanh2 (if big then fxDiv (2 * fxOne - y) (2 * fxOne + y) else fxDiv (y - fxOne) (y + fxOne))
  let total : Int := k * (fxLn2 : Int) + (if big then -(a : Int) else (a : Int))
  (decide (total < 0), total.natAbs)

/-- Σ (2z²)^k/(2k+1)!!. -/
def erfSeries : Nat → Nat → Nat → Nat → Nat → Nat
  | 0, _, _, _, acc => acc
  | f + 1, k, zz2, t, acc =>
    let t' := fxMul t zz2 / k
    if t' = 0 then acc else erfSeries f (k + 2) zz2 (t' ) (acc + t')

/-- erf(z)/z from z² in fixed point (z < 20): (2/√π)·e^(−z²)·Σ (2z²)^k/(2k+1)!!. -/
def erfOver (zz : Nat) : Mag :=
  let s := erfSeries 6000 3 (2 * zz) fxOne fxOne
  let c := fxDiv (2 * fxOne) (fxSqrt fxPi)
  Mag.mul (Mag.mul (Mag.ofFx s) (expMag true zz)) (Mag.ofFx c)

/-- The built-in base functions of R90. -/
inductive Fn where
  | pass | exp | exp2 | log | log2 | rcp | sqrt | rsqrt | tanh | sigmoid | gelu | gelut | silu | softplus | erf
  deriving DecidableEq, Repr

/-- σ(|x|) or σ(−|x|). -/
def sigmoidMag (neg : Bool) (x : Mag) : Mag :=
  if 4096 ≤ x.toFx >>> fxP then (if neg then Mag.tiny else Mag.almostOne)
  else
    let t := expMag true x.toFx
    let d := Mag.add ⟨1, 0⟩ t
    (if neg then Mag.div t d else Mag.div ⟨1, 0⟩ d).inexact

/-- Φ(x). -/
def phiMag (neg : Bool) (x : Mag) : Mag :=
  if 27 ≤ x.toFx >>> fxP then (if neg then Mag.tiny else Mag.almostOne)
  else
    let zz := (fxMul x.toFx x.toFx) / 2
    let erfv := Mag.mul (Mag.mul x (erfOver zz)) (Mag.ofFx (fxDiv fxOne (fxSqrt (2 * fxOne))))
    let h := erfv.toFx
    (if neg then Mag.ofFx ((fxOne - h) / 2) else Mag.ofFx ((fxOne + h) / 2)).inexact

/-- f of a finite non-zero argument in the domain where R95 calls it ordinary: the sign and magnitude of the
result. -/
def Fn.eval (f : Fn) (neg : Bool) (m : Nat) (e : Int) : Bool × Mag :=
  let x : Mag := ⟨m, e⟩
  let ax := Val.ilog m e
  match f with
  | .pass => (neg, x)
  | .exp =>
    if 12 ≤ ax then (false, if neg then Mag.tiny else ⟨1, 3000⟩)
    else if ax < -700 then (false, if neg then Mag.almostOne else ⟨2 ^ 3000 + 1, -3000⟩)
    else (false, (expMag neg x.toFx).inexact)
  | .exp2 =>
    if 12 ≤ ax then (false, if neg then Mag.tiny else ⟨1, 3000⟩)
    else
      let fx := x.toFx
      let ip := fx >>> fxP
      if ip <<< fxP = fx then (false, ⟨1, if neg then -(ip : Int) else (ip : Int)⟩)
      else (false, (expMag neg (fxMul fx fxLn2)).inexact)
  | .log =>
    let r := lnFx m e
    if r.2 = 0 then (false, ⟨0, 0⟩) else (r.1, (Mag.ofFx r.2).inexact)
  | .log2 =>
    if m = 2 ^ m.log2 then (decide (ax < 0), ⟨ax.natAbs, 0⟩)
    else
      let r := lnFx m e
      (r.1, (Mag.div (Mag.ofFx r.2) (Mag.ofFx fxLn2)).inexact)
  | .rcp =>
    let q := Val.quo 1 m
    (neg, ⟨q.1, q.2 - e⟩)
  | .sqrt =>
    let r := Val.rootOf m e
    (false, ⟨r.1, r.2⟩)
  | .rsqrt =>
    let r := Val.rootOf m e
    if m = 2 ^ m.log2 && ax % 2 = 0 then (false, ⟨1, -(ax / 2)⟩)
    else
      let q := Val.quo 1 r.1
      (false, (⟨q.1, q.2 - r.2⟩ : Mag).inexact)
  | .tanh =>
    if 9 ≤ ax then (neg, Mag.almostOne)
    else
      let t := expMag true (2 * x.toFx)
      (neg, (Mag.div (Mag.sub ⟨1, 0⟩ t) (Mag.add ⟨1, 0⟩ t)).inexact)
  | .sigmoid => (false, sigmoidMag neg x)
  | .gelu => (neg, (Mag.mul x (phiMag neg x)).inexact)
  | .gelut =>
    if 9 ≤ ax then (neg, Mag.mul x (if neg then Mag.tiny else Mag.almostOne))
    else
      let xf := x.toFx
      let cube := (Mag.mul x (Mag.mul x x)).toFx * 44715 / 1000000
      let c := fxSqrt (fxDiv (8 * fxOne) fxPi)
      (neg, (Mag.mul x (sigmoidMag neg (Mag.ofFx (fxMul c (xf + cube))))).inexact)
  | .silu => (neg, (Mag.mul x (sigmoidMag neg x)).inexact)
  | .softplus =>
    if 11 ≤ ax then (false, if neg then Mag.tiny else Mag.add x Mag.tiny)
    else
      let l := ln1pMag (expMag true x.toFx)
      (false, (if neg then l else Mag.add x l).inexact)
  | .erf =>
    if 19 ≤ x.toFx >>> fxP then (neg, Mag.almostOne)
    else (neg, (Mag.mul x (erfOver (fxMul x.toFx x.toFx))).inexact)

end Sys2Proof
end

