-- ==== Sys2Proof/Machine/SfuNum.lean ====
section
/-!
DEFINITION. What an SFU delivers for one element (R88–R99, R105, R125): the special values of R95, the exact
function or the wide value, the rounding into the output, the counts, the flags, and whether a NaN was produced.
-/
namespace Sys2Proof

/-- The function a code names (R90). -/
inductive FnSel where
  | base (f : Fn)
  | gate (f : Fn)
  | ctab (b : Nat)
  | gctab (b : Nat)
  | rcpe (r : Nat)
  deriving DecidableEq, Repr

/-- The function codes of R90; none is a reserved code. -/
def FnSel.ofCode (c : Nat) : Option FnSel :=
  match c with
  | 0x00 => some (.base .pass)
  | 0x01 => some (.base .exp)
  | 0x02 => some (.base .exp2)
  | 0x03 => some (.base .log)
  | 0x04 => some (.base .log2)
  | 0x05 => some (.base .rcp)
  | 0x06 => some (.base .sqrt)
  | 0x07 => some (.base .rsqrt)
  | 0x08 => some (.base .tanh)
  | 0x09 => some (.base .sigmoid)
  | 0x0A => some (.base .gelu)
  | 0x0B => some (.base .gelut)
  | 0x0C => some (.base .silu)
  | 0x0D => some (.base .softplus)
  | 0x0E => some (.base .erf)
  | 0x40 => some (.gate .silu)
  | 0x41 => some (.gate .gelu)
  | 0x42 => some (.gate .gelut)
  | c =>
    if 0x48 ≤ c ∧ c < 0x50 then some (.ctab (c - 0x48))
    else if 0x50 ≤ c ∧ c < 0x58 then some (.gctab (c - 0x50))
    else if 0x80 ≤ c ∧ c < 0x100 then some (.rcpe (c - 0x80))
    else none

def FnSel.isGate : FnSel → Bool
  | .gate _ => true
  | .gctab _ => true
  | _ => false

/-- The codes Bexo mode keeps (R125). -/
def bexoAllows (c : Nat) : Bool :=
  decide (c ≤ 0x0A) || c == 0x0C || c == 0x0E || c == 0x40 || c == 0x41

/-- The code number of a base function (R90). -/
def Fn.code : Fn → Nat
  | .pass => 0 | .exp => 1 | .exp2 => 2 | .log => 3 | .log2 => 4 | .rcp => 5 | .sqrt => 6 | .rsqrt => 7
  | .tanh => 8 | .sigmoid => 9 | .gelu => 10 | .gelut => 11 | .silu => 12 | .softplus => 13 | .erf => 14

/-- A value on its way to the output: the value, whether it is final (never counted), the flags it brought, and
whether it is a NaN produced here. -/
structure FVal where
  v : Val
  final : Bool
  flags : Flags
  made : Bool
  deriving DecidableEq, Repr

def FVal.special (v : Val) : FVal := ⟨v, true, .none, false⟩

/-- The columns of R95 for ±0 and ±∞, and NaN for negative arguments of log, log2, sqrt and rsqrt. -/
def Fn.specialCase (f : Fn) (x : Val) : Option FVal :=
  match x with
  | .nan s => some ⟨.nan false, false, if s then Flags.invalid else .none, false⟩
  | .inf neg =>
    let bad : Option FVal := some ⟨.nan false, true, .invalid, true⟩
    match f with
    | .pass => some (.special (.inf neg))
    | .exp | .exp2 | .softplus => some (.special (if neg then Val.zero false else .inf false))
    | .log | .log2 | .sqrt => if neg then bad else some (.special (.inf false))
    | .rcp => some (.special (Val.zero neg))
    | .rsqrt => if neg then bad else some (.special (Val.zero false))
    | .tanh | .erf => some (.special (.fin neg 1 0))
    | .sigmoid => some (.special (if neg then Val.zero false else Val.one))
    | .gelu | .gelut | .silu => some (.special (if neg then Val.zero true else .inf false))
  | .fin neg m _ =>
    if m = 0 then
      match f with
      | .pass | .sqrt | .tanh | .erf | .gelu | .gelut | .silu => some (.special (Val.zero neg))
      | .exp | .exp2 => some (.special Val.one)
      | .log | .log2 => some ⟨.inf true, true, .divz, false⟩
      | .rcp | .rsqrt => some ⟨.inf neg, true, .divz, false⟩
      | .sigmoid => some (.special (.fin false 1 (-1)))
      | .softplus => some (.special (.fin false (fxLn2 + (1 - fxLn2 % 2)) (-(fxP : Int))))
    else if neg then
      match f with
      | .log | .log2 | .sqrt | .rsqrt => some ⟨.nan false, false, .invalid, true⟩
      | _ => none
    else none

/-- The exact f(x), or its stand-in with several hundred bits (R92). -/
def Fn.exact (f : Fn) (x : Val) : FVal :=
  match f.specialCase x with
  | some r => r
  | none =>
    match x with
    | .fin neg m e =>
      let r := f.eval neg m e
      ⟨if r.2.m = 0 then Val.zero false else .fin r.1 r.2.m r.2.e, false, .none, false⟩
    | _ => .special (.nan false)

/-- The bound of R94 in hundredths of an ulp, for an argument `x` and a result of magnitude `m·2^e`. -/
def Fn.bound100 (f : Fn) (x : Val) (m : Nat) (e : Int) : Nat :=
  let sub := decide (Val.ilog m e < -126)
  let atLeast := fun (num den : Nat) =>
    match x with
    | .fin _ xm xe => dyLe num 0 (xm * den) xe
    | _ => true
  let geNeg := fun (n : Nat) => Val.le (.fin true n 0) x
  match f with
  | .pass | .rcp | .sqrt => 50
  | .exp => if sub then 100 else 52
  | .exp2 => if sub then 100 else 51
  | .log | .log2 => if atLeast 3 4 && !atLeast 3 2 then 80 else 52
  | .rsqrt => 51
  | .tanh => if atLeast 11 20 then 60 else 80
  | .sigmoid | .softplus => if sub then 100 else 60
  | .gelu | .gelut => if geNeg 3 then 75 else 150
  | .silu => if geNeg 20 then 70 else 100
  | .erf => 55

/-- The binary32 rounding of a magnitude: multiple and unit. -/
def to32 (m : Nat) (e : Int) : Nat × Int :=
  let r := roundMin .rne 24 (-149) false m e
  (r.1, r.2.1)

/-- Does rounding `k·2^q` to every precision from 1 to 16 give what rounding `m·2^e` gives, and does it stand on the
same side of every power of two (after R92)? -/
def sameNarrow (k : Nat) (q : Int) (m : Nat) (e : Int) : Bool :=
  k != 0 &&
  (List.range 16).all (fun i =>
    let a := roundUnb .rne (i + 1) false k q
    let b := roundUnb .rne (i + 1) false m e
    dyLe a.1 a.2.1 b.1 b.2.1 && dyLe b.1 b.2.1 a.1 a.2.1) &&
  (Val.ilog k q == Val.ilog m e || (k == 2 ^ k.log2 && Val.ilog k q == Val.ilog m e + 1))

/-- Is the binary32 rounding of `k·2^q` within `b/100` ulp of `m·2^e`, zero exactly where R97 says so, and beyond the
largest finite value exactly where `m·2^e` is? -/
def within32 (b : Nat) (k : Nat) (q : Int) (m : Nat) (e : Int) : Bool :=
  let r := to32 k q
  let fr := to32 m e
  let zeroF := fr.1 = 0
  let overF := fr.1 != 0 && decide (127 < Val.ilog fr.1 fr.2)
  let overR := r.1 != 0 && decide (127 < Val.ilog r.1 r.2)
  let ulpE := max (Val.ilog r.1 r.2) (-126) - 23
  let d := (Val.sumAt false r.1 r.2 true m e)
  if zeroF then decide (r.1 = 0)
  else if overF then overR
  else decide (r.1 ≠ 0) && !overR && dyLe (d.1.natAbs * 100) d.2 b ulpE

/-- Whether `k·2^q` is so near to `m·2^e` that, whatever the gate value g, the product g · `k·2^q` rounded once to binary32 lies within
`b/100` ulp of g · `m·2^e`: half an ulp is the rounding's own, and an ulp is at least 2^-24 of the product (R94, R98). -/
def withinGate (b : Nat) (k : Nat) (q : Int) (m : Nat) (e : Int) : Bool :=
  let d := Val.sumAt false k q true m e
  dyLe (d.1.natAbs * 100) (d.2 + 24) ((b - 50) * m) e

/-- The functions that have a gate form (R90). -/
def Fn.hasGate : Fn → Bool
  | .silu | .gelu | .gelut => true
  | _ => false

/-- The wide value of a built-in function from its exact value: some value within the bounds of R94, those of its gate form among
them, that keeps the property after R92, the part's own choice (`Config.wideDelta`); exact results stay exact. -/
def pickWide (bexo : Bool) (f : Fn) (xbits : Nat) (x : Val) (v : Val) : Val :=
  match v with
  | .fin n m e =>
    if m = 0 then v
    else
      let r := roundUnb .odd 32 n m e
      if !r.2.2 then v
      else if !bexo && (f = .pass || f = .rcp || f = .sqrt) then v
      else
        let delta := if bexo then Config.bexoDelta f.code xbits else Config.wideDelta f.code xbits
        let k' := ((r.1 : Int) + delta).toNat
        let nearOne := decide (Val.ilog m e = -1) && dyLe (2 ^ 25 - 1) (-25) m e
        let ok :=
          if bexo then decide (k' ≠ 0) && within32 400 k' r.2.1 m e
          else sameNarrow k' r.2.1 m e && within32 (f.bound100 x m e) k' r.2.1 m e && !nearOne &&
            (!f.hasGate || withinGate (f.bound100 x m e) k' r.2.1 m e)
        if ok then .fin n k' r.2.1 else .fin n r.1 r.2.1
  | v => v

/-- What one element delivers. -/
structure SfuElem where
  code : Nat
  sat : Bool
  flush : Bool
  flags : Flags
  made : Bool
  deriving DecidableEq, Repr

/-- The output stage (R91–R96): round a value into the output. `nonzero` says that the value f(x), or the gate value,
counts as flushed where zero is delivered; `lossy` that the value already differs from it, or is an infinite W(x), which is an
overflow; such a value makes the result inexact, and a tiny one underflows, though it needs no rounding itself. -/
def sfuOut (relaxed : Bool) (ofmt : Fmt) (scale : Nat) (rm : RMode) (nonzero lossy : Bool) (a : FVal) : SfuElem :=
  if ofmt.isLong then
    let r := ofmt.round rm a.v
    let sub := relaxed && ofmt.isSub r.val
    let code := if sub then ofmt.signCode r.val.sign 0 else r.code
    let zeroed := nonzero && (sub || r.val.isZero) && !a.final
    let lost := zeroed && (lossy || !a.v.isZero)
    let nx := r.flags.nx || (lossy && a.v.isFin)
    let tiny := lossy && a.v.isFin && ofmt.isSub r.val
    let inexactFinal : Flags := ⟨false, false, r.flags.ovf, (r.flags.unf || sub || lost || tiny), nx || sub || lost⟩
    let overd : Flags := if a.v.isInf && !a.final && lossy then ⟨false, false, true, false, true⟩ else .none
    ⟨code, false, (zeroed || sub) && !a.v.isNaN, (a.flags.or inexactFinal).or overd, a.made⟩
  else
    let r := if a.v.isInf && !a.final && lossy then (ofmt.signCode a.v.sign ofmt.maxCode, true, false) else toShort ofmt scale a.v
    let zeroed := nonzero && (r.2.2 || a.v.isZero)
    ⟨r.1, r.2.1 && !a.final, zeroed && !a.final && !a.v.isNaN, .none, a.made⟩

/-- The environment of a saggar's SFU work: its modes, and the tables and recipes in force. -/
structure SfuEnv where
  relaxed : Bool
  bexo : Bool
  boundsOnly : Bool
  table : Nat → Option CurveTable
  recipe : Nat → Option Recipe

/-- W(x) clamped to the wide range (R91). -/
def wclamp (v : Val) : Val :=
  match v with
  | .fin n m e =>
    if m = 0 then v
    else if 512 ≤ Val.ilog m e then .inf n
    else if Val.ilog m e < -512 then Val.zero n
    else v
  | v => v

/-- Evaluate one element (R92–R99, R125). A gate value with a finite non-zero g that is delivered as zero counts as flushed, but
not in a column of R95 (R99). F16 is the zero of R97 below the function's threshold, where the argument lies far below −2; what a
patch of a recipe delivers is counted nowhere and raises the flag of the patch alone (R115). Two points are DESIGN CHOICES (log entry
42): under a directed rm a finite result of rcp too large for a long output is the largest finite value in the directions away from
the infinity (R93 against R95), and the product of g and an infinity of R95's columns counts as saturated in a short format that has
none. `x` and `g` are exact values of the input format, `xbits` the binary32 code of the argument. -/
def sfuElem (env : SfuEnv) (sel : FnSel) (ofmt : Fmt) (scale rmField xbits : Nat) (ifmt : Fmt) (x0 g0 : Val) :
    SfuElem :=
  let x := relaxIn env.relaxed ifmt x0
  let g := relaxIn env.relaxed ifmt g0
  let sigF : Flags := if x0.isSig || (sel.isGate && g0.isSig) then .invalid else .none
  let nanIn := x.isNaN || (sel.isGate && g.isNaN)
  if nanIn then sfuOut env.relaxed ofmt scale .rne false false ⟨.nan false, false, sigF, false⟩
  else
    let wide := ofmt = .b32
    let gateMul := fun (f : FVal) (fv : Val) (lossy : Bool) =>
      let p := Val.mulX g fv
      let nz := g.isFin && !g.isZero && !f.final
      let made := p.2
      sfuOut env.relaxed ofmt scale .rne nz (lossy && nz)
        ⟨p.1, false, (f.flags.or (if made then .invalid else .none)), made || f.made⟩
    match sel with
    | .base f =>
      let a := f.exact x
      let rm := if !env.bexo && (f = .rcp || f = .sqrt) then RMode.ofField rmField else .rne
      if env.bexo then
        let w := if a.final then a.v else pickWide true f xbits x a.v
        sfuOut env.relaxed ofmt scale rm (!a.v.isZero) (!sameVal w a.v) { a with v := w }
      else if wide && !a.final then
        let w := pickWide false f xbits x a.v
        sfuOut env.relaxed ofmt scale rm (!a.v.isZero) (!sameVal w a.v) { a with v := w }
      else sfuOut env.relaxed ofmt scale rm (!a.v.isZero) false a
    | .gate f =>
      let a := f.exact x
      if env.bexo then
        let w := if a.final then a.v else fl32 (pickWide true f xbits x a.v)
        gateMul a w (!sameVal w a.v)
      else if wide then
        let w := if a.final then a.v else wclamp (pickWide false f xbits x a.v)
        gateMul a w (!sameVal w a.v)
      else
        let f16 : Val :=
          match a.v with
          | .fin n m e =>
            if m = 0 || a.final then a.v
            else if Val.lt x (.fin true 2 0) && dyLe m e 1 (-150) then Val.zero n
            else let u := roundUnb .rne 16 n m e; .fin n u.1 u.2.1
          | v => v
        gateMul a f16 (!sameVal f16 a.v)
    | .ctab b =>
      match env.table b with
      | none => sfuOut env.relaxed ofmt scale .rne false false ⟨.nan false, false, .none, false⟩
      | some t =>
        let w := t.eval x
        sfuOut env.relaxed ofmt scale .rne (!w.isZero) w.isInf ⟨w, false, .none, false⟩
    | .gctab b =>
      match env.table b with
      | none => sfuOut env.relaxed ofmt scale .rne false false ⟨.nan false, false, .none, false⟩
      | some t =>
        let w := t.eval x
        let f16 : Val :=
          match w with
          | .fin n m e => if m = 0 then w else let u := roundUnb .rne 16 n m e; .fin n u.1 u.2.1
          | v => v
        let fv := if wide then w else f16
        gateMul ⟨w, false, .none, false⟩ fv (!sameVal fv w || w.isInf)
    | .rcpe r =>
      match env.recipe r with
      | none => sfuOut env.relaxed ofmt scale .rne false false ⟨.nan false, false, .none, false⟩
      | some rc =>
        let tab := fun (i : Nat) => ((if i = 0 then rc.ref0 else rc.ref1).bind env.table)
        let w := rc.eval tab r xbits x
        let o := sfuOut env.relaxed ofmt scale .rne (!w.v.isZero) w.v.isInf ⟨w.v, w.final, w.flags, w.made⟩
        if w.final then { o with sat := false, flush := false, flags := if ofmt.isLong then w.flags else .none } else o

end Sys2Proof
end

