-- ==== Sys2Proof/Machine/TensorNum.lean ====
section
/-!
DEFINITION. The arithmetic of the tensor array (R66–R74, R126) and of the fused epilogue (R72, R78): A20 rounding,
strict sequential segment sums, promotion into the pair, INT8 sums, read-out, and the epilogue's steps for one element.
-/
namespace Sys2Proof

/-- The largest finite A20 magnitude, (2^12 − 1)·2^116 (R66). -/
def a20Max (neg : Bool) : Val := .fin neg 4095 116

/-- Rounding into A20 (R67): the value, saturated, flushed. -/
def a20Round (v : Val) : Val × Bool × Bool :=
  match v with
  | .nan _ => (.nan false, false, false)
  | .inf n => (a20Max n, true, false)
  | .fin n m e =>
    if m = 0 then (Val.zero n, false, false)
    else
      let r := roundUnb .rne 12 n m e
      let x := Val.ilog r.1 r.2.1
      if 127 < x then (a20Max n, true, false)
      else if x < -126 then (Val.zero n, false, true)
      else (.fin n r.1 r.2.1, false, false)

/-- One product (R68). -/
def a20Product (a b : Val) : Val × Bool × Bool := a20Round (Val.mulX a b).1

/-- A20 sum (R69). -/
def a20Add (s p : Val) : Val × Bool × Bool := a20Round (Val.addX .rne s p).1

/-- The running state of one output element. -/
structure ElemAcc where
  s : Val
  e : Val
  sat : Bool
  flush : Bool
  nan : Bool
  wrap : Bool
  firstNaN : Option Nat
  deriving DecidableEq, Repr

/-- `fl()` with its overflow (R70). -/
def flOv (v : Val) : Val × Bool :=
  let r := Fmt.b32.round .rne v
  (r.val, r.flags.ovf)

/-- The largest finite binary32 magnitude. -/
def max32 (neg : Bool) : Val := Fmt.b32.decode (Fmt.b32.signCode neg 0x7F7FFFFF)

/-- Two-sum of a pair and a term: the new s, the exact error of the sum, and overflow (R70). -/
def twoSum (s p : Val) : Val × Val × Bool :=
  let t := flOv (Val.addX .rne s p).1
  if t.2 then (max32 (Val.addX .rne s p).1.sign, Val.zero false, true)
  else
    let z := fsub t.1 s
    (t.1, fadd (fsub s (fsub t.1 z)) (fsub p z), false)

/-- Promotion of a segment sum into the pair (R70), or into s alone in Bexo mode (R126). -/
def promote (bexo : Bool) (a : ElemAcc) (p : Val) : ElemAcc :=
  if a.s.isNaN || p.isNaN then { a with s := .nan false, e := Val.zero false, nan := true }
  else
    let t := twoSum a.s p
    if t.2.2 then { a with s := t.1, e := Val.zero false, sat := true }
    else if bexo then { a with s := t.1 }
    else
      let e' := flOv (Val.addX .rne a.e t.2.1).1
      if e'.2 then { a with s := t.1, e := max32 (Val.addX .rne a.e t.2.1).1.sign, sat := true }
      else { a with s := t.1, e := e'.1 }

/-- Sum products in order, promoting at every segment end (R69); `i` counts products, `left` those of the segment. -/
def sumSegments (bexo : Bool) (seg : Nat) : List (Val × Val) → Nat → Nat → Val → ElemAcc → ElemAcc
  | [], _, left, p, a => if left = seg then a else promote bexo a p
  | (x, y) :: rest, i, left, p, a =>
    let q := a20Product x y
    let t := a20Add p q.1
    let a := { a with
      sat := a.sat || q.2.1 || t.2.1
      flush := a.flush || q.2.2 || t.2.2
      firstNaN := if q.1.isNaN && a.firstNaN.isNone then some i else a.firstNaN }
    if left = 1 then sumSegments bexo seg rest (i + 1) seg (Val.zero false) (promote bexo a t.1)
    else sumSegments bexo seg rest (i + 1) (left - 1) t.1 a

/-- INT8 sum (R74): saturating or wrapping. -/
def sumInt8 (wrap : Bool) : List (Int × Int) → Int → Bool → Bool → Int × Bool × Bool
  | [], s, sat, wr => (s, sat, wr)
  | (x, y) :: rest, s, sat, wr =>
    let t := s + x * y
    if t > 2147483647 then
      if wrap then sumInt8 wrap rest (t - 4294967296) sat true else sumInt8 wrap rest 2147483647 true wr
    else if t < -2147483648 then
      if wrap then sumInt8 wrap rest (t + 4294967296) sat true else sumInt8 wrap rest (-2147483648) true wr
    else sumInt8 wrap rest t sat wr

/-- Segment length in products (R69): by signature size (16 or 32) for short formats, by width else. -/
def segLen (f : Fmt) (sig16 bexo : Bool) : Nat :=
  let base := if f.isShort then (if sig16 then 64 else 128) else 32
  if bexo then 2 * base else base

/-- Products per output per cycle (R85). -/
def prodPerCycle (f : Fmt) (bexo : Bool) : Nat :=
  let base := if f.width = 16 then 16 else if f.width = 4 then 64 else 32
  if bexo then base / 2 else base

/-- Tile kinds (R75). -/
inductive TileKind where
  | pair | int32 | bexo
  deriving DecidableEq, Repr

def TileKind.code : TileKind → Nat
  | .pair => 0
  | .int32 => 1
  | .bexo => 2

def TileKind.ofCode : Nat → TileKind
  | 1 => .int32
  | 2 => .bexo
  | _ => .pair

/-- Rounded read-out of an element (R72, R74, R126): binary32 code, saturated. The elements of an INT32 tile that a failed tmma has
left hold 0x7FC00000 (R82) and read as that integer: a pair of an INT32 tile has no NaN of its own (DEDUCED, log entry 38). -/
def readOut (k : TileKind) (s e : Nat) : Nat × Bool :=
  match k with
  | .int32 => (code32 (Val.ofInt (sext 32 s)), false)
  | .bexo => (if (b32Val s).isNaN then 0x7FC00000 else s, false)
  | .pair =>
    let sv := b32Val s
    if sv.isNaN then (0x7FC00000, false)
    else
      let x := (Val.addX .rne sv (b32Val e)).1
      let r := flOv x
      if r.2 then (Fmt.b32.signCode x.sign 0x7F7FFFFF, true) else (code32 x, false)

/-- A binary32 result with the replacement of RELAXED mode (R44): value, replaced. -/
def flRelax (relaxed : Bool) (v : Val) : Val × Bool :=
  let r := fl32 v
  if relaxed && Fmt.b32.isSub r then (Val.zero r.sign, true) else (r, false)

/-- Steps 1 and 2 of the epilogue (R78): value, replaced in RELAXED mode. -/
def scaleBias (relaxed : Bool) (cs bias : Option Nat) (v : Val) : Val × Bool :=
  let v := relaxIn relaxed .b32 v
  match cs, bias with
  | none, none => (v, false)
  | some c, none => flRelax relaxed (Val.mulX v (relaxIn relaxed .b32 (b32Val c))).1
  | none, some b => flRelax relaxed (Val.addX .rne v (relaxIn relaxed .b32 (b32Val b))).1
  | some c, some b =>
    flRelax relaxed (Val.addX .rne (Val.mulX v (relaxIn relaxed .b32 (b32Val c))).1 (relaxIn relaxed .b32 (b32Val b))).1

end Sys2Proof
end

