-- ==== Sys2Proof/Machine/StCompute.lean ====
section
/-!
DEFINITION. State of the compute side (01–08): clusters with their tile slots, tensor queues, SFUs and row engines;
bundles; saggars with launches, barriers, records and poison tables; numeric modes and hints; the table store;
translation.
-/
namespace Sys2Proof.Machine

/-- A tile slot (R70, R75): 1,024 pairs (s, e) as binary32 or INT32 words, element 32r + c at index 32r + c. -/
structure Slot where
  live : Bool
  kind : TileKind
  flags : BitVec 4
  pairs : List (Word × Word)
  bad : Bool
  deriving DecidableEq, Repr

def Slot.free : Slot := ⟨false, .pair, 0, [], false⟩

/-- The numeric modes an operation issues under (R39, R120). -/
structure IssueMode where
  relaxed : Bool
  bexo : Bool
  boundsOnly : Bool
  deriving DecidableEq, Repr

/-- Where a bundle that issued an operation sits, and what a trap record names of it (R84). -/
structure Issuer where
  sag : Nat
  cl : Nat
  vu : Nat
  launch : Nat
  bix : Nat
  lane : Nat
  pc : DWord
  deriving DecidableEq, Repr

/-- The tables and recipes a cluster's SFUs hold (R22, R123): bindings 0–7, recipe permission mask. -/
structure Bank where
  binds : List (Option Nat)
  rperm : BitVec 128
  deriving DecidableEq, Repr

def Bank.none : Bank := ⟨List.replicate 8 Option.none, 0⟩

/-- The contents of a loaded slot of the table store (R107). -/
inductive SlotBody where
  | table (t : CurveTable)
  | recipe (r : Recipe)
  deriving DecidableEq, Repr

/-- A slot of the table store (R107). -/
structure TSlot where
  state : Fin 3
  cert : Bool
  bound : BitVec 16
  ident : Word
  name : List Byte
  body : Option SlotBody
  failed : Bool
  deriving DecidableEq, Repr

def TSlot.empty : TSlot := ⟨0, false, 0xFFFF, 0, [], none, false⟩

/-- The tables and recipes that an instruction keeps from its grant to its end (R103): the bank, and the contents of the slots
that its function reads, by their number in the table store. -/
structure Tables where
  bank : Bank
  held : Tab TSlot
  deriving DecidableEq, Repr

def Tables.none : Tables := ⟨.none, []⟩

/-- An entry of a cluster's tensor queue (R64): the checked command, followed by a tread's epilogue descriptor, the tables
its first granted batch uses (R103), and the status of a tread whose descriptor could not be read. -/
structure TqEntry where
  id : Nat
  who : Issuer
  cmd : List Byte
  mode : IssueMode
  tables : Option Tables
  fail : Option Nat
  deriving DecidableEq, Repr

/-- An SFU request (R100): an sfx with its captured operands, or batches of an epilogue or of a row operation. -/
inductive SfuJob where
  | sfx (w : DWord) (act : BitVec 16) (x : List Nat) (g : List Nat)
  | batch (tq : Bool) (id : Nat) (left : Nat)
  deriving DecidableEq, Repr

/-- A request with its issuer, its modes, the tables it was checked under and its time of issue. -/
structure SfuReq where
  job : SfuJob
  who : Issuer
  mode : IssueMode
  tables : Tables
  at_ : Nat
  deriving DecidableEq, Repr

/-- One SFU: the granted request with the tables of its grant, and the vector unit of its previous grant. -/
structure Sfu where
  job : Option (Nat × SfuReq × Tables)
  last : Nat
  deriving DecidableEq, Repr

/-- A row operation issued and not yet complete (R133). -/
structure RowOp where
  id : Nat
  who : Issuer
  cmd : List Byte
  mode : IssueMode
  started : Bool
  deriving DecidableEq, Repr

/-- A saggar switch in progress (R168): the incoming saggar, if any. -/
structure Switch where
  into : Option Nat
  deriving DecidableEq, Repr

/-- A cluster (R20, R36, R86, R100, R106, R123, R156, R168); `nearKept` says that its near store stays readable though it is offline
(R461). -/
structure Cluster where
  online : Bool
  nearKept : Bool
  owner : Option Nat
  prev : Nat
  since : Nat
  switching : Option Switch
  bank : Bank
  bankPend : Bool
  tq : List TqEntry
  slots : Tab Slot
  sfu0 : Sfu
  sfu1 : Sfu
  engine : Option Nat
  engLead : Bool
  grants : Word
  ovr : Word
  maxwait : BitVec 4
  copyErr : List Nat
  deriving DecidableEq, Repr

/-- A cluster after reset: offline until a start-up's self-test has passed it (R32, log entry 2). -/
def Cluster.reset : Cluster :=
  { online := false, nearKept := false, owner := none, prev := 127, since := 0, switching := none, bank := .none, bankPend := false
    tq := [], slots := [], sfu0 := ⟨none, 3⟩, sfu1 := ⟨none, 3⟩, engine := none, engLead := false
    grants := 0, ovr := 0, maxwait := 0, copyErr := [] }

/-- What a bundle waits for, with the active lanes of the instruction where a fault may name them (R171); a wait on a word with the place of
its word and the address that it names. -/
inductive Waiting where
  | no
  | cbar
  | sbar (b : Nat) (act : BitVec 16)
  | word (near : Bool) (pa va : Nat) (cond : WaitCond) (v : Word) (deadline : Nat) (dst : Nat) (act : BitVec 16)
  | ring (desc : List Byte) (act : BitVec 16)
  | access
  deriving DecidableEq, Repr

/-- How far trap-on-first-NaN has a bundle (R172). -/
inductive TrapState where
  | no | pending | halted | killAtBoundary
  deriving DecidableEq, Repr

/-- A bundle (R157–R159): registers, masks, program counter, lanes, per-lane flags, and what holds it; `term` marks one
ended by an acknowledgement (R171, R172), `storePoison` one with failed stores to report and `owes` the poison entries that wait for
that report (R191), `seed` numbers the open values its registers hold at dispatch (log entry 20). -/
structure Bundle where
  sag : Nat
  launch : Nat
  bix : Nat
  pc : DWord
  live : BitVec 16
  vr : Tab Word
  mr : Tab DWord
  fflags : Tab (BitVec 5)
  waiting : Waiting
  faulted : Bool
  trap : TrapState
  storePoison : Bool
  owes : List Nat
  memOut : Nat
  asyncOut : Nat
  term : Bool
  seed : Nat
  deriving DecidableEq, Repr

/-- A vector unit: its resident bundle, its SFU requests in issue order, its lost-grant count (R100). -/
structure Vu where
  bundle : Option Bundle
  sfuQ : List SfuReq
  lost : Nat
  deriving DecidableEq, Repr

def Vu.reset : Vu := ⟨none, [], 0⟩

/-- A bundle saved by a switch (R168), with its requests not yet granted (R104). -/
structure Saved where
  cl : Nat
  vu : Nat
  bundle : Bundle
  sfuQ : List SfuReq
  lost : Nat
  deriving DecidableEq, Repr

/-- Slots saved by a switch (R76): cluster and slots of one saggar. -/
structure SavedSlots where
  cl : Nat
  slots : Tab Slot
  deriving DecidableEq, Repr

/-- The states of a saggar (R165). -/
inductive SagState where
  | off | running | draining | killing
  deriving DecidableEq, Repr

/-- A launch in progress (R160–R164): `after` is the previous launch of its ring, which it waits for where `wait` is set. -/
structure Launch where
  id : Nat
  ring : Nat
  wait : Bool
  after : Option Nat
  pack : Bool
  nthr : Nat
  entry : DWord
  arg : DWord
  record : DWord
  tag : Word
  next : Nat
  running : Nat
  done : Nat
  fflags : BitVec 5
  faulted : Bool
  nanHalted : Bool
  killed : Bool
  deriving DecidableEq, Repr

/-- A launch ring (R162, R197), with the launch that was taken from it last (R160). -/
structure Ring where
  base : DWord
  size : BitVec 4
  prod : BitVec 16
  cons : BitVec 16
  halt : Bool
  last : Option Nat
  deriving DecidableEq, Repr

def Ring.reset : Ring := ⟨0, 4, 0, 0, false, none⟩

/-- A hub barrier (R175): count of the round, bundles arrived, time of the first arrival. -/
structure Barrier where
  n : Nat
  arrived : Nat
  since : Nat
  deriving DecidableEq, Repr

/-- A poison entry (R192). -/
structure Poison where
  kind : Nat
  vc : Nat
  chip : Nat
  unit : Nat
  count : BitVec 16
  deriving DecidableEq, Repr

/-- One saggar's launch side: rings, THR registers (R197), launches and barriers. -/
structure Thr where
  r0 : Ring
  r1 : Ring
  barto : BitVec 24
  norec : Bool
  overd : Bool
  lastRing : Nat
  launches : List Launch
  bars : Tab Barrier
  deriving DecidableEq, Repr

def Thr.reset : Thr := ⟨.reset, .reset, 10000, false, false, 1, [], []⟩

/-- One saggar's SAG registers and records (R198). `owed` are channels poisoned by stores alone whose entries wait for the report of
those stores (R191 step 4). -/
structure Sag where
  st : SagState
  en : Bool
  ntrap : BitVec 2
  tq : BitVec 8
  cmax : BitVec 9
  slice : BitVec 16
  cmask : BitVec 256
  csat : BitVec 48
  cflush : BitVec 48
  flags : BitVec 5
  tfull : Bool
  tdie : Bool
  twho : Option Issuer
  trec : List Word
  ffull : Bool
  fmore : BitVec 16
  frec : List Word
  poison : List Poison
  owed : List Poison
  saved : List Saved
  savedSlots : List SavedSlots
  degen : Word
  nanx : Word
  deriving DecidableEq, Repr

def Sag.reset : Sag :=
  { st := .off, en := false, ntrap := 0, tq := 0, cmax := 0, slice := 0x3E8, cmask := 0, csat := 0, cflush := 0
    flags := 0, tfull := false, tdie := false, twho := none, trec := List.replicate 8 0
    ffull := false, fmore := 0, frec := List.replicate 8 0, poison := [], owed := [], saved := [], savedSlots := []
    degen := 0, nanx := 0 }

/-- One saggar's numeric page (R61). -/
structure Num where
  relaxed : Bool
  hint : Tab (BitVec 31)
  deriving DecidableEq, Repr

def Num.reset : Num := ⟨false, []⟩

/-- One saggar's CRV page (R128): staged set, set in force, modes, generation. -/
structure CrvPage where
  binds : Tab Word
  rperm : BitVec 128
  inForce : Bank
  bexo : Bool
  boundsOnly : Bool
  pend : Bool
  refused : Bool
  gen : Word
  deriving DecidableEq, Repr

def CrvPage.reset : CrvPage := ⟨[], 0, .none, false, false, false, false, 0⟩

/-- A load of the table store in progress (R121): target, source, whether the slot was LOADED, image bytes asked of the
host, the boot entry it belongs to (R455), and for one of the console what CRV.LSRC held before it (R302). -/
structure CrvLoad where
  recipe : Bool
  flash : Bool
  slot : Nat
  src : DWord
  wasLoaded : Bool
  asked : Nat
  boot : Option Nat
  undo : Option DWord
  deriving DecidableEq, Repr

/-- The table store and the global CRV registers (R128). -/
structure Crv where
  tables : Tab TSlot
  recipes : Tab TSlot
  lsrc : DWord
  busy : Option CrvLoad
  lost : Bool
  code : Byte
  pages : Tab CrvPage
  deriving DecidableEq, Repr

/-- The staged or applied set of R217. -/
structure MemSet where
  root : DWord
  gvc : BitVec 3
  base : DWord
  lim : DWord
  save : DWord
  lo : BitVec 8
  hi : BitVec 8
  deriving DecidableEq, Repr

def MemSet.reset : MemSet := ⟨0, 0, 0, 0, 0, 0, 0⟩

/-- A translation a TLB may hold (R210): virtual page number at its level, and the leaf. -/
structure TlbEntry where
  level : Nat
  page : Nat
  leaf : DWord
  deriving DecidableEq, Repr

/-- A page move in progress (R214): its page, leaves and place in the table; where host memory or another chip takes part, the bytes
asked for, the requests in flight, and the status that a failed one gives. -/
structure Move where
  id : Nat
  va : Nat
  level : Nat
  old : DWord
  new : DWord
  slotAddr : Nat
  asked : Nat
  out : Nat
  bad : Option Nat
  deriving DecidableEq, Repr

/-- An invalidation in progress (R210). -/
structure Inval where
  size : Nat
  va : Nat
  deriving DecidableEq, Repr

/-- One saggar's MEM page (R219): staged set, set being applied, set in force. -/
structure MemPage where
  staged : MemSet
  next : MemSet
  cur : MemSet
  pend : Bool
  refused : Bool
  genv : Word
  inva : DWord
  inv : Option Inval
  invLost : Bool
  mvsrc : DWord
  mvpte : DWord
  mv : Option Move
  mvWait : Bool
  mvFrom : DWord
  mvTo : DWord
  mvLost : Bool
  mvcode : Byte
  lfValid : Bool
  lfCause : Byte
  lfAddr : DWord
  tlb : List TlbEntry
  deriving DecidableEq, Repr

def MemPage.reset : MemPage :=
  { staged := .reset, next := .reset, cur := .reset, pend := false, refused := false, genv := 0, inva := 0, inv := none
    invLost := false, mvsrc := 0, mvpte := 0, mv := none, mvWait := false, mvFrom := 0, mvTo := 0, mvLost := false, mvcode := 0, lfValid := false
    lfCause := 0, lfAddr := 0, tlb := [] }

/-- A thread's access held by a sleeping domain (R28) or a page move (R214): the instruction as issued, and the
domain or the saggar whose move holds it. -/
structure Held where
  load : Option (MemArgs × Ecc)
  store : Option MemArgs
  amo : Option (AmoOp × AmoArgs)
  at_ : At
  deriving DecidableEq, Repr

/-- The order that a completion record keeps: that of a cluster's tensor queue (R80), of a bundle's row operations (R133), of the
rounds of a quire (R379). -/
inductive RecQueue where
  | tensor (cl : Nat)
  | rows (sag launch bix : Nat)
  | quire (i : Nat)
  deriving DecidableEq, Repr

/-- A report that comes before what the log says of its fault (R466 step 1): the record of a descriptor of a DMA queue, by its ring index,
or those that an order of records has waiting. -/
inductive Report where
  | desc (q : Nat) (index : BitVec 16)
  | record (q : RecQueue)
  deriving DecidableEq, Repr

/-- A completion record: saggar, address, bytes, its order, the issuer whose operation is complete once it is written (R164), and the
clusters whose switch waits for it (R76, R154); `owes` are the poison entries that appear only after it (R191 step 4). -/
structure Rec where
  sag : Nat
  addr : Nat
  bytes : List Byte
  queue : Option RecQueue
  done : Option Issuer
  clusters : List Nat
  owes : List Nat
  deriving DecidableEq, Repr

/-- The compute side. `crvGenAt` and `memGenAt` are when a commit of bindings, and one of a saggar's memory set, last changed a
generation (R483). -/
structure Compute where
  clusters : Tab Cluster
  vus : Tab Vu
  sags : Tab Sag
  thr : Tab Thr
  num : Tab Num
  crv : Crv
  mem : Tab MemPage
  nsec : Tab Byte
  cecc : Word
  rowOps : List RowOp
  held : List Held
  recs : List Rec
  nextId : Nat
  crvGenAt : Option Nat
  memGenAt : Option Nat
  deriving DecidableEq, Repr

def Compute.reset : Compute :=
  { clusters := [], vus := [], sags := [], thr := [], num := []
    crv := ⟨[], [], 0, none, false, 0, []⟩, mem := [], nsec := [], cecc := 0, rowOps := [], held := [], recs := [], nextId := 0
    crvGenAt := none, memGenAt := none }

end Sys2Proof.Machine
end

