-- ==== Sys2Proof/Machine/StHost.lean ====
section
/-!
DEFINITION. State of the host side (09) and of the console (10, 11): PCI Express link and functions, MSI-X, address
translation cache, DMA queues, reads in flight; UART and ring ports, the two sessions, claims, the running command,
the drain.
-/
namespace Sys2Proof.Machine

/-- A descriptor accepted by a queue (R229, R233): its ring index, its 64 bytes, whether it has started, its bytes
moved, host reads in flight, the domains its ends lie in (R243), the host pages it has written whose translation is asked for, each with
the address written (R226), whether a link loss has taken its record (R240), whether a transport error names it (R238), and its end:
status and cause. -/
structure Desc where
  index : BitVec 16
  bytes : List Byte
  started : Bool
  pos : Nat
  waiting : Nat
  doms : List Nat
  asked : List (Nat × Nat)
  norec : Bool
  erred : Bool
  ended : Option (Byte × Byte)
  deriving DecidableEq, Repr

/-- How a read of descriptors has failed (R239): a host-side error of a kind, or a fault with a cause of R211. -/
inductive FetchBad where
  | host (kind : Nat)
  | fault (cause : Nat)
  deriving DecidableEq, Repr

/-- A descriptor read in flight (R231): first index, number, whether the ring lies in host memory, and how it has failed, where the
reads before it are still to come. -/
structure FetchRead where
  first : BitVec 16
  n : Nat
  host : Bool
  bad : Option FetchBad
  deriving DecidableEq, Repr

/-- A DMA queue (R245), with whether its channel has failed and its next fetches fail (R238, R239), and the error that its
log entry will name (R242). -/
structure DmaQ where
  base : DWord
  size : BitVec 4
  prod : BitVec 16
  cons : BitVec 16
  fetch : BitVec 16
  burst : BitVec 3
  relaxed : Bool
  en : Bool
  halted : Bool
  overd : Bool
  ferr : Byte
  done : Word
  refs : Word
  descs : List Desc
  reads : List FetchRead
  episode : Bool
  fail : Bool
  fetchFail : Bool
  herr : Option (Nat × Nat)
  deriving DecidableEq, Repr

def DmaQ.reset : DmaQ :=
  { base := 0, size := 4, prod := 0, cons := 0, fetch := 0, burst := 0, relaxed := false, en := false
    halted := false, overd := false, ferr := 0, done := 0, refs := 0, descs := [], reads := [], episode := false
    fail := false, fetchFail := false, herr := none }

/-- What a host read in flight is for. -/
inductive HostUse where
  | dma (q : Nat) (index : BitVec 16) (dst : Nat) (len : Nat)
  | crv (off len : Nat)
  | load (at_ : At) (a : MemArgs) (lane off : Nat)
  | launch (s ring : Nat)
  | fetch (q : Nat) (first : BitVec 16)
  | remote (vc : Nat) (pkt : List Byte)
  | move (s id off : Nat)
  deriving DecidableEq, Repr

/-- A host read in flight (R236–R238), and whether it carries a held translation (R226). -/
structure HostRead where
  tag : Nat
  fn : Nat
  addr : Nat
  len : Nat
  use : HostUse
  since : Nat
  trans : Bool
  deriving DecidableEq, Repr

/-- A PCI Express function's own state: Memory Space Enable, completion timeout (ns), FLR in progress. -/
structure PciFn where
  mse : Bool
  timeout : Nat
  flr : Bool
  deriving DecidableEq, Repr

/-- Memory Space Enable set, as the host's configuration writes, no commands of the table, leave it (log entry 4); 50 ms
(R238). -/
def PciFn.reset : PciFn := ⟨true, 50000000, false⟩

/-- An MSI-X vector: masked and pending (R228), and the message address and data of its table entry. -/
structure Vec where
  masked : Bool
  pending : Bool
  addr : DWord
  data : Word
  deriving DecidableEq, Repr

/-- A held translation (R226): function, host page as sent, page answered, permissions. -/
structure AtcEntry where
  fn : Nat
  page : Nat
  host : DWord
  r : Bool
  w : Bool
  deriving DecidableEq, Repr

/-- Where an offset leads: an offset in a block, named by its base in BAR0 (R499); a function's MSI-X table or pending-bit
array (R228); nothing (R503). -/
inductive RegRef where
  | blk (base off : Nat)
  | msix (fn off : Nat)
  | pba (fn off : Nat)
  | none
  deriving DecidableEq, Repr

/-- Where a register is held: in the view of a saggar (with fields that a view shows as RO, R510), elsewhere on the hub, or
in the always-on domain (R502). -/
inductive RegPlace where
  | view (s : Nat) (ro : Bool)
  | glob
  | aon
  deriving DecidableEq, Repr

/-- What a register access does: a read, answered under an offset; a write of a value; the same of two consecutive registers in one access;
an access of a wrong size or alignment (R10, R227, R505). -/
inductive RegOp where
  | read (r : RegRef) (off : Nat)
  | write (r : RegRef) (v : Word)
  | read2 (lo hi : RegRef) (off : Nat)
  | write2 (lo hi : RegRef) (v : DWord)
  | bad (off : Nat) (isWrite : Bool)
  deriving DecidableEq, Repr

/-- A register access held at the endpoint (R387). -/
structure HeldReq where
  ag : Agent
  place : RegPlace
  op : RegOp
  deriving DecidableEq, Repr

/-- The host link (R246) and its engine. `held` are the register accesses that wait for the hub, in their order (R387). -/
structure Pci where
  up : Bool
  slow : Bool
  flit : Bool
  width : BitVec 6
  speed : BitVec 4
  bad : Byte
  nonfatal : Byte
  correctable : BitVec 16
  dup : Bool
  vfmap : Tab Byte
  vfEnable : Bool
  fns : Tab PciFn
  vecs : Tab Vec
  atc : List AtcEntry
  atsReqs : List (Nat × Nat)
  reads : List HostRead
  nextTag : Nat
  maxPayload : Nat
  maxRead : Nat
  perst : Bool
  held : List HeldReq
  deriving DecidableEq, Repr

def Vec.reset : Vec := ⟨true, false, 0, 0⟩

def Pci.reset : Pci :=
  { up := false, slow := false, flit := false, width := 0, speed := 0, bad := 0, nonfatal := 0, correctable := 0
    dup := false, vfmap := [], vfEnable := false, fns := [], vecs := [], atc := [], atsReqs := [], reads := []
    nextTag := 0, maxPayload := 128, maxRead := 512, perst := true, held := [] }

/-- The DMA engine: queues and the queue served last (R236). -/
structure Dma where
  qs : Tab DmaQ
  last : Nat
  deriving DecidableEq, Repr

/-- A complete line waiting in a session: its bytes, the mode it was received in, and the error it has earned already
(R248, R252, R253, R264). -/
structure QLine where
  bytes : List Byte
  machine : Bool
  err : Option Nat
  deriving DecidableEq, Repr

/-- A session (R251). `modeNext` and `noticeNext` apply after a response (R264, R295); `uop` and `idle` are CON.CFG as the
session holds it, `idleDone` says that its idle period has ended (R274, R276); `out` is what waits for room in its port, each
byte with whether it ends a response or notice line (R249); `prompt` says that the prompt stands on the current line. -/
structure Session where
  machine : Bool
  modeNext : Option Bool
  noticeNext : Option Nat
  uop : Bool
  idle : BitVec 16
  idleDone : Bool
  priv : Fin 3
  partl : List Byte
  long : Bool
  lossy : Bool
  lastByte : Nat
  sawCr : Bool
  history : List (List Byte)
  histPos : Option Nat
  esc : List Byte
  challenge : Option (List Byte × Nat)
  lastReq : List Byte
  lastResp : List Byte
  queue : List QLine
  notice : Nat
  wrongs : Nat
  lockUntil : Option Nat
  lastLine : Nat
  out : List (Byte × Bool)
  prompt : Bool
  deriving DecidableEq, Repr

/-- The starting state of a session (R251): session 0 interactive at view, session 1 machine at operate. -/
def Session.start (n : Nat) : Session :=
  { machine := n == 1, modeNext := none, noticeNext := none, uop := true, idle := 600, idleDone := false, priv := if n = 1 then 1 else 0, partl := [], long := false, lossy := false, lastByte := 0
    sawCr := false, history := [], histPos := none, esc := [], challenge := none, lastReq := [], lastResp := []
    queue := [], notice := 0, wrongs := 0, lockUntil := none, lastLine := 0, out := [], prompt := false }

/-- What a running command waits for (11): its domains to be awake, a DVFS transition, requests for domains, training of a
port to start, a port to be parked, a saggar to be OFF, a table load, a commit of bindings, a commit, a drain, a flash operation, the
flash to be idle for a read. -/
inductive CmdWait where
  | wake
  | aclk
  | pwr (ids : List Nat) (force : Bool)
  | lnkTrain (p : Nat)
  | lnkPark (p : Nat)
  | sagOff (s : Nat)
  | crvLoad
  | crvCommit (s : Nat)
  | commit
  | drain
  | flash
  | flashRead
  deriving DecidableEq, Repr

/-- The running command (R252): session, whether its response is still wanted (R275), its line and the mode it came in,
what it waits for, its start, the resources it holds implicitly, the domains it needs (R282), and whether a cancel is
requested (R277). -/
structure Running where
  sess : Nat
  wanted : Bool
  line : List Byte
  machine : Bool
  wait : CmdWait
  since : Nat
  implicit : List Nat
  doms : List Nat
  cancel : Bool
  deriving DecidableEq, Repr

/-- A drain of the running command (R283): saggars and queues to enable again, its start. -/
structure Drain where
  sags : List Nat
  queues : List Nat
  since : Nat
  deriving DecidableEq, Repr

/-- The console (R278). `resetCmd` is a reset command whose response drains: whether cold (R300). -/
structure Con where
  uop : Bool
  idle : BitVec 16
  drop : Byte
  crc : Byte
  frm : Byte
  ovr : Byte
  irq : Bool
  overd : Bool
  iprod : BitVec 16
  icons : BitVec 16
  oprod : BitVec 16
  ocons : BitVec 16
  svcf : Word
  claims : Tab (BitVec 2)
  inBuf : Tab Byte
  outBuf : Tab Byte
  rx : List (Byte × Bool)
  tx : List Byte
  txAt : Nat
  s0 : Session
  s1 : Session
  lastSess : Nat
  run : Option Running
  drain : Option Drain
  resetCmd : Option Bool
  deriving DecidableEq, Repr

def Con.reset : Con :=
  { uop := true, idle := 600, drop := 0, crc := 0, frm := 0, ovr := 0, irq := false, overd := false, iprod := 0
    icons := 0, oprod := 0, ocons := 0, svcf := 0, claims := [], inBuf := [], outBuf := [], rx := [], tx := []
    txAt := 0, s0 := Session.start 0, s1 := Session.start 1, lastSess := 1, run := none, drain := none
    resetCmd := none }

end Sys2Proof.Machine
end

