-- ==== Sys2Proof/Machine/StNet.lean ====
section
/-!
DEFINITION. State of the optical ports (12) and of the fabric (13): lanes, training, flit sessions; streams, routing,
slice membership, fabric time.
-/
namespace Sys2Proof.Machine

/-- Port states (R307, R333). -/
inductive PortState where
  | off | detect | train | up | retrain | parked | quiet
  deriving DecidableEq, Repr

/-- Training phases (R309, R333). -/
inductive Phase where
  | none | lane | align | ident | auth | arm | resume
  deriving DecidableEq, Repr

/-- What the partner's IDENT gave (R315, R333). -/
structure Peer where
  serial : DWord
  kind : Byte
  port : Byte
  version : BitVec 24
  chipv : Bool
  chip : BitVec 12
  eligible : Bool
  epoch : Word
  hash : Word
  kid : Word
  nonce : List Byte
  encsup : Bool
  encreq : Bool
  deriving DecidableEq, Repr

/-- An unacknowledged DATA flit (R322): sequence number, virtual channel, packet. -/
structure TxFlit where
  seq : BitVec 12
  vc : Nat
  pkt : List Byte
  deriving DecidableEq, Repr

/-- A link session (R318, R322–R327). -/
structure LinkSess where
  a : BitVec 12
  n : BitVec 12
  e : BitVec 12
  ackv : Bool
  replay : List TxFlit
  credits : Tab Nat
  rx : List (Nat × List Byte)
  toReturn : Tab Nat
  nakSince : Option Nat
  replays : Nat
  lastA : Nat
  initiator : Bool
  z : List Byte
  txCtr : Nat
  rxCtr : Option Nat
  protoErrs : List Nat
  tagErrs : List Nat
  lastTx : Nat
  lastRx : Nat
  orderly : Option Nat
  deriving DecidableEq, Repr

def LinkSess.reset : LinkSess :=
  { a := 0, n := 0, e := 0, ackv := false, replay := [], credits := [], rx := [], toReturn := [], nakSince := none
    replays := 0, lastA := 0, initiator := false, z := [], txCtr := 0, rxCtr := none, protoErrs := [], tagErrs := []
    lastTx := 0, lastRx := 0, orderly := none }

/-- An optical port (R303–R334). `early` is a RESUME message of the partner that came before this side's own RESUME phase (R329). -/
structure Port where
  state : PortState
  phase : Phase
  phaseAt : Nat
  base : Nat
  count : Nat
  lanes : BitVec 96
  dropped : BitVec 96
  width : Nat
  enc : Bool
  authSt : Fin 3
  fails : Nat
  causePhase : Nat
  cause : Byte
  encreq : Bool
  encNow : Bool
  parkedAt : Option Nat
  probing : Option Nat
  probeAttempt : Bool
  lastEnd : Option Nat
  lastProbe : Nat
  nonce : List Byte
  peer : Option Peer
  armRx : Bool
  txq : List (Nat × List Byte × Nat)
  sess : LinkSess
  cnt : Tab Word
  ftx : DWord
  frx : DWord
  lastTrain : Nat
  retrainAt : Nat
  early : Option (List Byte)
  parkAfter : Bool
  deriving DecidableEq, Repr

def Port.reset : Port :=
  { state := .off, phase := .none, phaseAt := 0, base := 0, count := 0, lanes := 0, dropped := 0, width := 0
    enc := false, authSt := 0, fails := 0, causePhase := 0, cause := 0, encreq := false, encNow := false
    parkedAt := none, probing := none, probeAttempt := false, lastEnd := none, lastProbe := 0, nonce := []
    peer := none, armRx := false, txq := [], sess := .reset, cnt := [], ftx := 0, frx := 0, lastTrain := 0
    retrainAt := 0, early := none, parkAfter := false }

/-- A sequenced packet not yet acknowledged, with the time of its third resend (R344). -/
structure TxPacket where
  seq : Word
  bytes : List Byte
  first : Nat
  last : Nat
  resends : Nat
  third : Option Nat
  deriving DecidableEq, Repr

/-- A sending stream (R342–R345): source saggar, destination, channel; packets that wait for it to open, each with the
operation it belongs to; `doomed` once the membership of its destination or the route to it has ended (R344). -/
structure SendStream where
  key : Nat
  ssag : Nat
  dst : Nat
  vc : Nat
  next : Word
  opened : Bool
  unacked : List TxPacket
  waiting : List (Nat × List Byte)
  closing : Option Nat
  abandoned : Bool
  doomed : Bool
  lastAct : Nat
  deriving DecidableEq, Repr

/-- A receiving stream (R343). -/
structure RecvStream where
  src : Nat
  ssag : Nat
  vc : Nat
  e : Word
  held : List (Word × List Byte)
  deriving DecidableEq, Repr

/-- A remote operation waiting for its response (R343). -/
inductive RemoteUse where
  | load (at_ : At) (a : MemArgs) (lane off : Nat)
  | amo (at_ : At) (a : AmoArgs) (lane : Nat)
  | store (at_ : At)
  | record
  | move (s id off : Nat) (rd : Bool)
  deriving DecidableEq, Repr

/-- A remote operation with its request's number, and that of the instruction or work that it is part of. -/
structure RemoteOp where
  id : Nat
  instr : Nat
  stream : Nat
  chip : Nat
  vc : Nat
  seq : Option Word
  sag : Nat
  addr : DWord
  use : RemoteUse
  deriving DecidableEq, Repr

/-- A packet held at this hop (R341): since when, the input port (12 for the chip itself), channel, packet. -/
structure FwdPacket where
  since : Nat
  inPort : Nat
  vc : Nat
  bytes : List Byte
  deriving DecidableEq, Repr

/-- States of a chip in its slice (R362). -/
inductive FabState where
  | alone | joining | admitted | quarantine | refused
  deriving DecidableEq, Repr

/-- A member as its master knows it (R352–R354): chip, serial, hash, the neighbour toward it, since when its hash differs, the chip
beyond each of its ports, and the table last sent to it. -/
structure Member where
  chip : BitVec 12
  serial : Option DWord
  hash : Word
  eligible : Bool
  via : Option (BitVec 12)
  differSince : Option Nat
  ports : List (Option (BitVec 12))
  table : Option (List (Nat × Word) × List (Nat × Word))
  deriving DecidableEq, Repr

/-- A neighbour as its HELLO gives it (R348, R350): the port it came by, its number, its slice. -/
structure Near where
  port : Nat
  chip : Option (BitVec 12)
  slice : BitVec 16
  deriving DecidableEq, Repr

/-- An election round (R351). -/
structure Election where
  best : BitVec 12
  own : Bool
  since : Nat
  deriving DecidableEq, Repr

/-- The fabric (R362). `chipSrc` is the source of the chip number in force (R338): 0 none, 1 FAB.CHIPOV, 2 the Voyx; `exclBy` is the
partner, by serial and port, for which a port is excluded (R337); `back` is the neighbour by which a chip's requests come; `lostMaster` is
the master whose loss an election follows (R353), `refusedAs` the chip number under which the chip was refused (R352);
`commitAt` is when a commit, of whatever master, last came into force here, `commitDue` that a commit waits for its time (R483). -/
structure Fab where
  state : FabState
  cause : Byte
  untrusted : Bool
  master : Bool
  chip : Option (BitVec 12)
  chipSrc : Fin 3
  epoch : Word
  highEpoch : Word
  masterChip : Option (BitVec 12)
  chipov : Word
  sliceid : BitVec 16
  errTwist : Bool
  twist : Tab Word
  time : DWord
  slewLeft : Int
  slewFrac : Nat
  skew : BitVec 31
  good : Nat
  lastExch : Option Nat
  excl : Tab Bool
  exclBy : Tab (DWord × Byte)
  cnt : Tab Word
  rrack : Tab Word
  rpos : Tab Word
  staged : Option (List (Nat × Word) × List (Nat × Word))
  view : Tab Word
  viewx : Tab Word
  sends : List SendStream
  recvs : List RecvStream
  ops : List RemoteOp
  fwd : List FwdPacket
  nextKey : Nat
  members : List Member
  memberChips : List (BitVec 12)
  election : Option Election
  firstUp : Option Nat
  lastMaster : Option Nat
  lostMaster : Option (BitVec 12)
  refusedAs : Option (BitVec 12)
  path : Option (BitVec 12 × Nat)
  lastHello : Nat
  lastTsync : Nat
  lastJoin : Nat
  back : Tab (BitVec 12)
  near : List Near
  commitAt : Option Nat
  commitDue : Bool
  deriving DecidableEq, Repr

def Fab.reset : Fab :=
  { state := .alone, cause := 0, untrusted := true, master := false, chip := none, chipSrc := 0, epoch := 0, highEpoch := 0
    masterChip := none, chipov := 0, sliceid := 0, errTwist := false, twist := [], time := 0, slewLeft := 0
    slewFrac := 0, skew := 0, good := 0, lastExch := none, excl := [], exclBy := [], cnt := [], rrack := [], rpos := []
    staged := none, view := [], viewx := [], sends := [], recvs := [], ops := [], fwd := []
    nextKey := 0, members := [], memberChips := [], election := none, firstUp := none, lastMaster := none, lostMaster := none
    refusedAs := none, path := none, lastHello := 0, lastTsync := 0, lastJoin := 0, back := [], near := []
    commitAt := none, commitDue := false }

end Sys2Proof.Machine
end

