-- ==== Sys2Proof/Machine/StColl.lean ====
section
/-!
DEFINITION. State of the collective engine (14): the quire table, operations waiting and running, packets held, seen
and unacknowledged.
-/
namespace Sys2Proof.Machine

/-- States of a quire entry (R364). -/
inductive QState where
  | free | forming | formed | running | broken
  deriving DecidableEq, Repr

/-- A collective operation at its member: its 64-byte command and its issuer (R366, R380). -/
structure CollOp where
  cmd : List Byte
  who : Issuer
  deriving DecidableEq, Repr

/-- Where a running operation stands in its tree (R371, R372): going up at a level, waiting for the data to come down,
or, at the root, for the hand-off. -/
inductive CollPhase where
  | up (level : Nat)
  | down
  | handoff
  deriving DecidableEq, Repr

/-- The running operation of a quire (R369–R377): start, timeout, phase, its values in transit form, received packets
(step, first element, elements), elements counted as saturated and as flushed. -/
structure CollRun where
  op : CollOp
  since : Nat
  limit : Nat
  phase : CollPhase
  vals : List Nat
  recv : List (Nat × Nat × List Nat)
  sats : List Nat
  flushes : List Nat
  deriving DecidableEq, Repr

/-- A CFORM or CDATA packet not yet acknowledged (R375): its bytes, channel, destination, last send, end. -/
structure CollSent where
  bytes : List Byte
  vc : Nat
  dst : Nat
  last : Nat
  until_ : Nat
  deriving DecidableEq, Repr

/-- An entry of the quire table (R364); `roundAt` is when its last round began (R483). -/
structure Quire where
  state : QState
  sag : Nat
  qid : Nat
  vc : Nat
  m : Nat
  rank : Nat
  round : Word
  cause : Byte
  members : List (Nat × Nat)
  waiting : List CollOp
  run : Option CollRun
  held : List (Nat × List Byte)
  seen : List (Nat × Nat × Nat)
  unacked : List CollSent
  roundAt : Option Nat
  deriving DecidableEq, Repr

def Quire.reset : Quire :=
  { state := .free, sag := 0, qid := 0, vc := 0, m := 0, rank := 0, round := 0, cause := 0, members := []
    waiting := [], run := none, held := [], seen := [], unacked := [], roundAt := none }

/-- The collective engine (R384). -/
structure Coll where
  quires : Tab Quire
  heldForms : List (Nat × Nat × List Byte)
  loop : List (Nat × List Byte)
  cnt : Tab Word
  deriving DecidableEq, Repr

def Coll.reset : Coll := ⟨[], [], [], []⟩

end Sys2Proof.Machine
end

