-- ==== Sys2Proof/Machine/StPower.lean ====
section
/-!
DEFINITION. State of the power controller (15), of the supplies and the always-on domain (16), and of the start-up,
identity and board test (17).
-/
namespace Sys2Proof.Machine

/-- States of a power domain (R385), in the order of PWR.STATE.cur. -/
inductive PSt where
  | active | idle | banked | off | offline
  deriving DecidableEq, Repr

/-- Ways of entry (R390), in the order of PWR.STATE.way. -/
inductive Way where
  | timer | request | cascade | forced
  deriving DecidableEq, Repr

/-- An entry in progress (R392, R394, R396): way, target, ports that have not answered, ports that deferred with their
limit, whether the cascade still runs, whether the commit point is reached, start, and for the hub the dependents it took
down with the states they held. -/
structure Entry where
  way : Way
  tgt : PSt
  ports : List Nat
  defer : List (Nat × Nat)
  cascading : Bool
  committed : Bool
  since : Nat
  took : List (Nat × PSt)
  deriving DecidableEq, Repr

/-- A wake in progress (R402): waiting for its dependencies or for a wave, or at a step 0–4; and the state it returns
to (ACTIVE, or IDLE under R403). -/
structure Wake where
  started : Bool
  step : Nat
  into : PSt
  deriving DecidableEq, Repr

/-- A request that waits for a transition to end (R393): target, forced, and whether it comes from PWR.REQ. -/
structure PReq where
  tgt : PSt
  force : Bool
  reg : Bool
  con : Bool
  deriving DecidableEq, Repr

/-- A power domain (R385–R408). `late` is a wake latched within an entry, `lateAcc` says that an access has raised it; `forceReq` a forced entry that is commanded, and `forceCon`
says that a console command waits for its end. The last fields follow a request: who made it, its target, and how it ended: 0
entered or woken, 1 refused, 2 aborted, 3 ended by a forced entry, with the codes of its refusers. -/
structure Dom where
  cur : PSt
  way : Way
  tgt : PSt
  entry : Option Entry
  wake : Option Wake
  late : Bool
  lateAcc : Bool
  idleAt : Nat
  retryAt : Option Nat
  queued : List PReq
  forceReq : Option PSt
  forceCon : Bool
  entries : Word
  wakes : Word
  refs : BitVec 16
  aborts : BitVec 16
  lates : Word
  fromReg : Bool
  fromCon : Bool
  outcome : Nat
  reqTgt : PSt
  lastRefs : List Nat
  deriving DecidableEq, Repr

def Dom.at (s : PSt) : Dom :=
  { cur := s, way := .timer, tgt := .active, entry := none, wake := none, late := false, lateAcc := false, idleAt := 0
    retryAt := none, queued := [], forceReq := none, forceCon := false, entries := 0, wakes := 0, refs := 0, aborts := 0, lates := 0
    fromReg := false, fromCon := false, outcome := 0, reqTgt := .active, lastRefs := [] }

/-- The power controller (R408). `heldWakes` are the wakes that an entry of the hub holds, and whether an
access has raised each (R28, R399), `linksDown` says that the
die-to-die links rest since the hub's BANKED, `returning` are the domains that a wake of the hub still brings back (R403). -/
structure Pwr where
  doms : Tab Dom
  busy : Bool
  denied : Bool
  lost : Bool
  outcome : Fin 3
  rstatr : Word
  retry : BitVec 16
  casc : BitVec 278
  cascp : Tab PSt
  reftab : List (Word × Word)
  refovf : Word
  waves : List Nat
  heldWakes : List (Nat × Bool)
  linksDown : Bool
  returning : List Nat
  deriving DecidableEq, Repr

def Pwr.reset : Pwr :=
  { doms := [], busy := false, denied := false, lost := false, outcome := 0, rstatr := 0, retry := 100, casc := 0
    cascp := [], reftab := [], refovf := 0, waves := [], heldWakes := [], linksDown := false, returning := [] }

/-- Where the rails' sequencing stands (R412): off, powering up (the rail enabled and since when), on, powering down
(the rail whose fall is awaited and since when). -/
inductive RailSeq where
  | off
  | up (k : Nat) (since : Nat)
  | on
  | down (k : Nat) (since : Nat)
  deriving DecidableEq, Repr

/-- A throttle episode (R421): start, sources raised in it, warning crossings, lowest mV of VIO, VCORE and VSRAM. -/
structure Episode where
  since : Nat
  sources : BitVec 3
  crossings : Nat
  low : List Nat
  deriving DecidableEq, Repr

/-- The supplies (R409–R422, R433). `orderly` is since when an orderly entry of the hub is commanded (R417), `down` that the main
rails go down at its end (R413). -/
structure Sup where
  mv : Tab Nat
  warnNow : BitVec 6
  good : BitVec 6
  seq : RailSeq
  pwron : Bool
  vset : Nat
  warn : Bool
  current : Bool
  cap : Bool
  crossings : List Nat
  holdUntil : Option Nat
  episode : Option Episode
  capAt : Nat
  capLast : Nat
  currentAt : Nat
  warnAt : Nat
  lock : Bool
  dropped : BitVec 16
  phCause : BitVec 16
  capFailed : Bool
  cnt : Tab Word
  restarts : List Nat
  restartAt : Option Nat
  stay : Bool
  orderly : Option Nat
  down : Bool
  activeAt : Nat
  deriving DecidableEq, Repr

def Sup.reset : Sup :=
  { mv := [], warnNow := 0, good := 0, seq := .off, pwron := false, vset := 0, warn := false, current := false
    cap := false, crossings := [], holdUntil := none, episode := none, capAt := 0, capLast := 0, currentAt := 0, warnAt := 0
    lock := false, dropped := 0, phCause := 0, capFailed := false, cnt := [], restarts := []
    restartAt := none, stay := false, orderly := none, down := false, activeAt := 0 }

/-- The always-on domain's backup side (R423–R434). `snap` is the sequence number up to which the final snapshot runs, and
how many pages it may still program; `crys` is the time since the last crystal tick, in 10⁻⁶ ns, and `crysRem` what that tick left over of
the continuation of fabric time (R472). -/
structure Aon where
  powered : Bool
  crystal : Bool
  bakcfg : Word
  vbakSrc : Bool
  hand : Option Nat
  vaux : Nat
  vbak : Nat
  energy : Nat
  epi : Word
  ret : DWord
  unsaved : Bool
  closed : Bool
  brown : Word
  okSince : Option Nat
  snap : Option (Word × Nat)
  crys : Nat
  crysRem : Nat
  deriving DecidableEq, Repr

def Aon.reset : Aon :=
  { powered := false, crystal := false, bakcfg := 0, vbakSrc := false, hand := none, vaux := 0, vbak := 0
    energy := 0, epi := 0, ret := 0, unsaved := false, closed := false, brown := 0, okSince := none
    snap := none, crys := 0, crysRem := 0 }

/-- The start-up's states (R455), `none` before any start-up. -/
inductive StState where
  | none | seq | test | load | ready | failed | scan
  deriving DecidableEq, Repr

/-- The configuration record in force (R439, R440). -/
structure Cfg where
  gen : Word
  sector : Nat
  bak : Word
  kid : Word
  key : List Byte
  extent : Word
  slice : BitVec 16
  lanes : List Byte
  boots : List (Word × Word)
  deriving DecidableEq, Repr

def Cfg.default : Cfg :=
  { gen := 0, sector := 1, bak := 0, kid := 0, key := List.replicate 32 0, extent := 0, slice := 0, lanes := []
    boots := [] }

/-- Boundary-scan instructions (R453). -/
inductive TapInstr where
  | bypass | idcode | sample | extest | clamp | highz
  deriving DecidableEq, Repr

/-- Start-up, identity and board test (R435–R455). `ran` says which tests this start has run: clusters, die-to-die links,
stacks; `boots` holds the status of each boot entry. -/
structure Start where
  state : StState
  step : Nat
  cold : Bool
  kind : Fin 3
  why : Byte
  cause : Byte
  since : Nat
  time : BitVec 16
  strap : BitVec 5
  pend : Option Byte
  cfg : Cfg
  d2dFail : BitVec 3
  d2dRep : BitVec 3
  hbmFail : BitVec 8
  hbmRep : BitVec 8
  ran : BitVec 3
  clusterBad : BitVec 256
  clusterRep : BitVec 256
  boots : List (Option Byte)
  bootAt : Nat
  col : List Word
  owner : Bool
  ir : Byte
  cells : BitVec 65
  captured : BitVec 65
  perstPend : Bool
  deriving DecidableEq, Repr

def Start.reset : Start :=
  { state := .none, step := 0, cold := true, kind := 0, why := 0, cause := 0, since := 0, time := 0, strap := 0
    pend := none, cfg := .default, d2dFail := 0, d2dRep := 0, hbmFail := 0, hbmRep := 0, ran := 0, clusterBad := 0, clusterRep := 0
    boots := [], bootAt := 0, col := List.replicate 8 0, owner := false, ir := 0x01, cells := 0, captured := 0
    perstPend := false }

/-- The configuration record's value of AON.BAKCFG, its reserved bits zero (R9, R434). -/
def Cfg.bakcfg (c : Cfg) : Word := c.bak &&& 0x03FFFFFF

/-- Whether a cause of R447 is one of a cold reset. -/
def coldCause (c : Byte) : Bool := c != 0x05 && c != 0x06

/-- A reset of a cause is asked for: a warm one does not take the place of a cold one that waits (R448). -/
def Start.ask (s : Start) (c : Byte) : Start :=
  if !coldCause c && s.pend.any coldCause then s else { s with pend := some c }

/-- Whether a start halts in SCAN (R454): a cold one under STRAP_TEST. -/
def Start.halts (s : Start) : Bool := s.cold && s.strap.getLsbD 4

end Sys2Proof.Machine
end

