-- ==== Sys2Proof/Machine/StLog.lean ====
section
/-!
DEFINITION. State of the event log, its mirror and the flash's operations (16, 18, 19), of the temperature sensors, and
of the staged set and its commit (19).
-/
namespace Sys2Proof.Machine

/-- An event on its way to the log (R470–R473, R485): code, source, saggar, data, the time field and its trust, the rep
field it will carry, the occurrences it represents, the vectors that fire after its entry, by function and number, and the reports that
come before it (R466). -/
structure LogEvent where
  code : Nat
  src : Nat
  sag : Option Nat
  data : List Byte
  time : DWord
  rep : Nat
  occ : Nat
  vecs : List (Nat × Nat)
  after : List Report
  deriving DecidableEq, Repr

/-- An event-log entry (R470). -/
structure LogEntry where
  cls : Fin 4
  seq : Word
  time : DWord
  rep : BitVec 16
  code : BitVec 16
  src : Word
  chip : Option (BitVec 12)
  sag : Option Nat
  data : List Byte
  deriving DecidableEq, Repr

/-- A coalescing window (R473): code, source, since when, occurrences in it, the last of them. -/
structure LogWindow where
  code : Nat
  src : Nat
  since : Nat
  n : Nat
  last : Option LogEvent
  deriving DecidableEq, Repr

/-- What a flash operation belongs to (R294, R425, R440, R465): the mirror, a page up to a sequence number; the final
snapshot; a closing or brown record of a kind; a step of a configuration record's write; the erase of a sector by `log clear`, whether
that is still wanted, and how many sectors follow. -/
inductive FlashUse where
  | mirror (upto : Word)
  | snapshot (upto : Word)
  | record (kind : Nat)
  | cfg (stage : Nat)
  | clear (wanted : Bool) (left : Nat)
  deriving DecidableEq, Repr

/-- A flash operation in progress or waiting for one (R425): erase or program, offset, bytes. The first of them has started; where a
record stands, and what it holds, is settled as it starts. -/
structure FlashOp where
  erase : Bool
  off : Nat
  bytes : List Byte
  use : FlashUse
  deriving DecidableEq, Repr

/-- A write of a new configuration record in progress (R440): its sector, its 512 bytes and what they say, and the session that
changes the installation key with it (R270). -/
structure CfgWrite where
  sector : Nat
  bytes : List Byte
  cfg : Cfg
  keyBy : Option Nat
  deriving DecidableEq, Repr

/-- The event log, its mirror and the flash (R472–R486). `cfgRes` is the response code with which the last write of a
configuration record ended, until its command takes it; `mpage` is the mirror's next page; `hold` are the events whose operations have
still to report (R466). -/
structure Log where
  next : Word
  ring : List LogEntry
  unm : Word
  oldm : Word
  sel : Word
  busy : Bool
  ssrc : Fin 3
  ent : List Byte
  ovf : Word
  wdog : Word
  qdrop : Word
  hold : List LogEvent
  queue : List LogEvent
  overd : List LogEvent
  windows : List LogWindow
  lastStart : Option Nat
  lostAt : Option Nat
  lostNote : Bool
  mpage : Nat
  cfgRes : Option Nat
  bad : BitVec 16
  mfail : Option Nat
  mwear : Bool
  menergy : Bool
  failRow : Nat
  erases : Tab Nat
  ops : List FlashOp
  cfgw : Option CfgWrite
  ovfAt : Option Nat
  cerr : List (Nat × Nat × Nat)
  deriving DecidableEq, Repr

def Log.reset : Log :=
  { next := 0, ring := [], unm := 0, oldm := 0, sel := 0, busy := false, ssrc := 0, ent := [], ovf := 0, wdog := 0
    qdrop := 0, hold := [], queue := [], overd := [], windows := [], lastStart := none, lostAt := none, lostNote := false
    mpage := 0, cfgRes := none, bad := 0, mfail := none, mwear := false, menergy := false, failRow := 0
    erases := [], ops := [], cfgw := none, ovfAt := none, cerr := [] }

/-- The junction sensors (R463): readings in 1/16 °C; sensors above 110 °C and 125 °C, each with since
when; whether a thermal banking holds wakes back, the wakes it has latched, each with whether an access raised it, and when the always-on
domain last read the sensors. -/
structure Temps where
  t : Tab (Option Int)
  hot110 : List (Nat × Nat)
  hot125 : List (Nat × Nat)
  banked : Bool
  latched : List (Nat × Bool)
  readAt : Option Nat
  deriving DecidableEq, Repr

def Temps.reset : Temps := ⟨[], [], [], false, [], none⟩

/-- The staged set and its commit (R487–R497): staged values, values in force, values being applied, generations, how
many domains of the order have applied. -/
structure Stage where
  stg : Tab (BitVec 16)
  force : Tab (BitVec 16)
  apply : Tab (BitVec 16)
  cgen : Word
  pend : Bool
  range : Bool
  lost : Bool
  pos : Nat
  since : Nat
  deriving DecidableEq, Repr

/-- The defaults of R297, in the order of R497. -/
def stageDefaults : Tab (BitVec 16) := [(0, 0x14), (1, 0xC8), (2, 0), (3, 0x3E8), (4, 0x32)]

def Stage.reset : Stage :=
  { stg := [], force := stageDefaults, apply := stageDefaults, cgen := 0, pend := false, range := false
    lost := false, pos := 0, since := 0 }

end Sys2Proof.Machine
end

