-- ==== Sys2Proof/Machine/State.lean ====
section
/-!
DEFINITION. The state of the block: the queue of commands, the four memories, and every register, queue and unit (01–20).
Reasons a command can stop. The state after reset.
-/
namespace Sys2Proof.Machine

/-- The block never stops with a fault: every fault the manual describes (R171, R211, R458) is an effect on the state.
There is no constructor, so nothing raises one. -/
inductive Fault where
  deriving DecidableEq, Repr

/-- Why a command has no meaning. -/
inductive Refusal where
  /-- Raised by an arm of `exec` whose command has no meaning yet. Safe: nothing is claimed of it. -/
  | notModelled (mnemonic : String)
  /-- Raised by a meaning whose command is not well-formed (`Instr.wf`): it stands for no command of the manual, such
  as a flit that is not 256 bytes long. Safe: the manual gives such a command no meaning. -/
  | illFormed
  deriving DecidableEq, Repr

/-- Messages that the management of the fabric sends (R350). The manual gives them fields and no byte layout (log entry 25). -/
inductive Mgmt where
  | hello (m : HelloMsg)
  | elect (cand : BitVec 12) (slice : BitVec 16) (epoch : Word)
  | join (m : JoinMsg)
  | admission (dst : BitVec 12) (epoch : Word)
  | quar (dst : BitVec 12) (cause : Byte)
  | refuse (dst : BitVec 12) (cause : Byte)
  | table (m : TableMsg)
  | commit (epoch : Word) (master : BitVec 12) (members : List HandMember)
  | tsync (t : DWord)
  | tsyncr (echo received sent : DWord)
  | leave (chip : BitVec 12)
  | handover (m : HandoverMsg)
  | update (m : UpdateMsg)
  deriving DecidableEq, Repr

/-- The header of a management packet (R340, R341, R350): its type, hops left, channel, the neighbour it goes to and this chip, none
without a number, and the slice. -/
structure MgmtHead where
  ptype : Nat
  ttl : Nat
  vc : Nat
  dst : Option (BitVec 12)
  src : Option (BitVec 12)
  slice : BitVec 16
  deriving DecidableEq, Repr

/-- What the block has put out: values of register reads, host completions other than success, MSI-X messages, error
reports of a function, requests to the host with the requester's function (R225) and the address type (R226), UART bytes, flits, management messages. -/
inductive Out where
  | regRead (ag : Agent) (off : Nat) (v : Word)
  | unsupported (ag : Agent) (off : Nat)
  | msix (fn : Nat) (vec : Nat)
  | err (fn : Nat) (fatal : Fin 3)
  | hostRead (tag : Nat) (fn : Nat) (addr : Nat) (translated : Bool) (len : Nat)
  | hostWrite (fn : Nat) (addr : Nat) (translated : Bool) (data : List Byte)
  | atsReq (fn : Nat) (page : Nat)
  | atsInvalidated (fn : Nat)
  | uart (b : Byte)
  | flit (p : Nat) (bytes : List Byte)
  | mgmt (p : Nat) (h : MgmtHead) (m : Mgmt)
  | tdo (n v : Nat)
  | configRetry (fn : Nat)
  deriving DecidableEq, Repr

/-- The requester identity that a request to the host carries, as the function it belongs to (R225): an interrupt always carries the
physical function's. -/
def Out.requester : Out → Option Nat
  | .hostRead _ fn _ _ _ | .hostWrite fn _ _ _ | .atsReq fn _ => some fn
  | .msix _ _ => some 0
  | _ => none

/-- The array clock (R26): point in force and target in steps of the clock table, transition in progress, and whether a transition
that was in progress has been replaced by one that waits (`again`), which starts also toward the point in force; of the die-to-die links, in the bit order of HUB.D2D (R35), the bits of fail and up, and which have failed until cold reset (R462). -/
structure Hub where
  cur : BitVec 4
  tgt : BitVec 4
  dvfs : Option (BitVec 4)
  d2dFail : BitVec 3
  d2dUp : BitVec 3
  d2dDead : BitVec 3
  again : Bool
  deriving DecidableEq, Repr

def Hub.reset : Hub := ⟨8, 8, none, 0, 0, 0, false⟩

/-- Everything but the memories and the queue. `now` is the time in ns since the model began, `free` numbers the open
values drawn (log entry 1), `outs` is what the block has put out, newest first. -/
structure Dev where
  now : Nat
  free : Nat
  outs : List Out
  hub : Hub
  cmp : Compute
  pci : Pci
  dma : Dma
  con : Con
  ports : Tab Port
  reprobe : BitVec 16
  fab : Fab
  coll : Coll
  pwr : Pwr
  sup : Sup
  aon : Aon
  start : Start
  log : Log
  temps : Temps
  stage : Stage
  deriving DecidableEq, Repr

/-- The memories: HBM3E by physical address, near store by cluster × 2^20 + offset, host memory, flash; and the 64-byte
lines of HBM3E and near store in error (R459). Each list is in the canonical form `Mem.wf`. -/
structure Mem where
  hbm : List Host.Cell
  near : List Host.Cell
  host : List Host.Cell
  flash : List Host.Cell
  hbmBad : List Nat
  nearBad : List Nat
  deriving DecidableEq, Repr

/-- What an unlisted address reads as: zero in HBM3E and near store, as a cold start leaves them (R449); zero in host
memory and 0xFF, erased, in flash, where the manual gives no contents (log entry 3). -/
def Mem.hbmFill : Byte := 0
def Mem.nearFill : Byte := 0
def Mem.hostFill : Byte := 0
def Mem.flashFill : Byte := 0xFF

def Mem.reset : Mem := ⟨[], [], [], [], [], []⟩

/-- The block. -/
structure State where
  pending : List Instr
  mem : Mem
  dev : Dev
  deriving DecidableEq, Repr

/-- Every block at its reset values; the always-on domain has no supply yet (log entry 6). -/
def Dev.reset : Dev :=
  { now := 0, free := 0, outs := [], hub := .reset, cmp := .reset, pci := .reset, dma := ⟨[], 255⟩, con := .reset
    ports := [], reprobe := 1000, fab := .reset, coll := .reset, pwr := .reset, sup := .reset
    aon := .reset, start := .reset, log := .reset, temps := .reset, stage := .reset }

def State.reset : State := ⟨[], .reset, .reset⟩

end Sys2Proof.Machine
end

