-- ==== Sys2Proof/Machine/Ops.lean ====
section
/-!
DEFINITION. The named operations on memory and on the state that every meaning is written over: reading and writing
bytes, the combinator `act` through which every command runs, accessors of the per-instance records.
-/
namespace Sys2Proof.Machine

/-- The four byte memories. -/
inductive Space where
  | hbm | near | host | flash
  deriving DecidableEq, Repr

/-- One change of a memory: bytes stored from an address on, a range cleared to what unlisted addresses read as, a copy
of a range, the whole memory cleared, a 64-byte line put in error. -/
inductive MemWrite where
  | bytes (sp : Space) (a : Nat) (l : List Byte)
  | copy (from_ : Space) (a : Nat) (dest : Space) (b : Nat) (len : Nat)
  | clear (sp : Space)
  | clearRange (sp : Space) (a : Nat) (len : Nat)
  | bad (sp : Space) (line : Nat)
  deriving DecidableEq, Repr

/-- A listed byte, or what an unlisted address reads as. -/
def cellGet (fill : Byte) : List Host.Cell → Nat → Byte
  | [], _ => fill
  | (b, v) :: t, a => if b = a then v else if a < b then fill else cellGet fill t a

/-- Remove an address from a rising list. -/
def cellDel : List Host.Cell → Nat → List Host.Cell
  | [], _ => []
  | (b, v) :: t, a => if b = a then t else if a < b then (b, v) :: t else (b, v) :: cellDel t a

/-- Put a byte into a rising list. -/
def cellIns : List Host.Cell → Nat → Byte → List Host.Cell
  | [], a, v => [(a, v)]
  | (b, w) :: t, a, v =>
    if b = a then (a, v) :: t else if a < b then (a, v) :: (b, w) :: t else (b, w) :: cellIns t a v

/-- Store one byte, keeping the canonical form: a byte equal to the fill is not listed. -/
def cellPut (fill : Byte) (l : List Host.Cell) (a : Nat) (v : Byte) : List Host.Cell :=
  if v = fill then cellDel l a else cellIns l a v

/-- Store bytes from an address on. -/
def cellPuts (fill : Byte) : List Host.Cell → Nat → List Byte → List Host.Cell
  | l, _, [] => l
  | l, a, v :: vs => cellPuts fill (cellPut fill l a v) (a + 1) vs

/-- Store listed bytes, each at its own address. -/
def cellPutAll (fill : Byte) : List Host.Cell → List Host.Cell → List Host.Cell
  | l, [] => l
  | l, (a, v) :: t => cellPutAll fill (cellPut fill l a v) t

/-- Addresses strictly rising above `lo`, no byte equal to the fill. -/
def cellsWf (fill : Byte) : Option Nat → List Host.Cell → Bool
  | _, [] => true
  | lo, (a, v) :: t => (match lo with | none => true | some b => decide (b < a)) && decide (v ≠ fill) && cellsWf fill (some a) t

/-- The canonical form of a memory: each list rising, nothing listed that equals the fill. -/
def Mem.wf (m : Mem) : Bool :=
  cellsWf Mem.hbmFill none m.hbm && cellsWf Mem.nearFill none m.near && cellsWf Mem.hostFill none m.host
    && cellsWf Mem.flashFill none m.flash

/-- What an unlisted address of a memory reads as. -/
def Space.fill : Space → Byte
  | .hbm => Mem.hbmFill
  | .near => Mem.nearFill
  | .host => Mem.hostFill
  | .flash => Mem.flashFill

def Mem.cells (m : Mem) : Space → List Host.Cell
  | .hbm => m.hbm
  | .near => m.near
  | .host => m.host
  | .flash => m.flash

def Mem.setCells (m : Mem) (sp : Space) (l : List Host.Cell) : Mem :=
  match sp with
  | .hbm => { m with hbm := l }
  | .near => { m with near := l }
  | .host => { m with host := l }
  | .flash => { m with flash := l }

/-- One byte of a memory. -/
def Mem.byte (m : Mem) (sp : Space) (a : Nat) : Byte := cellGet sp.fill (m.cells sp) a

/-- `n` bytes of a memory. -/
def Mem.bytes (m : Mem) (sp : Space) (a n : Nat) : List Byte := (List.range n).map fun i => m.byte sp (a + i)

/-- The listed cells of a range, by address. -/
def cellRange (l : List Host.Cell) (a len : Nat) : List Host.Cell :=
  l.filter fun c => decide (a ≤ c.1) && decide (c.1 < a + len)

def badLines (m : Mem) : Space → List Nat
  | .hbm => m.hbmBad
  | .near => m.nearBad
  | _ => []

def setBadLines (m : Mem) (sp : Space) (l : List Nat) : Mem :=
  match sp with
  | .hbm => { m with hbmBad := l }
  | .near => { m with nearBad := l }
  | _ => m

/-- Lines wholly inside a range leave the error state (R459). -/
def healLines (m : Mem) (sp : Space) (a len : Nat) : Mem :=
  setBadLines m sp ((badLines m sp).filter fun n => !(decide (a ≤ 64 * n) && decide (64 * n + 64 ≤ a + len)))

/-- Clear a range to the fill. -/
def clearCells (l : List Host.Cell) (a len : Nat) : List Host.Cell :=
  l.filter fun c => !(decide (a ≤ c.1) && decide (c.1 < a + len))

/-- One change of a memory. -/
def Mem.apply1 (m : Mem) : MemWrite → Mem
  | .bytes sp a l => healLines (m.setCells sp (cellPuts sp.fill (m.cells sp) a l)) sp a l.length
  | .copy f a t b len =>
    let src := (cellRange (m.cells f) a len).map fun c => (b + (c.1 - a), c.2)
    healLines (m.setCells t (cellPutAll t.fill (clearCells (m.cells t) b len) src)) t b len
  | .clear sp => setBadLines (m.setCells sp []) sp []
  | .clearRange sp a len => healLines (m.setCells sp (clearCells (m.cells sp) a len)) sp a len
  | .bad sp n => setBadLines m sp (if (badLines m sp).contains n then badLines m sp else n :: badLines m sp)

/-- Changes in order. -/
def Mem.applyAll (m : Mem) : List MemWrite → Mem
  | [] => m
  | w :: t => Mem.applyAll (m.apply1 w) t

/-- Whether any line of a range is in error (R459). -/
def Mem.inError (m : Mem) (sp : Space) (a len : Nat) : Bool :=
  (badLines m sp).any fun n => rangesMeet (64 * n) 64 a len

/-- The answer of every command. -/
abbrev Res := Host.Outcome State Fault Refusal

/-- The working state of a command: the block, the memories as they stand, and the changes made to them, newest first;
the operation code that an event names for its accesses (R478), and the die that makes them (R19); the memories as they stood when the
command began, or as they stood when waits were last translated anew, after `skip` of the changes; the number of the thread's memory instruction at work; the reports that come before what the log and the poison tables say of its faults (R191 step 4, R466). -/
structure W where
  dev : Dev
  mem : Mem
  ws : List MemWrite
  op : Nat
  die : Option Nat
  was : Mem
  skip : Nat
  inst : Nat
  rep : List Report
  ecc : List Ecc

/-- Change a memory. -/
def W.put (w : W) (x : MemWrite) : W := { w with mem := w.mem.apply1 x, ws := x :: w.ws }

/-- Store bytes. -/
def W.store (w : W) (sp : Space) (a : Nat) (l : List Byte) : W := w.put (.bytes sp a l)

/-- The working state in which a command begins. -/
def State.work (s : State) : W := ⟨s.dev, s.mem, [], 0, none, s.mem, 0, 0, [], []⟩

/-- The state that a command's work leaves. Memories change only through the changes it lists, and the queue never. -/
def State.after (s : State) (w : W) : State := { pending := s.pending, mem := s.mem.applyAll w.ws.reverse, dev := w.dev }

/-- Run a command over the working state. -/
def act (f : W → W) (s : State) : Res := .next (s.after (f s.work))

/-- Run a command whose operands must be well-formed. -/
def checked (ok : Bool) (f : W → W) (s : State) : Res :=
  match ok with
  | true => act f s
  | false => .refused .illFormed

/-- Work whose faults are told of after some reports (R466). -/
def W.afterReports (w : W) (l : List Report) (f : W → W) : W := { f { w with rep := l } with rep := w.rep }

/-- Put something out. -/
def W.out (w : W) (o : Out) : W := { w with dev := { w.dev with outs := o :: w.dev.outs } }

/-- A fresh number for an open value (log entry 1). -/
def W.draw (w : W) : Nat × W := (w.dev.free, { w with dev := { w.dev with free := w.dev.free + 1 } })

/-- An open choice (log entry 1). -/
def W.drawBool (w : W) : Bool × W := let (n, w) := w.draw; (Config.openBool n, w)

/-- Bytes of a random draw (R269, R315). -/
def W.drawRandom (w : W) (n : Nat) : List Byte × W :=
  ((rangeFrom w.dev.free n).map Config.randomByte, { w with dev := { w.dev with free := w.dev.free + n } })

/-- Open bytes (log entry 1). -/
def W.drawBytes (w : W) (n : Nat) : List Byte × W :=
  ((rangeFrom w.dev.free n).map Config.openByte, { w with dev := { w.dev with free := w.dev.free + n } })

def W.modCmp (w : W) (f : Compute → Compute) : W := { w with dev := { w.dev with cmp := f w.dev.cmp } }

/-- Records per instance, and their updates. -/
def Dev.cl (d : Dev) (n : Nat) : Cluster := Tab.look .reset d.cmp.clusters n
def Dev.vu (d : Dev) (cl vu : Nat) : Vu := Tab.look .reset d.cmp.vus (4 * cl + vu)
def Dev.sag (d : Dev) (s : Nat) : Sag := Tab.look .reset d.cmp.sags s
def Dev.thr (d : Dev) (s : Nat) : Thr := Tab.look .reset d.cmp.thr s
def Dev.num (d : Dev) (s : Nat) : Num := Tab.look .reset d.cmp.num s
def Dev.mpage (d : Dev) (s : Nat) : MemPage := Tab.look .reset d.cmp.mem s
def Dev.cpage (d : Dev) (s : Nat) : CrvPage := Tab.look .reset d.cmp.crv.pages s
def Dev.q (d : Dev) (q : Nat) : DmaQ := Tab.look .reset d.dma.qs q
def Dev.port (d : Dev) (p : Nat) : Port := Tab.look .reset d.ports p
def Dev.quire (d : Dev) (i : Nat) : Quire := Tab.look .reset d.coll.quires i
def Dev.fn (d : Dev) (n : Nat) : PciFn := Tab.look .reset d.pci.fns n

/-- Every domain's record; a cluster stands OFFLINE and the hub, a port and a stack OFF until a start-up says otherwise (log
entry 2). -/
def Dev.dom (d : Dev) (n : Nat) : Dom :=
  Tab.look (Dom.at (if n < 256 then .offline else if n < 277 then .off else .active))
    d.pwr.doms n

def W.modCl (w : W) (n : Nat) (f : Cluster → Cluster) : W :=
  w.modCmp fun c => { c with clusters := Tab.put c.clusters n (f (Tab.look .reset c.clusters n)) }

def W.modVu (w : W) (cl vu : Nat) (f : Vu → Vu) : W :=
  w.modCmp fun c => { c with vus := Tab.put c.vus (4 * cl + vu) (f (Tab.look .reset c.vus (4 * cl + vu))) }

def W.modSag (w : W) (s : Nat) (f : Sag → Sag) : W :=
  w.modCmp fun c => { c with sags := Tab.put c.sags s (f (Tab.look .reset c.sags s)) }

def W.modThr (w : W) (s : Nat) (f : Thr → Thr) : W :=
  w.modCmp fun c => { c with thr := Tab.put c.thr s (f (Tab.look .reset c.thr s)) }

def W.modNum (w : W) (s : Nat) (f : Num → Num) : W :=
  w.modCmp fun c => { c with num := Tab.put c.num s (f (Tab.look .reset c.num s)) }

def W.modMem (w : W) (s : Nat) (f : MemPage → MemPage) : W :=
  w.modCmp fun c => { c with mem := Tab.put c.mem s (f (Tab.look .reset c.mem s)) }

def W.modCrv (w : W) (f : Crv → Crv) : W := w.modCmp fun c => { c with crv := f c.crv }

def W.modCpage (w : W) (s : Nat) (f : CrvPage → CrvPage) : W :=
  w.modCrv fun c => { c with pages := Tab.put c.pages s (f (Tab.look .reset c.pages s)) }

def W.modDev (w : W) (f : Dev → Dev) : W := { w with dev := f w.dev }

def W.modQ (w : W) (q : Nat) (f : DmaQ → DmaQ) : W :=
  w.modDev fun d => { d with dma := { d.dma with qs := Tab.put d.dma.qs q (f (d.q q)) } }

def W.modPci (w : W) (f : Pci → Pci) : W := w.modDev fun d => { d with pci := f d.pci }
def W.modCon (w : W) (f : Con → Con) : W := w.modDev fun d => { d with con := f d.con }
def W.modFab (w : W) (f : Fab → Fab) : W := w.modDev fun d => { d with fab := f d.fab }
def W.modColl (w : W) (f : Coll → Coll) : W := w.modDev fun d => { d with coll := f d.coll }
def W.modPwr (w : W) (f : Pwr → Pwr) : W := w.modDev fun d => { d with pwr := f d.pwr }
def W.modSup (w : W) (f : Sup → Sup) : W := w.modDev fun d => { d with sup := f d.sup }
def W.modAon (w : W) (f : Aon → Aon) : W := w.modDev fun d => { d with aon := f d.aon }
def W.modStart (w : W) (f : Start → Start) : W := w.modDev fun d => { d with start := f d.start }
def W.modLog (w : W) (f : Log → Log) : W := w.modDev fun d => { d with log := f d.log }
def W.modTemps (w : W) (f : Temps → Temps) : W := w.modDev fun d => { d with temps := f d.temps }
def W.modStage (w : W) (f : Stage → Stage) : W := w.modDev fun d => { d with stage := f d.stage }

def W.modPort (w : W) (p : Nat) (f : Port → Port) : W :=
  w.modDev fun d => { d with ports := Tab.put d.ports p (f (d.port p)) }

def W.modQuire (w : W) (i : Nat) (f : Quire → Quire) : W :=
  w.modColl fun c => { c with quires := Tab.put c.quires i (f (Tab.look .reset c.quires i)) }

def W.modDom (w : W) (n : Nat) (f : Dom → Dom) : W :=
  w.modDev fun d => { d with pwr := { d.pwr with doms := Tab.put d.pwr.doms n (f (d.dom n)) } }

/-- The place of a domain in the order of a commit (R489): hub, ports, stacks, clusters. -/
def stageOrder (n : Nat) : Nat := if n < 256 then n + 21 else n - 256

/-- The value of a setting in a domain (R491): the one being applied once the domain has applied it. -/
def Dev.setting (d : Dev) (k n : Nat) : Nat :=
  (Tab.look 0 (if d.stage.pend ∧ stageOrder n < d.stage.pos then d.stage.apply else d.stage.force) k).toNat

/-- Add to a saturating 32-bit counter of a table of counters (R11). -/
def cntAdd (t : Tab Word) (k n : Nat) : Tab Word :=
  Tab.put t k (BitVec.ofNat 32 (satAdd 32 (Tab.look 0 t k).toNat n))

/-- Saturating addition to a field (R11). -/
def satBv {w : Nat} (x : BitVec w) (n : Nat) : BitVec w := BitVec.ofNat w (satAdd w x.toNat n)

/-- Whether a generation may change: at most one of its kind in 10 µs (R483). -/
def Dev.genOpen (d : Dev) (last : Option Nat) : Bool := match last with | some t => decide (t + 10000 ≤ d.now) | none => true

end Sys2Proof.Machine
end

