-- ==== Sys2Proof/Machine/Events.lean ====
section
/-!
DEFINITION. What any unit raises: events for the log (R466, R470–R473, R485), MSI-X vectors (R228), corrected-error
counts (R211).
-/
namespace Sys2Proof.Machine

/-- Whether the hub is ACTIVE or IDLE (R472). -/
def Dev.hubLive (d : Dev) : Bool := (d.dom 256).cur == .active || (d.dom 256).cur == .idle

/-- The time an entry or a record takes (R470, R472): fabric time, with bit 63 where it is untrusted. The always-on
domain's continuation, taken while the hub sleeps, is untrusted. -/
def Dev.stampTime (d : Dev) : DWord :=
  if d.fab.untrusted || !d.hubLive then d.fab.time ||| 0x8000000000000000 else d.fab.time

/-- The class of an event code (R478): 0 info, 1 warn, 2 fault, 3 crit. -/
def codeClass (c : Nat) : Fin 4 :=
  if [0x0102, 0x0202, 0x0203, 0x0204, 0x0206, 0x0209, 0x0303, 0x0603].contains c then 3
  else if [0x0201, 0x0208, 0x0301, 0x0302, 0x0304, 0x0401, 0x0402, 0x0403, 0x0503, 0x0504, 0x0601, 0x0602, 0x0700,
      0x0805, 0x0807, 0x0901].contains c then 2
  else if [0x0100, 0x0101, 0x0107, 0x0800, 0x0801, 0x0804].contains c then 0
  else 1

/-- The codes marked "c" (R478). -/
def codeCoalesced (c : Nat) : Bool := [0x0207, 0x0300, 0x0301].contains c

/-- The data of an entry (R478): fields of 4 or 8 bytes, each at the next offset aligned to its size. -/
def logDataFrom : List Byte → List (Nat × Nat) → List Byte
  | acc, [] => acc
  | acc, (n, v) :: t =>
    let pad := (n - acc.length % n) % n
    logDataFrom (acc ++ List.replicate pad 0 ++ leBytes n v) t

def logData (fs : List (Nat × Nat)) : List Byte := logDataFrom [] fs

/-- Room in the event queue (R485). -/
def queueMax : Nat := 1024
def overMax : Nat := 64

/-- Merge an event into the overflow entry of its pair (R485). -/
def mergeOver (e : LogEvent) : List LogEvent → List LogEvent
  | [] => []
  | o :: t =>
    if o.code = e.code ∧ o.src = e.src then
      { o with data := e.data, time := e.time, sag := e.sag, occ := o.occ + e.occ, rep := o.occ + e.occ, vecs := o.vecs ++ e.vecs } :: t
    else o :: mergeOver e t

/-- An event reaches the always-on domain's queue, its overflow table, or is dropped (R485). -/
def Log.enqueue (l : Log) (now : Nat) (e : LogEvent) : Log :=
  if l.queue.length < queueMax ∧ l.overd = [] then { l with queue := l.queue ++ [e] }
  else if l.overd.any (fun o => o.code == e.code && o.src == e.src) then { l with overd := mergeOver e l.overd }
  else if l.overd.length < overMax then { l with overd := l.overd ++ [{ e with rep := e.occ }] }
  else
    { l with
      qdrop := satBv l.qdrop e.occ
      lostNote := l.lostNote || (match l.lostAt with | some t => decide (t + 1000000000 ≤ now) | none => true)
      lostAt := match l.lostAt with
        | some t => if t + 1000000000 ≤ now then some now else some t
        | none => some now }

/-- Note an occurrence in the window of its pair (R473). -/
def windowNote (e : LogEvent) : List LogWindow → List LogWindow
  | [] => []
  | x :: t => if x.code = e.code ∧ x.src = e.src then { x with n := x.n + 1, last := some e } :: t else x :: windowNote e t

/-- The always-on domain receives an event (R472, R473). -/
def W.received (w : W) (e : LogEvent) : W :=
  let e := { e with time := w.dev.stampTime }
  if codeCoalesced e.code then
    if w.dev.log.windows.any (fun x => x.code == e.code && x.src == e.src) then
      w.modLog fun l => { l with windows := windowNote e l.windows }
    else
      let w := w.modLog fun l => { l with windows := l.windows ++ [⟨e.code, e.src, w.dev.now, 0, none⟩] }
      w.modLog fun l => l.enqueue w.dev.now e
  else w.modLog fun l => l.enqueue w.dev.now e

/-- An event of a code and source (R466 step 3, R472, R473): received at once, or once the reports of its operations are out. -/
def W.event (w : W) (code src : Nat) (sag : Option Nat := none) (data : List (Nat × Nat) := []) : W :=
  let e : LogEvent := ⟨code, src, sag, logData data, w.dev.stampTime, 0, 1, [], w.rep⟩
  if w.rep.isEmpty then w.received e else w.modLog fun l => { l with hold := l.hold ++ [e] }

/-- Put an event into a rising order of source codes, behind its equals (R472). -/
def bySource (e : LogEvent) : List LogEvent → List LogEvent
  | [] => [e]
  | x :: t => if x.src ≤ e.src then x :: bySource e t else e :: x :: t

/-- The events that one instant brings, in ascending order of source code (R472). -/
def W.inOrder (w : W) (f : W → W) : W :=
  let n := w.dev.log.queue.length
  (f w).modLog fun l => { l with queue := l.queue.take n ++ (l.queue.drop n).foldl (fun acc e => bySource e acc) [] }

/-- An event whose data is a byte string (MARK, R478). -/
def W.eventBytes (w : W) (code src : Nat) (data : List Byte) : W :=
  w.modLog fun l => l.enqueue w.dev.now ⟨code, src, none, data, w.dev.stampTime, 0, 1, [], []⟩

/-- A source code of R471. -/
def srcOf (kind inst : Nat) : Nat := kind * 0x1000000 + inst

/-- An MSI-X vector's place in the table of vectors: function 0 is the physical function, v + 1 virtual function v. -/
def vecKey (fn vec : Nat) : Nat := fn * 512 + vec

/-- Fire a vector (R228): sent when unmasked and the link is up, else pending. -/
def W.fire (w : W) (fn vec : Nat) : W :=
  let v := Tab.look Vec.reset w.dev.pci.vecs (vecKey fn vec)
  if v.masked || !w.dev.pci.up then
    w.modPci fun p => { p with vecs := Tab.put p.vecs (vecKey fn vec) { v with pending := true } }
  else w.out (.msix fn vec)

/-- The virtual function whose valid mapping names a saggar (R224), while VF Enable is 1. -/
def Dev.vfOf (d : Dev) (s : Nat) : Option Nat :=
  if d.pci.vfEnable then
    (List.range 64).find? fun v => (Tab.look 0 d.pci.vfmap v).toNat == 0x80 + s
  else none

/-- The requester identity of a saggar (R225): function 0 or v + 1. -/
def Dev.fnOf (d : Dev) (s : Nat) : Nat := match d.vfOf s with | some v => v + 1 | none => 0

/-- Put a vector behind the last of some events that answers a test; none where no event does. -/
def vecBehind (mine : LogEvent → Bool) (x : Nat × Nat) : List LogEvent → Option (List LogEvent)
  | [] => none
  | e :: t =>
    match vecBehind mine x t with
    | some t => some (e :: t)
    | none => if mine e then some ({ e with vecs := e.vecs ++ [x] } :: t) else none

/-- Fire a vector of a fault after its log entry (R466): behind the last event of it that still waits to be written, else now. -/
def W.fireBehind (w : W) (mine : LogEvent → Bool) (x : Nat × Nat) : W :=
  match vecBehind mine x w.dev.log.hold, vecBehind mine x w.dev.log.overd, vecBehind mine x w.dev.log.queue with
  | some l, _, _ => w.modLog fun g => { g with hold := l }
  | none, some l, _ => w.modLog fun g => { g with overd := l }
  | none, none, some l => w.modLog fun g => { g with queue := l }
  | none, none, none => w.fire x.1 x.2

/-- A poison entry, fault record or trap record has filled in a saggar (R228): vector 258 of the physical function, and
vector 2 of the function that maps the saggar, after what the log holds of its faults (R466). -/
def W.fireSag (w : W) (s : Nat) : W :=
  let mine (e : LogEvent) : Bool := e.sag == some s
  let w := w.fireBehind mine (0, 258)
  match w.dev.vfOf s with
  | some v => w.fireBehind mine (v + 1, 2)
  | none => w

/-- A completion with irq = 1 on a queue (R228), after what the log holds of the queue's faults (R466). -/
def W.fireQueue (w : W) (q : Nat) : W :=
  w.fireBehind (fun e => e.src == srcOf 5 q) (match w.dev.vfOf (q / 2) with | some v => (v + 1, q % 2) | none => (0, q))

/-- Corrected errors of a source (R211): counted in MEM.CECC; above 64 in the last second an event (R478). -/
def W.corrected (w : W) (src n : Nat) : W :=
  if n = 0 then w
  else
    let w := w.modCmp fun c => { c with cecc := satBv c.cecc n }
    let cerr := (w.dev.log.cerr.filter fun x => decide (w.dev.now < x.2.1 + 1000000000)) ++ [(src, w.dev.now, n)]
    let w := w.modLog fun l => { l with cerr := cerr }
    let sum := ((cerr.filter fun x => x.1 == src).map fun x => x.2.2).sum
    if 64 < sum then w.event 0x0300 src none [(4, sum)] else w

end Sys2Proof.Machine
end

