-- ==== Sys2Proof/Machine/ConBase.lean ====
section
/-!
DEFINITION. The console's ports and sessions as other units meet them: output and its framing (R248, R249, R265), notices
(R267, R295), session resets (R275).
-/
namespace Sys2Proof.Machine

def crlf : List Byte := [0x0D, 0x0A]
def promptText : List Byte := txt "gr> "

def Dev.sess (d : Dev) (n : Nat) : Session := if n = 0 then d.con.s0 else d.con.s1

def W.modSess (w : W) (n : Nat) (f : Session → Session) : W :=
  w.modCon fun c => if n = 0 then { c with s0 := f c.s0 } else { c with s1 := f c.s1 }

/-- Whether the ring session exists (R250). -/
def Dev.ringUp (d : Dev) : Bool := d.pci.up && !d.pci.slow

/-- Whether a session exists (R250). -/
def Dev.sessUp (d : Dev) (n : Nat) : Bool := n == 0 || d.ringUp

/-- The time of one UART character in ns, 10 bits at the strapped rate (R247). -/
def Dev.charNs (d : Dev) : Nat := [86806, 10851, 5000, 3333].getD (bits d.start.strap.toNat 1 0) 86806

/-- Free room in the transmit buffer and in the output ring (R248, R249). -/
def Con.txRoom (c : Con) : Nat := 8192 - c.tx.length
def Con.ringRoom (c : Con) : Nat := 4096 - (c.oprod - c.ocons).toNat

/-- Put bytes into the output ring's window (R249). -/
def ringPut (buf : Tab Byte) : Nat → List Byte → Tab Byte
  | _, [] => buf
  | i, b :: t => ringPut (Tab.put buf (i % 4096) b) ((i + 1) % 65536) t

/-- Move what waits in a session to its port as far as there is room (R248, R249, R274); vector 256 for each complete line
of a response or notice. -/
def W.conPump (w : W) (n : Nat) : W :=
  let c := w.dev.con
  if n = 0 then
    let k := c.txRoom
    w.modCon fun c => { c with tx := c.tx ++ (c.s0.out.take k).map Prod.fst, s0 := { c.s0 with out := c.s0.out.drop k }
                               txAt := if c.tx = [] then w.dev.now else c.txAt }
  else if !w.dev.ringUp then w.modSess 1 fun s => { s with out := [] }
  else
    let now := c.s1.out.take c.ringRoom
    let w := w.modCon fun c => { c with outBuf := ringPut c.outBuf c.oprod.toNat (now.map Prod.fst)
                                        oprod := c.oprod + BitVec.ofNat 16 now.length
                                        s1 := { c.s1 with out := c.s1.out.drop now.length } }
    if c.irq then (now.filter fun x => x.2).foldl (fun w _ => w.fire 0 256) w else w

/-- Bytes for a session's output; `line` says that they end a line of a response or notice. -/
def W.conPut (w : W) (n : Nat) (bytes : List Byte) (line : Bool) : W :=
  if !w.dev.sessUp n ∨ bytes = [] then w
  else
    let marked := (bytes.dropLast.map fun b => (b, false)) ++ [(bytes.getLastD 0, line)]
    (w.modSess n fun s => { s with out := s.out ++ marked }).conPump n

/-- A line's text within a number of bytes (R265, R280; log entry 35): a string that ends it is shortened, else its last pairs
are left out. -/
def fitText (n : Nat) (l : List Byte) : List Byte :=
  if l.length ≤ n then l
  else if l.getLastD 0 = 0x22 ∧ (l.take (n - 1)).contains 0x22 = true then l.take (n - 1) ++ [0x22]
  else ((l.take (n + 1)).reverse.dropWhile (· ≠ 0x20)).reverse.dropLast

/-- A line of output, framed in machine mode under a tag (R260, R261, R265). -/
def frameLine (tag : Option (List Byte)) (body : List Byte) : List Byte :=
  match tag with
  | none => fitText 256 body ++ crlf
  | some t =>
    let l := 0x40 :: t ++ 0x20 :: fitText 245 body
    l ++ 0x2A :: hexLow 4 (crc16 l) ++ crlf

/-- Which bytes of a line stand in a token (R253, R254): not a space outside a string, nor a comment. -/
def inToken : Bool → List Byte → List Bool
  | _, [] => []
  | true, b :: t => true :: inToken (b ≠ 0x22) t
  | false, b :: t => if b = 0x23 then false :: t.map fun _ => false else (b ≠ 0x20) :: inToken (b = 0x22) t

/-- The places at which a run of set flags begins. -/
def runStarts : Bool → Nat → List Bool → List Nat
  | _, _, [] => []
  | prev, i, x :: t => if x && !prev then i :: runStarts x (i + 1) t else runStarts x (i + 1) t

/-- The start offsets of the tokens of a line. -/
def tokStarts (l : List Byte) : List Nat := runStarts false 0 (inToken false l)

/-- From where on a line is masked: the fourth token of a line that begins with `key set` (R259). -/
def maskFrom (l : List Byte) : Option Nat :=
  if (splitLine l).take 2 = [txt "key", txt "set"] then (tokStarts l)[3]? else none

/-- A line as it is echoed (R259). -/
def maskLine (l : List Byte) : List Byte :=
  match maskFrom l with
  | some k => l.zipIdx.map fun x => if x.2 < k ∨ x.1 = 0x20 then x.1 else 0x2A
  | none => l

/-- A notice (R267): framed under tag 0000 in machine mode; on a fresh line, with the prompt and the partial line after it,
in interactive mode; without room it is discarded and counted. -/
def W.notice (w : W) (n : Nat) (body : List Byte) : W :=
  let s := w.dev.sess n
  let line := frameLine (if s.machine then some (txt "0000") else none) (txt "! " ++ body)
  let typed : Bool := !s.machine && (s.prompt || s.partl ≠ [])
  let pre := if typed then crlf else []
  let post := if typed then promptText ++ maskLine s.partl else []
  let room := if n = 0 then w.dev.con.txRoom else w.dev.con.ringRoom
  if !w.dev.sessUp n ∨ s.out ≠ [] ∨ room < (pre ++ line ++ post).length then
    w.modCon fun c => { c with drop := satBv c.drop 1 }
  else (((w.conPut n pre false).conPut n line true).conPut n post false).modSess n fun s => { s with prompt := s.prompt || typed }

/-- The claims of a holder are released (R273). -/
def W.freeClaims (w : W) (holder : BitVec 2) : W :=
  w.modCon fun c => { c with claims := Tab.mapV (fun _ h => if h = holder then 0 else h) c.claims }

/-- The starting state of a session, its history kept on session 0 (R251, R275). A lockout stands (log entry 27). -/
def Session.restart (n : Nat) (s : Session) : Session :=
  { Session.start n with history := if n = 0 then s.history else [], wrongs := s.wrongs, lockUntil := s.lockUntil
                         out := if n = 0 then s.out else [], lastLine := s.lastLine }

/-- Reset a session (R275): the response of its running command is discarded. -/
def W.resetSess (w : W) (n : Nat) : W :=
  let w := (w.modSess n (Session.restart n)).freeClaims (BitVec.ofNat 2 (n + 1))
  let w := w.modSess n fun s => { s with lastLine := w.dev.now, uop := w.dev.con.uop, idle := w.dev.con.idle }
  let w := w.modCon fun c => { c with run := c.run.map fun r => if r.sess = n then { r with wanted := false } else r }
  if n = 0 then
    (w.conPut 0 (crlf ++ promptText) false).modSess 0 fun s => { s with prompt := true }
  else w

/-- The ring session is reset and its indices become zero (R250, R512). -/
def W.ringReset (w : W) : W :=
  (w.resetSess 1).modCon fun c => { c with iprod := 0, icons := 0, oprod := 0, ocons := 0 }

end Sys2Proof.Machine
end

