-- ==== Sys2Proof/Machine/ConFeed.lean ====
section
/-!
DEFINITION. The line discipline of a session (R253, R256–R259, R264), and the input of the two ports (R248, R249, R272).
-/
namespace Sys2Proof.Machine

/-- Echo in interactive mode (R256). -/
def W.echo (w : W) (n : Nat) (l : List Byte) : W := if (w.dev.sess n).machine then w else w.conPut n l false

/-- Erase characters at the end of the line (R257). -/
def erase : Nat → List Byte
  | 0 => []
  | n + 1 => [0x08, 0x20, 0x08] ++ erase n

/-- The prompt, with the line as typed so far (R256); in machine mode none is written (R260). -/
def W.putPrompt (w : W) (n : Nat) : W :=
  if (w.dev.sess n).machine then w
  else (w.conPut n (promptText ++ maskLine (w.dev.sess n).partl) false).modSess n fun s => { s with prompt := true }

/-- Apply a mode that waits for its response to be placed (R264); a partial line is discarded. -/
def W.modeApply (w : W) (n : Nat) : W :=
  let s := w.dev.sess n
  match s.modeNext with
  | none => w
  | some m =>
    if s.out ≠ [] then w
    else if m = s.machine then w.modSess n fun s => { s with modeNext := none }
    else
      let w := w.modSess n fun s =>
        { s with machine := m, modeNext := none, partl := [], long := false, lossy := false, esc := [], histPos := none, prompt := false }
      if m then w else w.putPrompt n

/-- Store a byte of the line and echo it, masked where R259 asks for it (R253, R256). -/
def W.storeByte (w : W) (n : Nat) (b : Byte) : W :=
  let s := w.dev.sess n
  if lineMax ≤ s.partl.length then w.modSess n fun s => { s with long := true }
  else
    let l := s.partl ++ [b]
    (w.modSess n fun s => { s with partl := l }).echo n [(maskLine l).getLastD b]

/-- Replace the line (R257, R258). -/
def W.replaceLine (w : W) (n : Nat) (l : List Byte) (pos : Option Nat) : W :=
  let s := w.dev.sess n
  (w.echo n (erase s.partl.length ++ l)).modSess n fun s => { s with partl := l, histPos := pos, long := false }

/-- ESC [ A and ESC [ B (R257, R258). -/
def W.recall (w : W) (n : Nat) (up : Bool) : W :=
  let s := w.dev.sess n
  let k := s.history.length
  let entry (i : Nat) : List Byte := s.history.getD (k - 1 - i) []
  if up then
    if k = 0 then w
    else
      let i := match s.histPos with | some i => min (i + 1) (k - 1) | none => 0
      w.replaceLine n (entry i) (some i)
  else match s.histPos with
    | some 0 => w.replaceLine n [] none
    | some (i + 1) => w.replaceLine n (entry i) (some i)
    | none => w

/-- CON.CFG takes effect for a session at a line it completes; a lowered idle limit that has already elapsed ends the idle
period (R274, R276). -/
def W.idleEnd (w : W) (n : Nat) : W :=
  let w := w.modSess n fun s => { s with idleDone := true, priv := if n = 1 then 1 else 0 }
  (w.freeClaims (BitVec.ofNat 2 (n + 1))).event 0x0804 (srcOf 0x0A n)

/-- Whether a session has been idle for a limit in seconds. -/
def Session.idleOver (s : Session) (idle : BitVec 16) (now : Nat) : Bool :=
  idle ≠ 0 && !s.idleDone && decide (s.lastLine + idle.toNat * 1000000000 ≤ now)

def W.sessCfg (w : W) (n : Nat) : W :=
  let c := w.dev.con
  let w := if (w.dev.sess n).idleOver c.idle w.dev.now then w.idleEnd n else w
  w.modSess n fun s => { s with uop := c.uop, idle := c.idle, lastLine := w.dev.now, idleDone := false }

/-- A queued line that is ignored and draws only the prompt (R253). -/
def QLine.ignored (q : QLine) : Bool := q.err.isNone && !q.machine && lineIgnored q.bytes

/-- Lines that wait to be executed or answered: not those discarded with er 108 already, nor those that draw no response (R252). -/
def Session.waitingLines (s : Session) : Nat := (s.queue.filter fun q => q.err ≠ some 108 && q.err ≠ some 110 && !q.ignored).length

def Con.busyWith (c : Con) (n : Nat) : Bool := match c.run with | some r => r.sess == n | none => false

/-- Put what a terminator ends into the session's queue (R248, R252, R253). An ignored line draws only the prompt. -/
def W.queueLine (w : W) (n : Nat) (s : Session) : W :=
  let err : Option Nat := if s.lossy then some 109 else if s.long then some 100 else none
  let ignored := err.isNone && (if s.machine then s.partl.all (· == 0x20) else lineIgnored s.partl)
  if ignored then
    if s.machine then w
    else if s.queue = [] ∧ !w.dev.con.busyWith n then w.putPrompt n
    else w.modSess n fun s => { s with queue := s.queue ++ [⟨[], false, none⟩] }
  else if 4 ≤ s.waitingLines then w.modSess n fun x => { x with queue := x.queue ++ [⟨s.partl, s.machine, some 108⟩] }
  else w.modSess n fun x => { x with queue := x.queue ++ [⟨s.partl, s.machine, err⟩] }

/-- A terminator ends the line (R253, R256). -/
def W.completeLine (w : W) (n : Nat) : W :=
  let s := w.dev.sess n
  let w := (w.echo n crlf).modSess n fun s =>
    { s with partl := [], long := false, lossy := false, esc := [], histPos := none, prompt := false }
  (w.sessCfg n).queueLine n s

/-- How many bytes ^W removes: the last token with what stands behind it, and the spaces before it; of a line without a token,
the spaces at its end (R257; log entry 35). -/
def wordLen (l : List Byte) : Nat :=
  let head := match (tokStarts l).getLast? with | some i => l.take i | none => l
  l.length - (head.reverse.dropWhile (· == 0x20)).length

/-- An editing byte of interactive mode (R257). -/
def W.editByte (w : W) (n : Nat) (b : Byte) : W :=
  let s := w.dev.sess n
  match b.toNat with
  | 0x08 | 0x7F =>
    if s.partl = [] then w else (w.modSess n fun s => { s with partl := s.partl.dropLast }).echo n (erase 1)
  | 0x09 => w.storeByte n 0x20
  | 0x15 => ((w.echo n (erase (promptText.length + s.partl.length))).modSess n fun s => { s with partl := [], long := false }).putPrompt n
  | 0x17 =>
    let k := wordLen s.partl
    (w.modSess n fun s => { s with partl := s.partl.take (s.partl.length - k) }).echo n (erase k)
  | 0x0C => (w.echo n crlf).putPrompt n
  | 0x03 =>
    let w := w.modSess n fun s => { s with partl := [], long := false, lossy := false, histPos := none }
    let w := (w.echo n (txt "^C" ++ crlf)).putPrompt n
    w.modCon fun c => { c with run := c.run.map fun r => if r.sess = n then { r with cancel := true } else r }
  | 0x1B => w.modSess n fun s => { s with esc := [0x1B] }
  | _ => w

/-- One byte of a session's input. -/
def W.feedByte (w : W) (n : Nat) (b : Byte) : W :=
  let s := w.dev.sess n
  let wasCr := s.sawCr
  let w := w.modSess n fun s => { s with sawCr := b == 0x0D, lastByte := w.dev.now }
  if b = 0x0A ∧ wasCr then w
  else if b = 0x0D ∨ b = 0x0A then w.completeLine n
  else if s.machine then w.storeByte n b
  else if 0x20 ≤ b.toNat ∧ b.toNat ≤ 0x7E then w.storeByte n b
  else w.editByte n b

/-- A byte of an ESC sequence (R257): it continues the sequence, ends it, or is not part of it. -/
def W.feed (w : W) (n : Nat) (b : Byte) : W :=
  let w := w.modeApply n
  let s := w.dev.sess n
  let v := b.toNat
  let done (w : W) : W := w.modSess n fun s => { s with esc := [], lastByte := w.dev.now }
  match s.esc with
  | [] => w.feedByte n b
  | [_] =>
    if b = 0x5B then w.modSess n fun s => { s with esc := [0x1B, 0x5B], lastByte := w.dev.now }
    else if 0x20 ≤ v ∧ v ≤ 0x7E then done w
    else (done w).feedByte n b
  | _ :: _ :: more =>
    if 0x20 ≤ v ∧ v ≤ 0x3F then w.modSess n fun s => { s with esc := s.esc ++ [b], lastByte := w.dev.now }
    else if (v = 0x41 ∨ v = 0x42) ∧ more = [] then (done w).recall n (v == 0x41)
    else if 0x20 ≤ v ∧ v ≤ 0x7E then done w
    else (done w).feedByte n b

/-- A byte of the UART is lost: the line it belonged to is not executed (R248). -/
def W.loseByte (w : W) : W := (w.modeApply 0).modSess 0 fun s => { s with lossy := true, sawCr := false, lastByte := w.dev.now }

/-- The management core processes what the receive buffer holds (R248). -/
def W.conWake (w : W) : W :=
  w.dev.con.rx.foldl (fun w x => if x.2 then w.loseByte else w.feed 0 x.1) (w.modCon fun c => { c with rx := [] })

/-- A byte arrives on the UART (R248). -/
def W.uartIn (w : W) (b : Byte) (framing awake : Bool) : W :=
  if awake then
    let w := w.conWake
    if framing then (w.modCon fun c => { c with frm := satBv c.frm 1 }).loseByte else w.feed 0 b
  else if framing then w.modCon fun c => { c with frm := satBv c.frm 1, rx := c.rx ++ [(0, true)] }
  else if 1024 ≤ (w.dev.con.rx.filter fun x => !x.2).length then
    w.modCon fun c => { c with ovr := satBv c.ovr 1, rx := c.rx ++ [(0, true)] }
  else w.modCon fun c => { c with rx := c.rx ++ [(b, false)] }

/-- A write to CON.IPROD (R249); the device reads what it posts. -/
def W.iprod (w : W) (v : BitVec 16) : W :=
  let c := w.dev.con
  let lead := (v - c.icons).toNat
  if !w.dev.ringUp ∨ v = c.iprod then w
  else if 1024 < lead ∨ lead < (c.iprod - c.icons).toNat then w.modCon fun c => { c with overd := true }
  else
    let bytes := (List.range lead).map fun i => Tab.look 0 c.inBuf ((c.icons.toNat + i) % 1024)
    bytes.foldl (fun w b => w.feed 1 b) (w.modCon fun c => { c with iprod := v, icons := v })

/-- A write to CON.OCONS (R249): room for output that waits. -/
def W.ocons (w : W) (v : BitVec 16) : W :=
  let c := w.dev.con
  if !w.dev.ringUp ∨ v = c.ocons then w
  else if (c.oprod - c.ocons).toNat < (v - c.ocons).toNat then w.modCon fun c => { c with overd := true }
  else (w.modCon fun c => { c with ocons := v }).conPump 1

/-- A write to CON.RCTL (R278). -/
def W.rctl (w : W) (v : Word) : W :=
  let w := w.modCon fun c => { c with irq := v.getLsbD 1 }
  if v.getLsbD 0 then w.resetSess 1 else w

def claimHolder (c : Con) (k : Nat) : BitVec 2 := Tab.look 0 c.claims k

def W.setClaim (w : W) (k : Nat) (h : BitVec 2) : W := w.modCon fun c => { c with claims := Tab.put c.claims k h }

/-- Give up the resources that a running command held for its duration (R272). -/
def W.dropImplicit (w : W) (r : Running) : W :=
  r.implicit.foldl (fun w k => if claimHolder w.dev.con k = BitVec.ofNat 2 (r.sess + 1) then w.setClaim k 0 else w) w

/-- A write to CON.CLAIM (R272, R278). -/
def W.driverClaim (w : W) (k req : Nat) : W :=
  let h := claimHolder w.dev.con k
  if 14 ≤ k then w
  else if req = 1 ∧ h = 0 then w.setClaim k 3
  else if req = 2 ∧ h = 3 then w.setClaim k 0
  else w

end Sys2Proof.Machine
end

