-- ==== Sys2Proof/Machine/Aes.lean ====
section
/-!
DEFINITION. AES-256 and the GCM mode of NIST SP 800-38D (R13, R318). A state block is a list of 16 bytes, in the order
of the standard.
-/
namespace Sys2Proof

/-- Multiply by x in the AES field. -/
def xtime (a : Nat) : Nat := if a < 128 then 2 * a else ((2 * a) % 256) ^^^ 0x1B

/-- Product in the AES field, by `n` steps over the bits of `b`. -/
def gmul : Nat → Nat → Nat → Nat
  | 0, _, _ => 0
  | n + 1, a, b => (if b % 2 = 1 then a else 0) ^^^ gmul n (xtime a) (b / 2)

/-- a^254, the inverse in the AES field (0 for 0). -/
def ginv (a : Nat) : Nat :=
  let m := gmul 8
  let a2 := m a a
  let a3 := m a2 a
  let a6 := m a3 a3
  let a7 := m a6 a
  let a14 := m a7 a7
  let a15 := m a14 a
  let a30 := m a15 a15
  let a31 := m a30 a
  let a62 := m a31 a31
  let a63 := m a62 a
  let a126 := m a63 a63
  let a127 := m a126 a
  m a127 a127

def rotl8 (x n : Nat) : Nat := ((x <<< n) % 256) ||| (x >>> (8 - n))

/-- The S-box of FIPS 197: the inverse followed by the affine map. -/
def sbox (a : Nat) : Nat :=
  let b := ginv a
  b ^^^ rotl8 b 1 ^^^ rotl8 b 2 ^^^ rotl8 b 3 ^^^ rotl8 b 4 ^^^ 0x63

def xorL (a b : List Nat) : List Nat := List.zipWith (· ^^^ ·) a b

/-- Key expansion of AES-256, newest word first: `i` counts words, `rc` is the round constant. -/
def keyExpand : Nat → Nat → Nat → List (List Nat) → List (List Nat)
  | 0, _, _, w => w
  | n + 1, i, rc, w =>
    let prev := w.headD []
    let old := w.getD 7 []
    let t :=
      if i % 8 = 0 then
        let r := (prev.drop 1 ++ prev.take 1).map sbox
        xorL r [rc, 0, 0, 0]
      else if i % 8 = 4 then prev.map sbox
      else prev
    keyExpand n (i + 1) (if i % 8 = 0 then xtime rc else rc) (xorL old t :: w)

/-- The 15 round keys of AES-256, 16 bytes each. -/
def roundKeys (key : List Byte) : List (List Nat) :=
  let kb := key.map BitVec.toNat
  let w0 := (List.range 8).map (fun i => (kb.drop (4 * i)).take 4)
  let w := (keyExpand 52 8 1 w0.reverse).reverse
  (List.range 15).map (fun r => ((w.drop (4 * r)).take 4).flatten)

def shiftRows (s : List Nat) : List Nat :=
  (List.range 16).map (fun i => s.getD ((i + 4 * (i % 4)) % 16) 0)

def mixColumn (c : List Nat) : List Nat :=
  let a := fun i => c.getD (i % 4) 0
  (List.range 4).map (fun i => xtime (a i) ^^^ (xtime (a (i + 1)) ^^^ a (i + 1)) ^^^ a (i + 2) ^^^ a (i + 3))

def mixColumns (s : List Nat) : List Nat :=
  (List.range 4).flatMap (fun c => mixColumn ((s.drop (4 * c)).take 4))

/-- One AES-256 block encryption. -/
def aesBlock (rk : List (List Nat)) (blk : List Nat) : List Nat :=
  let s0 := xorL blk (rk.getD 0 [])
  let s := (List.range 13).foldl (fun s r => xorL (mixColumns (shiftRows (s.map sbox))) (rk.getD (r + 1) [])) s0
  xorL (shiftRows (s.map sbox)) (rk.getD 14 [])

/-- The product of GHASH: blocks as 128-bit numbers, most significant bit first. -/
def ghashMul : Nat → Nat → Nat → Nat → Nat
  | 0, _, _, z => z
  | n + 1, x, v, z =>
    let z' := if x.testBit n then z ^^^ v else z
    let v' := if v % 2 = 1 then (v / 2) ^^^ (0xE1 <<< 120) else v / 2
    ghashMul n x v' z'

def natOfBytes (l : List Nat) : Nat := l.foldl (fun a b => a * 256 + b) 0

/-- GHASH over whole 16-byte blocks. -/
def ghash (h : Nat) : Nat → List Nat → Nat → Nat
  | 0, _, y => y
  | n + 1, l, y => ghash h n (l.drop 16) (ghashMul 128 (y ^^^ natOfBytes (l.take 16)) h 0)

def padBlock (l : List Nat) : List Nat := l ++ List.replicate ((16 - l.length % 16) % 16) 0

/-- The 16 bytes of a number, most significant first. -/
def bytes16 (x : Nat) : List Nat := (List.range 16).map (fun i => (x >>> (8 * (15 - i))) % 256)

/-- The key stream of GCM from counter `c`, `n` blocks. -/
def gctr (rk : List (List Nat)) (iv : List Nat) : Nat → Nat → List Nat
  | 0, _ => []
  | n + 1, c =>
    aesBlock rk (iv ++ [(c >>> 24) % 256, (c >>> 16) % 256, (c >>> 8) % 256, c % 256]) ++ gctr rk iv n (c + 1)

/-- AES-256-GCM with a 96-bit nonce: the text in cipher (the same stream both ways), and the tag over the associated
data and the given ciphertext. -/
def gcmCrypt (key iv : List Byte) (text : List Byte) : List Byte :=
  let rk := roundKeys key
  let ks := gctr rk (iv.map BitVec.toNat) (cdiv text.length 16) 2
  List.zipWith (fun t k => t ^^^ BitVec.ofNat 8 k) text ks

def gcmTag (key iv aad cipher : List Byte) : List Byte :=
  let rk := roundKeys key
  let h := natOfBytes (aesBlock rk (List.replicate 16 0))
  let a := padBlock (aad.map BitVec.toNat)
  let c := padBlock (cipher.map BitVec.toNat)
  let lens := bytes16 ((8 * aad.length) * 2 ^ 64 + 8 * cipher.length)
  let all := a ++ c ++ lens
  let s := ghash h (all.length / 16) all 0
  let j0 := aesBlock rk (iv.map BitVec.toNat ++ [0, 0, 0, 1])
  (xorL (bytes16 s) j0).map (BitVec.ofNat 8)

end Sys2Proof
end

