-- ==== Sys2Proof/Machine/Wake.lean ====
section
/-!
DEFINITION. Whether a domain takes work, and raising a wake (R27, R28, R391, R399, R400, R402).
-/
namespace Sys2Proof.Machine

def hubDom : Nat := 256
def portDom (p : Nat) : Nat := 257 + p
def hbmDom (s : Nat) : Nat := 269 + s

/-- The stack of an HBM3E physical address (R209). -/
def hbmStack (a : Nat) : Nat := 4 * (if a < 0x1800000000 then 0 else 1) + bits a 13 12

/-- The die of a cluster: 0 for C0, 1 for C1. -/
def dieOf (cl : Nat) : Nat := if cl < 128 then 0 else 1

/-- Whether a domain is past the commit point of an entry (R392 step 4). -/
def Dom.committed (x : Dom) : Bool := match x.entry with | some e => e.committed | none => false

/-- Whether a domain takes new work: ACTIVE and not past a commit point (R392). -/
def Dev.admits (d : Dev) (n : Nat) : Bool := (d.dom n).cur == .active && !(d.dom n).committed

/-- Whether a forced entry of the hub has stopped the hub's work and waits for what R396 steps 3 and 4 name before it takes the
dependents down (log entry 26). -/
def Dom.taking (x : Dom) : Bool := match x.entry with | some e => e.way == .forced && e.committed && e.cascading | none => false

/-- Whether the hub carries its dependents: it takes work, or a forced entry of it has not taken them down yet (R27, R399). -/
def Dev.hubCarries (d : Dev) : Bool := d.admits hubDom || ((d.dom hubDom).cur == .active && (d.dom hubDom).taking)

/-- Whether wake events are discarded: the phase lock, or FAILED (R418, R444). -/
def Dev.lockedOut (d : Dev) : Bool := d.sup.lock || d.start.state == .failed

/-- Restart a domain's idle timer (R391). -/
def W.touch (w : W) (n : Nat) : W := w.modDom n fun x => { x with idleAt := w.dev.now }

/-- Cluster wakes from BANKED started in the last 2 µs (R402). -/
def Pwr.recentWaves (p : Pwr) (now : Nat) : List Nat := p.waves.filter fun t => decide (now < t + 2000)

/-- Start a wake that waits: a dependent's under a hub that carries it (R27, R399), a cluster's once the
die-to-die links are up (R27, R403 step 8) and the wave limit of R402 allows, none under the phase lock or in FAILED (R418, R444). -/
def W.tryStart (w : W) (n : Nat) : W :=
  let x := w.dev.dom n
  match x.wake with
  | some k =>
    if k.started ∨ w.dev.lockedOut then w
    else if n ≠ hubDom ∧ !w.dev.hubCarries then w
    else if n < 256 ∧ w.dev.pwr.linksDown then w
    else if n < 256 ∧ x.cur = .banked then
      let rec_ := w.dev.pwr.recentWaves w.dev.now
      if rec_.length < 32 then
        let w := w.modPwr fun p => { p with waves := rec_ ++ [w.dev.now] }
        w.modDom n fun x => { x with wake := some { k with started := true, step := 1 } }
      else w
    else w.modDom n fun x => { x with wake := some { k with started := true, step := 1 } }
  | none => w

/-- Set a wake of a sleeping domain going, towards a state; one that is set already rises to ACTIVE with it. -/
def W.beginWake (w : W) (n : Nat) (into : PSt) : W :=
  let w := w.modDom n fun x =>
    let k : Wake := match x.wake with
      | some k => { k with into := if into = .active then .active else k.into }
      | none => ⟨false, 0, into⟩
    { x with wake := some k, tgt := k.into }
  w.tryStart n

/-- Count a wake raised by an access (R28, R398). -/
def W.countWake (w : W) (n : Nat) (access : Bool) : W :=
  if access then w.modDom n fun x => { x with wakes := satBv x.wakes 1 } else w

/-- Latch a wake until the handshake under way has ended; `fresh` says that it is not counted yet. -/
def W.latch (w : W) (n : Nat) (access fresh : Bool) : W :=
  if (w.dev.dom n).late then w else (w.countWake n (access && fresh)).modDom n fun x => { x with late := true, lateAcc := access }

/-- Latch a wake of a domain past its commit point, as a late wake (R399). -/
def W.lateWake (w : W) (n : Nat) (access fresh : Bool) : W :=
  if (w.dev.dom n).late then w else (w.latch n access fresh).modDom n fun x => { x with lates := satBv x.lates 1 }

/-- A wake event of the hub itself (R399, R400); in IDLE within its handshake it is latched until that ends. -/
def W.raiseHub (w : W) (access : Bool) : W :=
  let x := w.dev.dom hubDom
  if x.committed then w.lateWake hubDom access true
  else if x.cur = .active ∨ x.wake.isSome then w
  else if x.entry.isSome then w.latch hubDom access true
  else (w.countWake hubDom access).beginWake hubDom .active

/-- Whether an entry of the hub holds a wake of a domain (R399). -/
def Pwr.holds (p : Pwr) (n : Nat) : Bool := p.heldWakes.any fun y => y.1 == n

/-- Wake a sleeping dependent of the hub (R27, R399): held while an entry of the hub runs, behind a late wake of the hub past the
hub's commit point, else with the hub first. -/
def W.wakeDep (w : W) (n : Nat) (access : Bool) : W :=
  match (w.dev.dom hubDom).entry with
  | some e =>
    if (w.dev.dom hubDom).taking then w.beginWake n .active
    else if e.committed then (w.lateWake hubDom access true).beginWake n .active
    else if w.dev.pwr.holds n then w
    else w.modPwr fun p => { p with heldWakes := p.heldWakes ++ [(n, access)] }
  | none => (w.raiseHub access).beginWake n .active

/-- A wake event of a domain that may be woken (R27, R28, R399, R400); `fresh` says that it is not counted against the domain yet. -/
def W.raiseWakeNow (w : W) (n : Nat) (access fresh : Bool) : W :=
  let x := w.dev.dom n
  if n = 277 ∨ x.cur = .off ∨ x.cur = .offline then w
  else if n = hubDom then w.raiseHub (access && fresh)
  else match x.entry, x.wake with
    | some e, _ => if e.committed then w.lateWake n access fresh else if x.cur = .active then w.touch n else w.latch n access fresh
    | none, some k => (w.countWake n (access && fresh && k.into ≠ .active)).beginWake n .active
    | none, none =>
      if x.cur = .active then w.touch n
      else if w.dev.pwr.holds n then w
      else (w.countWake n (access && fresh)).wakeDep n access

/-- Latch a wake event after a thermal banking (R463), and whether an access has raised it. -/
def W.latchWake (w : W) (n : Nat) (access : Bool) : W :=
  w.modTemps fun t =>
    { t with latched := if t.latched.any fun x => x.1 == n then t.latched.map fun x => if x.1 = n then (n, x.2 || access) else x
                        else t.latched ++ [(n, access)] }

/-- A wake event of a domain: discarded under the phase lock (R418), latched after a thermal banking (R463), else
raised. `access` says that it is an access under R28, which R398 counts. -/
def W.raiseWake (w : W) (n : Nat) (access : Bool) : W :=
  if w.dev.lockedOut then w
  else if w.dev.temps.banked then w.latchWake n access
  else w.raiseWakeNow n access true

/-- A wake held or latched within an entry starts at its end (R399), where the phase lock does not discard it (R418) and no thermal
banking latches it (R463). It is counted against its own domain already; an access's counts against the hub too, where it wakes it
(R28, R398). -/
def W.wakeAfter (w : W) (n : Nat) (access : Bool) : W :=
  if w.dev.lockedOut then w
  else if w.dev.temps.banked then (if access ∧ n ≠ hubDom then w.latchWake hubDom true else w).latchWake n false
  else w.raiseWakeNow n access false

/-- Serve the wake latched within an entry that has ended, if there is one. -/
def W.wakeLate (w : W) (n : Nat) : W :=
  let x := w.dev.dom n
  if x.late then (w.modDom n fun x => { x with late := false, lateAcc := false }).wakeAfter n x.lateAcc else w

end Sys2Proof.Machine
end

