-- ==== Sys2Proof/Machine/LinkSend.lean ====
section
/-!
DEFINITION. Flits and how a port sends them (R318–R322, R326, R330).
-/
namespace Sys2Proof.Machine

/-- The fields of a flit header (R319). -/
structure FlitHead where
  ty : Nat
  seq : Nat
  ack : Nat
  ackv : Bool
  vc : Nat
  crvc : Nat
  crn : Nat
  enc : Bool
  plen : Nat
  deriving DecidableEq, Repr

def FlitHead.toNat (h : FlitHead) : Nat :=
  h.ty * 2 ^ 60 + h.seq * 2 ^ 48 + h.ack * 2 ^ 36 + b2n h.ackv * 2 ^ 35 + h.vc * 2 ^ 32 + h.crvc * 2 ^ 29
    + h.crn * 2 ^ 24 + b2n h.enc * 2 ^ 23 + h.plen * 2 ^ 8

def headOf (x : Nat) : FlitHead :=
  { ty := bits x 63 60, seq := bits x 59 48, ack := bits x 47 36, ackv := bit x 35, vc := bits x 34 32
    crvc := bits x 31 29, crn := bits x 28 24, enc := bit x 23, plen := bits x 15 8 }

/-- The reserved bits of a header are zero, and so are the fields that only DATA carries (R319). -/
def headReservedOk (x : Nat) : Bool :=
  bits x 22 16 == 0 && bits x 7 0 == 0 && (bits x 63 60 == 1 || (bits x 59 48 == 0 && bits x 34 32 == 0 && bits x 15 8 == 0))

def padTo (n : Nat) (l : List Byte) : List Byte := l ++ List.replicate (n - l.length) 0

/-- The direction key of R318: from the initiator to the responder, or back. -/
def dirKey (z : List Byte) (d : Nat) : List Byte := hmac z (asciiBytes "limvel-link-enc" ++ [BitVec.ofNat 8 d])

/-- The 96-bit IV of R318. -/
def flitIv (d ctr : Nat) : List Byte := [BitVec.ofNat 8 d, 0, 0, 0] ++ leBytes 8 ctr

/-- A whole flit (R318–R320): header, counter and ciphertext with tag where encrypted, payload, CRC. -/
def flitBytes (head : Nat) (payload : List Byte) (key : Option (List Byte × Nat × Nat)) : List Byte :=
  let h := leBytes 8 head
  let body := match key with
    | none => h ++ padTo 244 payload
    | some (k, d, ctr) =>
      let c := gcmCrypt k (flitIv d ctr) (padTo 220 payload)
      h ++ leBytes 8 ctr ++ c ++ gcmTag k (flitIv d ctr) h c
  body ++ leBytes 4 (crc32 body)

/-- The virtual channel with credits to return, and how many, at most 31 (R319, R326). -/
def creditReturn (l : LinkSess) : Nat × Nat :=
  match l.toReturn.find? (fun x => 0 < x.2) with
  | some (vc, n) => (vc, min n 31)
  | none => (0, 0)

/-- Send one flit of a type on an UP port (R318, R321). -/
def W.sendFlit (w : W) (p ty seq vc : Nat) (payload : List Byte) : W :=
  let pt := w.dev.port p
  let l := pt.sess
  let (crvc, crn) := creditReturn l
  let head := FlitHead.toNat { ty, seq, ack := (l.e - 1).toNat, ackv := l.ackv, vc, crvc, crn, enc := pt.encNow,
                               plen := if ty = 1 then cdiv payload.length 4 else 0 }
  let d := if l.initiator then 1 else 2
  let key := if pt.encNow then some (dirKey l.z d, d, l.txCtr) else none
  let w := w.modPort p fun x =>
    { x with
      sess := { x.sess with txCtr := x.sess.txCtr + 1, lastTx := w.dev.now
                            toReturn := if crn = 0 then x.sess.toReturn
                                        else Tab.put x.sess.toReturn crvc (Tab.look 0 x.sess.toReturn crvc - crn) }
      ftx := if ty = 1 then x.ftx + 1 else x.ftx }
  w.out (.flit p (flitBytes head payload key))

/-- The first packet waiting whose channel has a credit, and the rest of the queue (R326: channels do not block one
another). -/
def takeReady (credits : Tab Nat) (blocked : List Nat) :
    List (Nat × List Byte × Nat) → Option ((Nat × List Byte) × List (Nat × List Byte × Nat))
  | [] => none
  | (vc, pkt, since) :: t =>
    if 0 < Tab.look 64 credits vc ∧ !blocked.contains vc then some ((vc, pkt), t)
    else match takeReady credits (vc :: blocked) t with
      | some (x, r) => some (x, (vc, pkt, since) :: r)
      | none => none

/-- Send new DATA flits while the window of R322 and the credits of R326 allow. -/
def W.pumpN : Nat → W → Nat → W
  | 0, w, _ => w
  | n + 1, w, p =>
    let pt := w.dev.port p
    let l := pt.sess
    if pt.state = .up ∧ l.orderly = none ∧ (l.n - l.a).toNat < 1024 then
      match takeReady l.credits [] pt.txq with
      | some ((vc, pkt), rest) =>
        let w := w.modPort p fun x =>
          { x with
            txq := rest
            sess := { x.sess with
              n := x.sess.n + 1
              lastA := if x.sess.replay = [] then w.dev.now else x.sess.lastA
              replay := x.sess.replay ++ [⟨x.sess.n, vc, pkt⟩]
              credits := Tab.put x.sess.credits vc (Tab.look 64 x.sess.credits vc - 1) } }
        W.pumpN n (w.sendFlit p 1 l.n.toNat vc pkt) p
      | none => w
    else w

def W.pump (w : W) (p : Nat) : W := W.pumpN (w.dev.port p).txq.length w p

/-- Give a packet to a port's queue of flits to send. -/
def W.enqueuePort (w : W) (p vc : Nat) (pkt : List Byte) : W :=
  (w.modPort p fun x => { x with txq := x.txq ++ [(vc, pkt, w.dev.now)] }).pump p

/-- Count in LNK.CNT (R333). -/
def W.lnkCnt (w : W) (p k n : Nat) : W := w.modPort p fun x => { x with cnt := cntAdd x.cnt k n }

end Sys2Proof.Machine
end

