-- ==== Sys2Proof/Machine/Packet.lean ====
section
/-!
DEFINITION. Packets (R340), routing (R335, R346), sending streams (R342, R344) and the packets a chip puts on its ports.
-/
namespace Sys2Proof.Machine

/-- A packet (R340). -/
structure Pkt where
  ptype : Nat
  ttl : Nat
  opn : Bool
  dst : Nat
  src : Nat
  slice : Nat
  tsag : Nat
  ssag : Nat
  seq : Nat
  addr : Nat
  arg : Nat
  rseq : Nat
  data : List Byte
  deriving DecidableEq, Repr

def Pkt.bytes (k : Pkt) : List Byte :=
  leBytes 4 (k.ptype * 2 ^ 24 + k.ttl * 2 ^ 20 + b2n k.opn * 2 ^ 19 + k.data.length) ++
  leBytes 4 (k.dst * 2 ^ 16 + k.src) ++ leBytes 4 (k.slice * 2 ^ 16 + k.tsag * 2 ^ 8 + k.ssag) ++
  leBytes 4 k.seq ++ leBytes 8 k.addr ++ leBytes 4 k.arg ++ leBytes 4 k.rseq ++ k.data

def pktOf (l : List Byte) : Pkt :=
  let w0 := leAt l 0 4
  let w1 := leAt l 4 4
  let w2 := leAt l 8 4
  { ptype := bits w0 31 24, ttl := bits w0 23 20, opn := bit w0 19, dst := bits w1 27 16, src := bits w1 11 0
    slice := bits w2 31 16, tsag := bits w2 14 8, ssag := bits w2 6 0, seq := leAt l 12 4, addr := leAt l 16 8
    arg := leAt l 24 4, rseq := leAt l 28 4, data := (l.drop 32).take (bits w0 7 0) }

/-- Whether a packet has its whole header and data, and zero reserved bits (R340). -/
def pktOk (l : List Byte) : Bool :=
  let w0 := leAt l 0 4
  32 ≤ l.length && bits w0 18 8 == 0 && bits w0 7 0 ≤ 128 && 32 + bits w0 7 0 ≤ l.length
    && bits (leAt l 4 4) 31 28 == 0 && bits (leAt l 4 4) 15 12 == 0 && bits (leAt l 8 4) 15 15 == 0
    && bits (leAt l 8 4) 7 7 == 0

/-- Whether a port carries flits and takes part in routing (R307, R337). -/
def Dev.portUsable (d : Dev) (p : Nat) : Bool := (d.port p).state == .up && !Tab.look false d.fab.excl p

/-- Whether a neighbour's HELLO gives another slice identity: the link to it carries HELLO only (R348). -/
def Dev.foreign (d : Dev) (c : BitVec 12) : Bool := d.fab.near.any fun x => x.chip == some c && x.slice != d.fab.sliceid

/-- Whether a port carries packets besides HELLO: it takes part in routing, and the chip that a cube port leads to gives the own slice
identity (R348). -/
def Dev.portCarries (d : Dev) (p : Nat) : Bool :=
  d.portUsable p && !d.fab.near.any fun x => decide (6 ≤ p) && x.port == p && x.slice != d.fab.sliceid

/-- The Voyx plane that a rack port leads to (R339). -/
def Dev.planeOf (d : Dev) (p : Nat) : Nat :=
  match (d.port p).peer with
  | some x => bits x.chip.toNat 2 0
  | none => 8

/-- The usable rack port of a plane. -/
def Dev.rackPort (d : Dev) (plane : Nat) : Option Nat :=
  (List.range 6).find? fun p => d.portUsable p && d.planeOf p == plane

/-- Rule 2 of R346 towards a position of the own rack, without the relay, for a packet that came by port `inp`. A rack mate of another
slice gets none (R348). -/
def Dev.routePos (d : Dev) (q ssag vc inp : Nat) : Option Nat :=
  let e := (Tab.look 0 d.fab.rpos q).toNat
  let mate : Option (BitVec 12) := d.fab.chip.map fun c => BitVec.ofNat 12 (c.toNat / 64 * 64 + q)
  if !bit e 31 || mate.any d.foreign then none
  else
    let ports := ((List.range 8).filter fun k => bit e k).filterMap fun k => (d.rackPort k).filter fun p => p ≠ inp
    ports[(ssag + vc) % max ports.length 1]?

/-- Rule 2 of R346 with the relay position. -/
def Dev.routeRack (d : Dev) (q ssag vc inp : Nat) : Option Nat :=
  match d.routePos q ssag vc inp with
  | some p => some p
  | none =>
    let e := (Tab.look 0 d.fab.rpos q).toNat
    if bit e 31 && bit e 30 then d.routePos (bits e 21 16) ssag vc inp else none

/-- The port on which a packet leaves (R346), or none where the table does not reach its destination: never the port `inp` by which it
arrived, 12 for a packet of this chip. -/
def Dev.route (d : Dev) (dst ssag vc inp : Nat) : Option Nat :=
  match d.fab.chip with
  | none => none
  | some own =>
    if dst / 64 = own.toNat / 64 then d.routeRack (dst % 64) ssag vc inp
    else
      let e := (Tab.look 0 d.fab.rrack (dst / 64)).toNat
      let may (p : Nat) : Bool := p ≠ inp && d.portCarries p
      if !bit e 31 then none
      else if may (bits e 19 16) then some (bits e 19 16)
      else if bits e 11 8 ≠ 15 ∧ may (bits e 11 8) then some (bits e 11 8)
      else d.routeRack (bits e 5 0) ssag vc inp

/-- Whether the table in force holds a route to a chip (R344, R346), whatever the ports are doing now. -/
def Dev.tableHas (d : Dev) (dst : Nat) : Bool :=
  match d.fab.chip with
  | none => false
  | some own =>
    dst == own.toNat ||
      (if dst / 64 = own.toNat / 64 then bit (Tab.look 0 d.fab.rpos (dst % 64)).toNat 31
       else bit (Tab.look 0 d.fab.rrack (dst / 64)).toNat 31)

def W.fabCnt (w : W) (k n : Nat) : W := w.modFab fun f => { f with cnt := cntAdd f.cnt k n }

/-- Put a packet of this chip on its way on the route in force (R346). -/
def W.emit (w : W) (vc : Nat) (k : Pkt) : W :=
  match w.dev.route k.dst k.ssag vc 12 with
  | some p => w.enqueuePort p vc k.bytes
  | none => w

def Dev.ownChip (d : Dev) : Nat := match d.fab.chip with | some c => c.toNat | none => 0

/-- A packet of this chip with its own chip number and slice. -/
def Dev.mkPkt (d : Dev) (ptype dst tsag ssag seq addr arg rseq : Nat) (data : List Byte) (opn : Bool) : Pkt :=
  { ptype, ttl := 15, opn, dst, src := d.ownChip, slice := d.fab.sliceid.toNat, tsag, ssag, seq, addr, arg, rseq, data }

/-- Change the sending stream of a key. -/
def W.modSend (w : W) (key : Nat) (f : SendStream → SendStream) : W :=
  w.modFab fun b => { b with sends := b.sends.map fun x => if x.key = key then f x else x }

def Dev.sendOf (d : Dev) (key : Nat) : Option SendStream := d.fab.sends.find? fun x => x.key == key

/-- The stream of a saggar to a chip on a channel (R342), made where there is none. -/
def W.streamFor (w : W) (ssag dst vc : Nat) : Nat × W :=
  match w.dev.fab.sends.find? fun x => x.ssag == ssag && x.dst == dst && x.vc == vc with
  | some x => (x.key, w)
  | none =>
    let key := w.dev.fab.nextKey
    (key, w.modFab fun f =>
      { f with
        nextKey := key + 1
        sends := f.sends ++ [{ key, ssag, dst, vc, next := 0, opened := false, unacked := [], waiting := []
                               closing := none, abandoned := false, doomed := false, lastAct := w.dev.now }] })

/-- How many sending streams the table holds (R342): those that have sent. -/
def Dev.sendCount (d : Dev) : Nat := (d.fab.sends.filter fun x => x.opened).length

/-- Send a packet on an open stream under the next sequence number (R342, R344). -/
def W.streamSendNow (w : W) (key op : Nat) (bytes : List Byte) : W :=
  match w.dev.sendOf key with
  | none => w
  | some st =>
    let k := { pktOf bytes with seq := st.next.toNat, opn := !st.opened }
    let w := w.modSend key fun x =>
      { x with next := x.next + 1, opened := true, lastAct := w.dev.now
               unacked := x.unacked ++ [⟨st.next, k.bytes, w.dev.now, w.dev.now, 0, none⟩] }
    let w := w.modFab fun f =>
      { f with ops := f.ops.map fun o => if o.id = op ∧ o.stream = key then { o with seq := some st.next } else o }
    w.emit st.vc k

/-- Give a packet to its stream: it waits while the stream closes, is abandoned or is about to be declared failed, or while the table
is full (R342, R344, R345). -/
def W.streamSend (w : W) (key op : Nat) (k : Pkt) : W :=
  match w.dev.sendOf key with
  | none => w
  | some st =>
    if st.abandoned ∨ st.doomed ∨ st.closing.isSome ∨ (!st.opened ∧ 8192 ≤ w.dev.sendCount) ∨ st.waiting ≠ [] then
      w.modSend key fun x => { x with waiting := x.waiting ++ [(op, k.bytes)] }
    else w.streamSendNow key op k.bytes

/-- Send what waited for a stream that may open now. -/
def W.streamFlushN : Nat → W → Nat → W
  | 0, w, _ => w
  | n + 1, w, key =>
    match w.dev.sendOf key with
    | none => w
    | some st =>
      match st.waiting with
      | [] => w
      | (op, bytes) :: rest =>
        if st.abandoned ∨ st.doomed ∨ st.closing.isSome ∨ (!st.opened ∧ 8192 ≤ w.dev.sendCount) then w
        else W.streamFlushN n ((w.modSend key fun x => { x with waiting := rest }).streamSendNow key op bytes) key

def W.streamFlush (w : W) (key : Nat) : W :=
  match w.dev.sendOf key with
  | some st => W.streamFlushN st.waiting.length w key
  | none => w

/-- Whether a saggar's routing view and slice let it reach a chip on a channel (R349). -/
def Dev.viewOk (d : Dev) (s chip vc : Nat) (loop : Bool) : Bool :=
  let v := (Tab.look 0x0FFF0000 d.fab.view s).toNat
  let x := (Tab.look (BitVec.ofNat 32 (0x80007F00 + s)) d.fab.viewx s).toNat
  bit x 31 && vc ≤ 6 && bit x (8 + vc) && bits v 11 0 ≤ chip && chip ≤ bits v 27 16 &&
    (loop || (d.fab.state == .admitted && d.fab.memberChips.contains (BitVec.ofNat 12 chip)))

/-- The target saggar of a saggar's view (R349). -/
def Dev.viewTsag (d : Dev) (s : Nat) : Nat :=
  bits (Tab.look (BitVec.ofNat 32 (0x80007F00 + s)) d.fab.viewx s).toNat 6 0

end Sys2Proof.Machine
end

