-- ==== Sys2Proof/Machine/Translate.lean ====
section
/-!
DEFINITION. Addresses, translation and the checks on one access, in their order (R199–R211, R514), and what an access
that passes them reaches.
-/
namespace Sys2Proof.Machine

/-- What a use of an address is (R204, R514): a thread's load or store of a size, wait, atomic that reads or writes,
fetch; and of asynchronous work: a completion record, a descriptor read, a DMA end, an operand, the entry that an lnch posts. -/
inductive Use where
  | load (size : Nat)
  | store (size : Nat)
  | wait
  | amo (size : Nat) (rd wr : Bool)
  | fetch
  | record
  | ring
  | dma (wr : Bool)
  | operand (wr : Bool)
  | post
  deriving DecidableEq, Repr

/-- Asynchronous uses take only causes of R211 (R204). -/
def Use.async : Use → Bool
  | .record | .ring | .dma _ | .operand _ | .post => true
  | _ => false

def Use.reads : Use → Bool
  | .load _ | .wait | .fetch | .ring => true
  | .amo _ rd _ => rd
  | .dma wr | .operand wr => !wr
  | _ => false

def Use.writes : Use → Bool
  | .store _ | .record | .post => true
  | .amo _ _ wr => wr
  | .dma wr | .operand wr => wr
  | _ => false

def Use.isAmo : Use → Bool
  | .amo _ _ _ => true
  | _ => false

/-- A DMA transfer, and the reading of a descriptor, restart no HBM PHY timer (R391). -/
def Use.dmaOnly : Use → Bool
  | .dma _ | .ring => true
  | _ => false

/-- Why an access is not performed: a cause of R211, or the instruction faults ALIGN and ILLEGAL_TARGET (R171). -/
inductive AFault where
  | mem (cause : Nat)
  | align
  | illegalTarget
  deriving DecidableEq, Repr

/-- What an access reaches: a place in HBM3E or near store; a host place or a register place with the saggar on whose behalf it is
performed, which a loop-back access takes from the routing view (R201, R349); or a remote chip, with channel and offset. -/
inductive Place where
  | hbm (a : Nat)
  | near (a : Nat)
  | host (s a : Nat)
  | reg (s off : Nat)
  | remote (chip vc off : Nat)
  deriving DecidableEq, Repr

/-- How the checks on an access end: performed at a place, refused, held until a domain is ACTIVE (R28) or a page move
of a saggar has ended (R214), or cut off by a failed or poisoned link between the cluster dies (R462). -/
inductive Acc where
  | ok (p : Place)
  | fault (f : AFault)
  | cut
  | asleep (dom : Nat)
  | moving (s : Nat)
  deriving DecidableEq, Repr

def hbmEnd : Nat := 0x3000000000

/-- Fields of a table entry (R202). -/
def pteV (e : Nat) : Bool := bit e 63
def pteTgt (e : Nat) : Nat := bits e 62 60
def pteChip (e : Nat) : Nat := bits e 59 48
def pteAddr (e : Nat) : Nat := bits e 47 12 * 4096
def pteLeaf (e : Nat) : Bool := bit e 11
def pteR (e : Nat) : Bool := bit e 10
def pteW (e : Nat) : Bool := bit e 9
def pteX (e : Nat) : Bool := bit e 8
def pteA (e : Nat) : Bool := bit e 7
def pteG (e : Nat) : Bool := bit e 6
def pteVc (e : Nat) : Nat := bits e 5 3

/-- The page size of a leaf at a level, as a power of two (08, Table levels). -/
def pageBits : Nat → Nat
  | 2 => 30
  | 3 => 21
  | _ => 12

/-- The rules of R203 on a valid entry at a level. -/
def pteOk (level e : Nat) : Bool :=
  let tgt := pteTgt e
  let a := pteAddr e
  bits e 2 0 == 0 && tgt ≤ 4 && (tgt == 4 || (pteChip e == 0 && pteVc e == 0)) &&
  (if pteLeaf e then
    level ≠ 1 && a % 2 ^ pageBits level == 0 && (tgt ≠ 1 || level == 4) && (tgt ≠ 3 || level == 4) &&
    (tgt ≠ 4 || 3 ≤ level) &&
    (match tgt with
     | 0 => a + 2 ^ pageBits level ≤ hbmEnd
     | 1 => a < 2 ^ 28
     | 3 => a < 2 ^ 16
     | _ => true)
  else
    level ≠ 4 && tgt == 0 && pteChip e == 0 && bits e 10 3 == 0 && a + 4096 ≤ hbmEnd)

/-- The window check of R205 on a page or table. -/
def inWindow (ms : MemSet) (a len : Nat) : Bool := ms.base.toNat ≤ a && a + len ≤ ms.lim.toNat

/-- The index shift of a level. -/
def levelShift (level : Nat) : Nat := 12 + 9 * (4 - level)

/-- One entry of a walk as the translation sees it: the entry in memory, or one cached before a change that has not
been invalidated (R210); which of the two is open. -/
def W.pteAt (w : W) (s level va pa : Nat) : Nat × W :=
  let m := leVal (w.mem.bytes .hbm pa 8)
  let key := va / 2 ^ levelShift level
  let put (l : List TlbEntry) := (⟨level, key, BitVec.ofNat 64 m⟩ : TlbEntry) :: l.filter fun t => !(t.level == level && t.page == key)
  match (w.dev.mpage s).tlb.find? fun t => t.level == level && t.page == key with
  | some t =>
    if t.leaf.toNat = m then (m, w)
    else
      let (old, w) := w.drawBool
      if old then (t.leaf.toNat, w)
      else (m, w.modMem s fun p => { p with tlb := if pteV m then put p.tlb
                                                   else p.tlb.filter fun t => !(t.level == level && t.page == key) })
  | none => if pteV m then (m, w.modMem s fun p => { p with tlb := put p.tlb }) else (m, w)

/-- An access of a saggar has read a line in error (R459, R470, R478): the first such line of its range. -/
def W.uncorrectable (w : W) (s : Nat) (sp : Space) (a n : Nat) : W :=
  let line := (badLines w.mem sp).foldl (fun x l => if rangesMeet (64 * l) 64 a n then min x (64 * l) else x) (a + n)
  if sp = .near then w.event 0x0301 (srcOf 1 (a / 2 ^ 20)) (some s) [(8, line), (4, 1), (4, w.op)]
  else w.event 0x0301 (srcOf 4 (hbmStack a)) (some s) [(8, line), (4, 0), (4, w.op)]

/-- What the error-correcting code finds in the next read of memory (R211, R459), as the command brings it (DESIGN CHOICE, log entry
43): corrected errors are counted, an uncorrectable one puts the line in error. -/
def W.finds (w : W) (sp : Space) (a : Nat) : W :=
  match w.ecc with
  | [] => w
  | e :: t =>
    let w := { w with ecc := t }
    match e with
    | .corrected n => w.corrected (if sp = .near then srcOf 1 (a / 2 ^ 20) else srcOf 4 (hbmStack a)) n
    | .bad => w.put (.bad sp (a / 64))
    | _ => w

/-- What the error-correcting code finds in all the reads of one place (R211, R459). -/
def W.findAll (w : W) (sp : Space) (a : Nat) : W := w.ecc.foldl (fun w _ => w.finds sp a) w

/-- A command that brings what the error-correcting code finds. -/
def W.bring (w : W) (l : List Ecc) : W := { w with ecc := l }

/-- How a walk ends: at a leaf of a level, with a cause, or at a stack that sleeps. -/
inductive Walk where
  | leaf (level e : Nat)
  | cause (c : Nat)
  | asleep (dom : Nat)
  deriving DecidableEq, Repr

/-- A walk from a table at a level (R203, R205, R211, R218), with the levels left to go. -/
def W.walkFrom : Nat → W → Nat → Nat → Nat → Nat → Walk × W
  | 0, w, _, _, _, _ => (.cause 0x0A, w)
  | n + 1, w, s, va, level, table =>
    let pa := table + 8 * (va / 2 ^ levelShift level % 512)
    let dom := hbmDom (hbmStack pa)
    if !w.dev.admits dom then (.asleep dom, w)
    else
      let w := (w.touch dom).finds .hbm pa
      if w.mem.inError .hbm pa 8 then (.cause 0x0F, w.uncorrectable s .hbm pa 8)
      else
      let (e, w) := w.pteAt s level va pa
      if !pteV e then (.cause 0x01, w)
      else if !pteOk level e then (.cause 0x0A, w)
      else
        let ms := (w.dev.mpage s).cur
        if pteLeaf e then
          if pteTgt e = 0 ∧ !inWindow ms (pteAddr e) (2 ^ pageBits level) then (.cause 0x07, w)
          else (.leaf level e, w)
        else if !inWindow ms (pteAddr e) 4096 then (.cause 0x07, w)
        else W.walkFrom n w s va (level + 1) (pteAddr e)

/-- A walk of a local address through a saggar's tables (R203, R514 steps 4 and 5). -/
def W.walk (w : W) (s va : Nat) : Walk × W :=
  let ms := (w.dev.mpage s).cur
  if !bit ms.root.toNat 0 then (.cause 0x0E, w)
  else
    let t := bits ms.root.toNat 47 12 * 4096
    if !inWindow ms t 4096 then (.cause 0x07, w) else W.walkFrom 4 w s va 1 t

/-- Step 6 of R514: whether a target accepts a use (R204). -/
def acceptTarget (u : Use) (tgt va : Nat) (remoteSide : Bool) : Option AFault :=
  let kind (f : AFault) : AFault := if u.async || remoteSide then .mem 0x0C else f
  match tgt with
  | 2 => match u with
    | .amo _ _ _ | .wait => some (kind .illegalTarget)
    | .operand _ | .fetch => some (.mem 0x0C)
    | _ => none
  | 3 => match u with
    | .load n | .store n => if n = 4 ∧ va % 4 = 0 then none else some (kind .align)
    | .amo _ _ _ | .wait => some (kind .illegalTarget)
    | _ => some (.mem 0x0C)
  | 4 =>
    if remoteSide then some (.mem 0x0C)
    else match u with
      | .wait => some .illegalTarget
      | .fetch | .ring | .dma _ | .operand _ | .post => some (.mem 0x0C)
      | _ => none
  | _ => none

/-- Step 8 of R514: the permission bits of a leaf. -/
def permCause (u : Use) (e : Nat) : Option Nat :=
  if u = .fetch then (if pteX e && pteR e then none else some 0x04)
  else if u.isAmo && !pteA e then some 0x05
  else if u.reads && !pteR e then some 0x02
  else if u.writes && !pteW e then some 0x03
  else none

/-- The owner of a near-store sector (R206, R220). -/
def Dev.sectorOwner (d : Dev) (pa : Nat) : Option Nat :=
  let b := (Tab.look 0 d.cmp.nsec (16 * (pa / 2 ^ 20) + pa / 65536 % 16)).toNat
  if bit b 7 then some (bits b 6 0) else none

/-- Whether the near store of an offline cluster stays readable (R461). -/
def Dev.sliceKept (d : Dev) (pa : Nat) : Bool := (d.cl (pa / 2 ^ 20)).nearKept

/-- Step 9 of R514 on a near-store place: SLICE_OFFLINE, then SECTOR. -/
def Dev.nearCause (d : Dev) (s pa : Nat) (rd : Bool) : Option Nat :=
  if !(d.cl (pa / 2 ^ 20)).online && !(rd && d.sliceKept pa) then some 0x09
  else if d.sectorOwner pa ≠ some s then some 0x08
  else none

/-- Whether an address lies in the page that a move of its saggar holds (R214 step 3). -/
def Dev.movingAt (d : Dev) (s va : Nat) : Bool :=
  match (d.mpage s).mv with
  | some m => va / 2 ^ pageBits m.level == m.va / 2 ^ pageBits m.level
  | none => false

/-- The domain a place lies in, if it may sleep. -/
def placeDom : Place → Option Nat
  | .hbm a => some (hbmDom (hbmStack a))
  | .near a => some (a / 2 ^ 20)
  | _ => none

/-- Whether a range holds only part of a line in error: a write of it fails as a read would (R459). -/
def W.partialBad (w : W) (sp : Space) (a n : Nat) : Bool :=
  (badLines w.mem sp).any fun l => rangesMeet (64 * l) 64 a n && !(a ≤ 64 * l && 64 * l + 64 ≤ a + n)

/-- The cluster die that holds a place. -/
def placeDie : Place → Option Nat
  | .hbm a => some (hbmStack a / 4)
  | .near a => some (dieOf (a / 2 ^ 20))
  | _ => none

/-- Whether an access from a cluster die crosses the link C0–C1 (R19) and that link has failed, or the saggar's channel
on it is poisoned (R190, R462). -/
def W.crossCut (w : W) (s : Nat) (p : Place) : Bool :=
  match w.die, placeDie p with
  | some a, some b => a ≠ b &&
    (w.dev.hub.d2dDead.getLsbD 2 || ((w.dev.sag s).poison ++ (w.dev.sag s).owed).any fun x => x.kind == 2 && x.unit == 2)
  | _, _ => false

/-- Steps 4–10 of R514 at the chip that holds the tables: the saggar's own, or the target's for an access by global
address. The size is in bytes and does not cross a page. -/
def W.localAcc (w : W) (s va size : Nat) (u : Use) (glob remoteSide : Bool) : Acc × W :=
  if w.dev.movingAt s va then (.moving s, w)
  else
    match w.walk s va with
    | (.cause c, w) => (.fault (.mem c), w)
    | (.asleep d, w) => (.asleep d, w)
    | (.leaf level e, w) =>
      match acceptTarget u (pteTgt e) va remoteSide with
      | some f => (.fault f, w)
      | none =>
        if glob && !pteG e then (.fault (.mem 0x06), w)
        else if pteTgt e = 4 then
          if w.dev.viewOk s (pteChip e) (pteVc e) (pteChip e == w.dev.ownChip && w.dev.fab.chip.isSome) then
            (.ok (.remote (pteChip e) (pteVc e) (pteAddr e + va % 2 ^ pageBits level)), w)
          else (.fault (.mem 0x0D), w)
        else
          match permCause u e with
          | some c => (.fault (.mem c), w)
          | none =>
            let pa := pteAddr e + va % 2 ^ pageBits level
            let place : Place := match pteTgt e with | 0 => .hbm pa | 1 => .near pa | 2 => .host s pa | _ => .reg s pa
            let near := match place with | .near a => w.dev.nearCause s a (u.reads && !u.writes) | _ => none
            let kept : Bool := match place with | .near a => w.dev.sliceKept a | _ => false
            match near with
            | some c => (.fault (.mem c), w)
            | none =>
              match placeDom place with
              | some dom =>
                if !remoteSide && w.crossCut s place then (.cut, w)
                else if !(kept || w.dev.admits dom) then (.asleep dom, w)
                else
                  let w := if u.dmaOnly && hbmDom 0 ≤ dom then w else w.touch dom
                  let (sp, a) : Space × Nat := match place with | .near a => (.near, a) | _ => (.hbm, pa)
                  let w := if u.reads then w.finds sp a else w
                  if w.mem.inError sp a size && (u.reads || w.partialBad sp a size) then
                    (.fault (.mem 0x0F), w.uncorrectable s sp a size)
                  else (.ok place, w)
              | none => (.ok place, w)

/-- The causes a target reports become REMOTE_c at the source (R211). -/
def remoteFault : AFault → AFault
  | .mem c => .mem (if c < 0x80 then 0x80 + c else c)
  | _ => .mem 0x8C

/-- An access by global address that names the own chip: looped back and checked as at the target (R201). On a poisoned
channel it fails as a remote one would (R192). -/
def W.loopAcc (w : W) (s vc off size : Nat) (u : Use) : Acc × W :=
  if ((w.dev.sag s).poison ++ (w.dev.sag s).owed).any fun p => p.kind == 3 || (p.kind == 0 && p.vc == vc && p.chip == w.dev.ownChip) then
    (.ok (.remote w.dev.ownChip vc off), w)
  else match w.localAcc (w.dev.viewTsag s) off size u true true with
  | (.fault f, w) => (.fault (remoteFault f), w)
  | r => r

/-- Step 1 of R514: ALIGN, on the address as issued, of an atomic or wait (R180). -/
def alignFault (u : Use) (va : Nat) : Bool :=
  match u with
  | .amo n _ _ => va % n ≠ 0
  | .wait => va % 4 ≠ 0
  | _ => false

/-- All checks on one access (R514). -/
def W.access (w : W) (s va size : Nat) (u : Use) : Acc × W :=
  if alignFault u va then (.fault .align, w)
  else if !bit va 63 then
    if bits va 62 48 ≠ 0 then (.fault (.mem 0x0B), w)
    else match w.localAcc s va size u false false with
      | (.ok (.remote chip vc off), w) =>
        if w.dev.fab.chip.isSome ∧ chip = w.dev.ownChip then w.loopAcc s vc off size u else (.ok (.remote chip vc off), w)
      | r => r
  else if bits va 62 60 ≠ 0 then (.fault (.mem 0x0B), w)
  else
    let chip := bits va 59 48
    let vc := (w.dev.mpage s).cur.gvc.toNat
    let own := w.dev.fab.chip.isSome && chip == w.dev.ownChip
    match u with
    | .wait => (.fault .illegalTarget, w)
    | .fetch | .ring | .dma _ | .operand _ | .post => (.fault (.mem 0x0C), w)
    | _ =>
      if !w.dev.viewOk s chip vc own then (.fault (.mem 0x0D), w)
      else if own then w.loopAcc s vc (bits va 47 0) size u
      else (.ok (.remote chip vc (bits va 47 0)), w)

end Sys2Proof.Machine
end

