-- ==== Sys2Proof/Machine/SagOps.lean ====
section
/-!
DEFINITION. What any operation of a saggar reports: counts (R83, R170), fault and trap records (R84, R171, R172), poisoned
channels (R190–R192), the last memory fault (R211); and the bundles it concerns.
-/
namespace Sys2Proof.Machine

def Dev.bundle (d : Dev) (cl vu : Nat) : Option Bundle := (d.vu cl vu).bundle

def W.modBundle (w : W) (cl vu : Nat) (f : Bundle → Bundle) : W :=
  w.modVu cl vu fun v => { v with bundle := v.bundle.map f }

/-- Whether a bundle is the one an operation names. -/
def Issuer.owns (i : Issuer) (b : Bundle) : Bool := b.sag == i.sag && b.launch == i.launch && b.bix == i.bix

/-- Change the bundle that issued an operation, wherever it is: resident, or saved by a switch. -/
def W.modIssuer (w : W) (i : Issuer) (f : Bundle → Bundle) : W :=
  let w := w.modCmp fun c =>
    { c with vus := Tab.mapV (fun _ v => { v with bundle := v.bundle.map fun b => if i.owns b then f b else b }) c.vus }
  w.modSag i.sag fun s =>
    { s with saved := s.saved.map fun x => if i.owns x.bundle then { x with bundle := f x.bundle } else x }

/-- One asynchronous operation of a bundle has ended. -/
def W.asyncDone (w : W) (i : Issuer) : W := w.modIssuer i fun b => { b with asyncOut := b.asyncOut - 1 }

def W.modLaunch (w : W) (s id : Nat) (f : Launch → Launch) : W :=
  w.modThr s fun t => { t with launches := t.launches.map fun l => if l.id = id then f l else l }

def Dev.launchOf (d : Dev) (s id : Nat) : Option Launch := (d.thr s).launches.find? fun l => l.id == id

/-- Add to the saggar's cumulative counters (R83, R170). -/
def W.addCounts (w : W) (s sat flush : Nat) : W :=
  w.modSag s fun x => { x with csat := satBv x.csat sat, cflush := satBv x.cflush flush }

/-- The lowest set bit of a lane mask. -/
def lowLane (m : BitVec 16) : Nat := ((List.range 16).find? fun i => m.getLsbD i).getD 0

/-- Words of 8 bytes as two words of a record. -/
def wordsOf (x : Nat) : List Word := [BitVec.ofNat 32 x, BitVec.ofNat 32 (x / 2 ^ 32)]

/-- A fault record's words (R171). -/
def faultWords (cause sub cl thread : Nat) (pc data : DWord) (tag : Word) (s : Nat) : List Word :=
  [BitVec.ofNat 32 (cause * 2 ^ 24 + sub * 2 ^ 16 + (cl % 128) * 2 ^ 8 + dieOf cl * 2 ^ 7 + s),
   BitVec.ofNat 32 thread] ++ wordsOf pc.toNat ++ wordsOf data.toNat ++ [tag, 0]

/-- Fill the saggar's fault record, or count in `more` (R171). The vector of a POISON fault whose poison entry waits for the report of
stores is that of the entry (R466). -/
def W.fillFault (w : W) (s : Nat) (words : List Word) : W :=
  let g := w.dev.sag s
  if g.ffull then w.modSag s fun x => { x with fmore := satBv x.fmore 1 }
  else
    let w := w.modSag s fun x => { x with ffull := true, frec := words }
    if (words.headD 0).toNat / 2 ^ 24 = 4 ∧ g.owed ≠ [] then w else w.fireSag s

/-- An instruction fault of a resident bundle (R171): it halts, the record fills, and its launch dispatches no more. A bundle that has
halted raises no further fault. -/
def W.faultBundle (w : W) (cl vu cause sub : Nat) (pc : DWord) (data : Nat) (act : BitVec 16) : W :=
  match w.dev.bundle cl vu with
  | none => w
  | some b =>
    if b.faulted then w
    else
    let tag := match w.dev.launchOf b.sag b.launch with | some l => l.tag | none => 0
    let w := w.modBundle cl vu fun b => { b with faulted := true, waiting := .no }
    let w := w.modLaunch b.sag b.launch fun l => { l with faulted := true }
    w.fillFault b.sag
      (faultWords cause sub cl (16 * vu + lowLane (if act = 0 then b.live else act)) pc (BitVec.ofNat 64 data) tag b.sag)

/-- The fault an access ends with, as a cause and sub of R171. -/
def AFault.code : AFault → Nat × Nat
  | .mem c => (3, c)
  | .align => (5, 0)
  | .illegalTarget => (6, 0)

/-- Fill MEM.LASTF if it is empty (R211). -/
def W.lastFault (w : W) (s cause va : Nat) : W :=
  if (w.dev.mpage s).lfValid then w
  else w.modMem s fun p => { p with lfValid := true, lfCause := BitVec.ofNat 8 cause, lfAddr := BitVec.ofNat 64 va }

/-- The cause an asynchronous access reports (R204, R211). -/
def AFault.memCause : AFault → Nat
  | .mem c => c
  | _ => 0x0C

/-- A trap record's words (R84). -/
def trapWords (op cl s slot thread : Nat) (pc : DWord) (element product : Nat) : List Word :=
  [BitVec.ofNat 32 (op * 2 ^ 16 + cl * 2 ^ 8 + s), BitVec.ofNat 32 (slot * 2 ^ 16 + thread)] ++ wordsOf pc.toNat ++
  [BitVec.ofNat 32 element, BitVec.ofNat 32 product, 0, 0]

/-- Stop the bundle that a trap record names, under ntrap = 2 (R172): at once where it stands at an instruction
boundary, else when it next reaches one. -/
def trapStop (b : Bundle) : Bundle :=
  if b.live = 0 then b else if b.waiting = .no then { b with trap := .halted } else { b with trap := .pending }

/-- Whether the saggar's trap record takes a NaN now (R84, R172). -/
def Dev.trapOpen (d : Dev) (s : Nat) : Bool := (d.sag s).ntrap ≠ 0 && !(d.sag s).tfull

/-- SAG.TSTAT.halted (R172): whether the bundle that the trap record names has halted. -/
def Dev.trapHalted (d : Dev) (s : Nat) : Bool :=
  match (d.sag s).twho with
  | some i =>
    (d.cmp.vus.any fun v => match v.2.bundle with | some b => i.owns b && b.trap == .halted | none => false)
      || (d.sag s).saved.any fun x => i.owns x.bundle && x.bundle.trap == .halted
  | none => false

/-- A produced NaN fills the saggar's empty trap record (R84, R105, R152, R380); the answer says whether it did.
`clField` is the record's cluster field and `die` its die. -/
def W.fillTrap (w : W) (i : Issuer) (op clField slot element product : Nat) (die : Bool) : Bool × W :=
  if w.dev.trapOpen i.sag then
    let w := w.modSag i.sag fun x =>
      { x with tfull := true, tdie := die, twho := some i
               trec := trapWords op clField i.sag slot (16 * i.vu + i.lane) i.pc element product }
    let w := w.fireSag i.sag
    if (w.dev.sag i.sag).ntrap = 2 then (true, w.modIssuer i trapStop) else (true, w)
  else (false, w)

/-- Word 0 of a poison entry (R198). -/
def Poison.word (p : Poison) : Nat := 2 ^ 31 + p.kind * 2 ^ 28 + p.vc * 2 ^ 24 + p.chip * 2 ^ 12 + p.unit

/-- Whether a channel is poisoned (R190–R192): its own entry, or for a fabric channel the entry of kind 3. -/
def Sag.poisoned (g : Sag) (kind vc chip unit : Nat) : Bool :=
  (g.poison ++ g.owed).any fun p =>
    (p.kind == kind && p.unit == unit && (kind ≠ 0 || (p.vc == vc && p.chip == chip))) || (kind == 0 && p.kind == 3)

/-- Count failures in the first entry that a test picks. -/
def bumpPoison (pick : Poison → Bool) (n : Nat) : List Poison → List Poison
  | [] => []
  | p :: t => if pick p then { p with count := satBv p.count n } :: t else p :: bumpPoison pick n t

/-- Whether an entry is a channel's own. -/
def Poison.of (kind vc chip unit : Nat) (p : Poison) : Bool :=
  p.kind == kind && p.unit == unit && (kind ≠ 0 || (p.vc == vc && p.chip == chip))

/-- The entry that a failure on a channel without an entry makes: its own, or that of kind 3 where 58 of kind 0 stand (R192). -/
def Sag.newPoison (g : Sag) (kind vc chip unit n : Nat) : Poison :=
  if kind = 0 ∧ 58 ≤ ((g.poison ++ g.owed).filter fun p => p.kind == 0).length then ⟨3, vc, 0, 0, satBv 0 n⟩
  else ⟨kind, if kind = 0 then vc else 0, if kind = 0 then chip else 0, unit, satBv 0 n⟩

/-- The entry in which a failure on a channel counts (R191 step 4, R192): its own, else that of kind 3 for a fabric channel. -/
def Sag.counting (g : Sag) (kind vc chip unit : Nat) : Option Poison :=
  match (g.poison ++ g.owed).find? (Poison.of kind vc chip unit) with
  | some p => some p
  | none => if kind = 0 then (g.poison ++ g.owed).find? fun p => p.kind == 3 else none

/-- Put an entry into a saggar's poison table (R191 step 4, R478). -/
def W.listPoison (w : W) (s : Nat) (e : Poison) : W :=
  let w := w.modSag s fun x => { x with poison := x.poison ++ [e] }
  let w := if e.kind = 1 then w else w.event 0x0700 (srcOf 6 s) (some s) [(4, e.word)]
  w.fireSag s

/-- Whether a failure of a channel has yet to be reported (R191 step 1): by a record that waits, or by a bundle of the saggar, resident or
saved, with a failed store. -/
def Dev.owing (d : Dev) (s key : Nat) : Bool :=
  (d.cmp.recs.any fun r => r.sag == s && r.owes.contains key) ||
  (d.cmp.vus.any fun v => match v.2.bundle with | some b => b.sag == s && b.owes.contains key | none => false) ||
  (d.sag s).saved.any fun x => x.bundle.owes.contains key

/-- Entries that waited for the report of failed stores appear once no bundle has one to report (R191 step 4). -/
def W.showPoison (w : W) (s : Nat) (keys : List Nat) : W :=
  let told (e : Poison) : Bool := keys.contains e.word && !w.dev.owing s e.word
  let l := (w.dev.sag s).owed.filter told
  l.foldl (fun w e => w.listPoison s e) (w.modSag s fun g => { g with owed := g.owed.filter fun e => !told e })

/-- Count failures in an entry of the table, or of those that wait for a report. -/
def W.countPoison (w : W) (s : Nat) (e : Poison) (n : Nat) : W :=
  let me (p : Poison) : Bool := p.word == e.word
  w.modSag s fun x =>
    if x.poison.any me then { x with poison := bumpPoison me n x.poison } else { x with owed := bumpPoison me n x.owed }

/-- Record failures on a channel that have been reported (R188, R191 step 4, R192, R469): counted in its entry, or in the entry of
kind 3, or in a new one. An entry that waits for a report goes on waiting, and so does a new one whose operation's record waits. -/
def W.poison (w : W) (s kind vc chip unit n : Nat) : W :=
  let g := w.dev.sag s
  let kept (r : Rec) : Bool := r.sag == s && r.queue.any fun q => w.rep.contains (.record q)
  match g.counting kind vc chip unit with
  | some e => w.countPoison s e n
  | none =>
    let e := g.newPoison kind vc chip unit n
    if w.dev.cmp.recs.any kept then
      (w.modSag s fun x => { x with owed := x.owed ++ [e] }).modCmp fun c =>
        { c with recs := c.recs.map fun r => if kept r then { r with owes := e.word :: r.owes } else r }
    else w.listPoison s e

/-- Record failures of stores that a bundle has yet to report: the channel is poisoned at once, and a new entry appears only
after the report (R191 steps 1, 3 and 4). -/
def W.poisonOwed (w : W) (cl vu s kind vc chip unit n : Nat) : W :=
  let g := w.dev.sag s
  let owes (w : W) (e : Poison) : W := w.modBundle cl vu fun b => { b with storePoison := true, owes := e.word :: b.owes }
  match g.counting kind vc chip unit with
  | some e => owes (w.countPoison s e n) e
  | none =>
    let e := g.newPoison kind vc chip unit n
    owes (w.modSag s fun x => { x with owed := x.owed ++ [e] }) e

/-- A bundle's failed stores are reported, or it ends without a report: the entries that waited for it appear. -/
def W.storesTold (w : W) (cl vu : Nat) : W :=
  match w.dev.bundle cl vu with
  | some b => (w.modBundle cl vu fun b => { b with storePoison := false, owes := [] }).showPoison b.sag b.owes
  | none => w

/-- Give a remote operation of saggar `s` to its stream (R187, R342, R343). On a poisoned channel it fails at once (R192). -/
def W.sendRemote (w : W) (s chip vc addr : Nat) (use : RemoteUse) (k : Pkt) : W :=
  if (w.dev.sag s).poisoned 0 vc chip 0 then w.poison s 0 vc chip 0 1
  else
    let id := w.dev.cmp.nextId
    let w := w.modCmp fun c => { c with nextId := id + 1 }
    let (key, w) := w.streamFor s chip vc
    let instr := match use with | .record | .move _ _ _ _ => id | _ => w.inst
    (w.modFab fun f => { f with ops := f.ops ++ [⟨id, instr, key, chip, vc, none, s, BitVec.ofNat 64 addr, use⟩] }).streamSend key id k

/-- The global address of an offset at a chip (R200). -/
def globalAddr (chip off : Nat) : Nat := 2 ^ 63 + chip * 2 ^ 48 + off

/-- The address a request of a function carries, and whether it is translated (R226): the translation that the chip holds for its
page, where it permits the access, else the address as it is. -/
def Dev.sentAddr (d : Dev) (fn addr : Nat) (wr : Bool) : Nat × Bool :=
  match d.pci.atc.find? fun e => e.fn == fn && e.page == addr / 4096 && (if wr then e.w else e.r) with
  | some e => (e.host.toNat / 4096 * 4096 + addr % 4096, true)
  | none => (addr, false)

/-- Write host memory on behalf of saggar `s`, under the requester identity of its function (R207, R225, R226). While the link is down
nothing is written. -/
def W.hostWrite (w : W) (s a : Nat) (l : List Byte) : W :=
  if w.dev.pci.up then
    let x := w.dev.sentAddr (w.dev.fnOf s) a true
    (w.store .host a l).out (.hostWrite (w.dev.fnOf s) x.1 x.2 l)
  else w

/-- Write bytes at a place of this chip that passed its checks. -/
def W.putPlace (w : W) (p : Place) (l : List Byte) : W :=
  match p with
  | .hbm a => w.store .hbm a l
  | .near a => w.store .near a l
  | .host t a => w.hostWrite t a l
  | .reg _ _ | .remote _ _ _ => w

/-- Write bytes of a completion record at the place of a virtual address; a remote one as a WRITE packet (R200, R211, R340). -/
def W.putRecord (w : W) (s va : Nat) (p : Place) (l : List Byte) : W :=
  match p with
  | .remote chip vc off => w.sendRemote s chip vc va .record (w.dev.mkPkt 1 chip (w.dev.viewTsag s) s 0 off 0 0 l false)
  | p => w.putPlace p l

/-- Read bytes at an on-chip place. -/
def W.getPlace (w : W) (p : Place) (n : Nat) : List Byte :=
  match p with
  | .hbm a => w.mem.bytes .hbm a n
  | .near a => w.mem.bytes .near a n
  | .host _ a => w.mem.bytes .host a n
  | _ => List.replicate n 0

/-- A range of a saggar's memory cut at 4 KiB boundaries: address and length of each piece. -/
def pieces : Nat → Nat → Nat → List (Nat × Nat)
  | 0, _, _ => []
  | n + 1, a, len => if len = 0 then [] else
      let k := min len (4096 - a % 4096)
      (a, k) :: pieces n (a + k) (len - k)

def piecesOf (a len : Nat) : List (Nat × Nat) := pieces (len / 4096 + 2) a len

/-- How a multi-byte access of asynchronous work ends: done with its bytes, failed with a cause at an address, or
cut off by
the link between the cluster dies, or waiting for a domain or a page move. -/
inductive Got where
  | bytes (l : List Byte)
  | fail (cause va : Nat)
  | cut
  | asleep (dom : Nat)
  | moving (s : Nat)
  deriving DecidableEq, Repr

/-- Read a range through a saggar's translation, piece by piece. -/
def W.readVa (w : W) (s : Nat) (u : Use) : List (Nat × Nat) → List Byte → Got × W
  | [], acc => (.bytes acc, w)
  | (a, n) :: t, acc =>
    match w.access s a n u with
    | (.ok p, w) => W.readVa w s u t (acc ++ w.getPlace p n)
    | (.fault f, w) => (.fail f.memCause a, w)
    | (.cut, w) => (.cut, w)
    | (.asleep d, w) => (.asleep d, w)
    | (.moving x, w) => (.moving x, w)

/-- Read `len` bytes at a virtual address as asynchronous work. -/
def W.fetchVa (w : W) (s a len : Nat) (u : Use) : Got × W := w.readVa s u (piecesOf a len) []

/-- Write a range through a saggar's translation, piece by piece; nothing beyond a piece that fails. -/
def W.writeVa (w : W) (s : Nat) (u : Use) : List (Nat × Nat) → List Byte → Got × W
  | [], _ => (.bytes [], w)
  | (a, n) :: t, l =>
    match w.access s a n u with
    | (.ok p, w) => W.writeVa (w.putRecord s a p (l.take n)) s u t (l.drop n)
    | (.fault f, w) => (.fail f.memCause a, w)
    | (.cut, w) => (.cut, w)
    | (.asleep d, w) => (.asleep d, w)
    | (.moving x, w) => (.moving x, w)

def W.storeVa (w : W) (s a : Nat) (l : List Byte) (u : Use) : Got × W := w.writeVa s u (piecesOf a l.length) l

/-- What would keep an access to a range from being performed now: a sleeping domain (R28), a page move (R214). -/
def W.blocked (w : W) (s : Nat) (u : Use) : List (Nat × Nat) → Option Got
  | [] => none
  | (a, n) :: t =>
    match (w.access s a n u).1 with
    | .asleep d => some (.asleep d)
    | .moving x => some (.moving x)
    | _ => W.blocked w s u t

/-- Put a completion record aside until it can be written. -/
def W.keepRec (w : W) (r : Rec) : W := w.modCmp fun c => { c with recs := c.recs ++ [r] }

/-- Whether a record of an order waits: those behind it wait too (R80, R133, R379). -/
def Dev.recWaits (d : Dev) (queue : Option RecQueue) : Bool := queue.isSome && d.cmp.recs.any fun r => r.queue == queue

/-- An operation is complete: its record has been written, or has met its end (R164), and the poison entries that waited for it
appear (R191 step 4). -/
def W.recEnded (w : W) (r : Rec) : W :=
  let w := w.showPoison r.sag r.owes
  match r.done with | some i => w.asyncDone i | none => w

/-- Write a completion record (R80, R185); a fault on the record's address fills MEM.LASTF (R204). A record that meets a
sleeping domain or a page move waits for it (R28, R214), and so does one behind it in its order. One that the failed
link C0–C1 cuts off is lost, and counts on its channel (R191, R462). -/
def W.writeRec (w : W) (r : Rec) : W :=
  if w.dev.recWaits r.queue then w.keepRec r
  else
    match w.storeVa r.sag r.addr r.bytes .record with
    | (.fail c va, w) => (w.lastFault r.sag c va).recEnded r
    | (.asleep d, w) => (w.keepRec r).raiseWake d true
    | (.moving _, w) => w.keepRec r
    | (.cut, w) => (w.poison r.sag 2 0 0 2 1).recEnded r
    | (_, w) => w.recEnded r

/-- A record that keeps no order: that of a launch, or of an operation rejected at issue. -/
def W.record (w : W) (s a : Nat) (l : List Byte) : W := w.writeRec ⟨s, a, l, none, none, [], []⟩

/-- Write the records that wait, where they can be written now. -/
def W.flushRecs (w : W) : W := w.dev.cmp.recs.foldl W.writeRec (w.modCmp fun c => { c with recs := [] })

/-- Condition of a wait (R177). -/
def waitHolds (c : WaitCond) (x v : Nat) : Bool :=
  match c with
  | .eq => x == v
  | .ne => x != v
  | .uge => v ≤ x
  | .sge => decide (sext 32 v ≤ sext 32 x)

/-- Put a word in element 4l of every active lane l of a vector register (R157): the result of a wait (R177), whose elements the spec does
not name (DESIGN CHOICE, log entry 43). -/
def setLanes (b : Bundle) (dst : Nat) (act : BitVec 16) (v : Word) : Bundle :=
  { b with vr := (List.range 16).foldl (fun t l => if act.getLsbD l then Tab.put t (64 * dst + 4 * l) v else t) b.vr }

/-- A bundle that stops waiting reaches an instruction boundary: a pending trap halts it, or an
acknowledgement that came before ends it (R172). -/
def resumeBundle (b : Bundle) : Bundle :=
  match b.trap with
  | .pending => { b with waiting := .no, trap := .halted }
  | .killAtBoundary => { b with waiting := .no, trap := .no, live := 0, term := true }
  | _ => { b with waiting := .no }

/-- The memories before the first of some changes, between them and after the last. -/
def memTrail (m : Mem) : List MemWrite → List Mem
  | [] => [m]
  | x :: t => m :: memTrail (m.apply1 x) t

/-- A bundle whose wait one of some memories satisfies resumes with 1, or with 0 where the wait's time has passed (R177). -/
def settled (now : Nat) (ms : List Mem) (b : Bundle) : Bundle :=
  match b.waiting with
  | .word near pa _ cond x deadline dst act =>
    if ms.any fun m => waitHolds cond (leVal (m.bytes (if near then .near else .hbm) pa 4)) x.toNat then
      resumeBundle (setLanes b dst act (if deadline < now then 0 else 1))
    else b
  | _ => b

/-- Test every wait, of resident and of saved bundles, against memory as each write of the command left it (R177). -/
def W.settleWaits (w : W) : W :=
  let ms := memTrail w.was (w.ws.reverse.drop w.skip)
  w.modCmp fun c =>
    { c with vus := Tab.mapV (fun _ v => { v with bundle := v.bundle.map (settled w.dev.now ms) }) c.vus
             sags := Tab.mapV (fun _ g => { g with saved := g.saved.map fun x => { x with bundle := settled w.dev.now ms x.bundle } }) c.sags }

/-- Run a command that may write memory a wait watches. -/
def actMem (f : W → W) (s : State) : Res := act (fun w => (f w).settleWaits) s

/-- The same, for a command whose operands must be well-formed. -/
def checkedMem (ok : Bool) (f : W → W) (s : State) : Res :=
  match ok with
  | true => actMem f s
  | false => .refused .illFormed

end Sys2Proof.Machine
end

