-- ==== Sys2Proof/Machine/RegGate.lean ====
section
/-!
DEFINITION. Which register accesses take effect: what each agent sees (R498–R503, R510), when the link and the hub serve it
(R222, R387, R418, R437, R445).
-/
namespace Sys2Proof.Machine

/-- The saggar whose view an agent has (R498); the physical function's own structures lie in none. -/
def Dev.ownSag (d : Dev) (ag : Agent) : Nat :=
  match ag with | .vf v => (Tab.look 0 d.pci.vfmap v).toNat % 128 | .reg s => s.val | .pf | .con => 0

/-- Where an agent's MSI-X structures are held (R228, R500). -/
def Dev.fnPlace (d : Dev) (ag : Agent) : RegPlace := .view (d.ownSag ag) false

/-- Whether an agent sees the register, with its fields writable (R498, R510). -/
def Dev.sees (d : Dev) (ag : Agent) (p : RegPlace) : Bool :=
  match ag, p with
  | .pf, _ | .con, _ => true
  | .vf v, .view s ro => !ro && d.pci.vfEnable && (Tab.look 0 d.pci.vfmap v).toNat == 0x80 + s
  | .reg x, .view s ro => !ro && x.val == s
  | _, _ => false

/-- Whether the host link carries an agent's memory requests: the link is up at 16.0 GT/s or more, not held in reset, and
the function has a BAR with Memory Space Enable (R222, R224, R448). -/
def Dev.linkServes (d : Dev) (ag : Agent) : Bool :=
  let up := d.pci.up && !d.pci.slow && !d.pci.perst
  match ag with
  | .pf => up && (d.fn 0).mse
  | .vf v => up && d.pci.vfEnable && (Tab.look 0 d.pci.vfmap v).getLsbD 7 && (d.fn (vfFn v)).mse
  | .con | .reg _ => true

/-- Whether hub-held registers are served: READY, and neither the phase lock nor FAILED (R418, R444, R445). -/
def Dev.hubServes (d : Dev) : Bool := d.start.state == .ready && !d.lockedOut

/-- Whether the hub takes register accesses: ACTIVE, with every domain that its wake returns awake and nothing held before (R387,
R403 step 13). -/
def Dev.hubOpen (d : Dev) : Bool := d.admits hubDom && d.pwr.returning.isEmpty && d.pci.held.isEmpty

/-- A held access of the host. -/
def HeldReq.byHost (h : HeldReq) : Bool := match h.ag with | .pf | .vf _ => true | .con | .reg _ => false

/-- The accesses held at the endpoint are refused (R418): a read of the host completes with Unsupported Request, a write is
discarded. -/
def W.refuseHeld (w : W) : W :=
  w.dev.pci.held.foldl (fun w h => match h.op with
    | .read _ off | .read2 _ _ off | .bad off false => if h.byHost then w.out (.unsupported h.ag off) else w
    | .write _ _ | .write2 _ _ _ | .bad _ true => w) (w.modPci fun p => { p with held := [] })

/-- Run a register access where it takes effect. One that meets a sleeping hub is held at the endpoint and wakes the hub (R387;
log entry 18). -/
def W.regAccess (w : W) (ag : Agent) (p : RegPlace) (op : RegOp) (k : W → W) : W :=
  if !w.dev.linkServes ag || !w.dev.sees ag p then w
  else if p = .aon then (if w.dev.aon.powered then k w else w)
  else if !w.dev.hubServes then w
  else if w.dev.hubOpen then k w
  else (w.modPci fun x => { x with held := x.held ++ [⟨ag, p, op⟩] }).raiseWake hubDom false

end Sys2Proof.Machine
end

