-- ==== Sys2Proof/Machine/HostOps.lean ====
section
/-!
DEFINITION. Requests to the host (R225, R226, R236), and what a host-side error does (R238, R242).
-/
namespace Sys2Proof.Machine

/-- Non-posted requests outstanding: reads and translation requests (R221). -/
def Pci.outstanding (p : Pci) : Nat := p.reads.length + p.atsReqs.length

/-- Whether some reads may be issued with the translation requests that they may need: at most 1,024 outstanding (R221). -/
def Dev.tagsFree (d : Dev) (n : Nat) : Bool := d.pci.outstanding + 2 * n ≤ 1024

def Dev.tagFree (d : Dev) : Bool := d.tagsFree 1

/-- Ask the host for a translation of a page that the chip holds none for, where the function's ATS is enabled (R226). -/
def W.askAts (w : W) (fn addr : Nat) : W :=
  let page := addr / 4096
  if Config.atsEnabled fn ∧ w.dev.pci.outstanding < 1024 ∧ !(w.dev.pci.atc.any fun e => e.fn == fn && e.page == page) ∧ !w.dev.pci.atsReqs.contains (fn, page) then
    (w.modPci fun p => { p with atsReqs := p.atsReqs ++ [(fn, page)] }).out (.atsReq fn page)
  else w

/-- The next of the 16,384 tags that no read in flight uses. -/
def freeTag (used : List Nat) : Nat → Nat → Nat
  | 0, t => t
  | n + 1, t => if used.contains t then freeTag used n ((t + 1) % 16384) else t

/-- Issue a read of host memory (R225, R236). -/
def W.hostRead (w : W) (fn addr len : Nat) (use : HostUse) (ats : Bool) : W :=
  let tag := freeTag (w.dev.pci.reads.map HostRead.tag) 1024 w.dev.pci.nextTag
  let sent := if ats then w.dev.sentAddr fn addr false else (addr, false)
  let w := (w.modPci fun p =>
    { p with nextTag := (tag + 1) % 16384
             reads := p.reads ++ [⟨tag, fn, addr, len, use, w.dev.now, sent.2⟩] }).out (.hostRead tag fn sent.1 sent.2 len)
  if ats then w.askAts fn addr else w

/-- A non-fatal error is counted and reported through AER (R242). -/
def W.nonfatal (w : W) (fn : Nat) : W := (w.modPci fun p => { p with nonfatal := satBv p.nonfatal 1 }).out (.err fn 1)

/-- Note the error that the queue's HOST_ERROR entry names: one per queue and episode (R242, R478). -/
def W.noteHostError (w : W) (q kind index : Nat) : W :=
  w.modQ q fun x => if x.episode then x else { x with episode := true, herr := some (kind, index) }

/-- Write the HOST_ERROR entry that a queue owes (R242, R466 step 3). -/
def W.hostErrorEvent (w : W) (q : Nat) : W :=
  match (w.dev.q q).herr with
  | some (kind, index) =>
    (w.modQ q fun x => { x with herr := none }).event 0x0401 (srcOf 5 q) (some (q / 2)) [(4, kind), (4, index)]
  | none => w

/-- Whether a queue's channel is poisoned (R190, R238). -/
def Dev.queuePoisoned (d : Dev) (q : Nat) : Bool := (d.q q).fail || (d.sag (q / 2)).poisoned 1 0 0 q

/-- End a descriptor in progress: its status and cause, first one wins (R467). -/
def W.endDesc (w : W) (q : Nat) (index : BitVec 16) (status cause : Nat) : W :=
  w.modQ q fun x => { x with descs := x.descs.map fun d =>
    if d.index = index ∧ d.ended.isNone then { d with ended := some (BitVec.ofNat 8 status, BitVec.ofNat 8 cause) } else d }

/-- Descriptors from an index on end with POISONED (R238), the first of them as the one that the error names. -/
def poisonFrom (index : BitVec 16) (norec : Bool) : List Desc → List Desc
  | [] => []
  | d :: t =>
    if d.index = index then
      ({ d with erred := true } :: t).map fun d => if d.ended.isNone then { d with ended := some (0x12, 0), norec } else d
    else d :: poisonFrom index norec t

/-- A transport error on a queue's channel at a descriptor (R191, R238): it and every later one complete with POISONED.
The poison entry follows its record, also where it had ended otherwise before. -/
def W.failQueue (w : W) (q : Nat) (index : BitVec 16) (norec : Bool) : W :=
  w.modQ q fun x => { x with fail := true, descs := poisonFrom index norec x.descs }

/-- A transport error on a queue's channel beside its descriptors (R191, R238): those that have not ended complete with POISONED, and the
poison entry and the log entry appear at once. -/
def W.failRest (w : W) (q : Nat) : W :=
  let w := w.modQ q fun x =>
    { x with fail := true, descs := x.descs.map fun d => if d.ended.isNone then { d with ended := some (0x12, 0) } else d }
  (w.hostErrorEvent q).poison (q / 2) 1 0 0 q 1

/-- Whether a function-level reset holds the queues of a saggar (R241 step 1). -/
def Dev.flrOn (d : Dev) (s : Nat) : Bool := (d.fn 0).flr || (match d.vfOf s with | some v => (d.fn (vfFn v)).flr | none => false)

/-- The queue of a host request. -/
def HostUse.queue? : HostUse → Option Nat
  | .dma q _ _ _ => some q
  | .fetch q _ => some q
  | _ => none

/-- Whether a host read fetches descriptors of a queue. -/
def HostUse.fetches (q : Nat) : HostUse → Bool
  | .fetch k _ => k == q
  | _ => false

end Sys2Proof.Machine
end

