-- ==== Sys2Proof/Machine/Operands.lean ====
section
/-!
DEFINITION. The operands of a thread instruction (R157, R158): when a bundle may issue, its lanes, and reading and
writing its vector and mask registers.
-/
namespace Sys2Proof.Machine

/-- Whether a resident bundle may issue an instruction: it waits for nothing, no fault or trap holds it, its saggar is
not being killed, its cluster is ACTIVE with no switch in progress, and no forced entry of the hub has stopped it (R166, R168, R171,
R172, R392, R396 step 3). -/
def Dev.canIssue (d : Dev) (x : At) : Option Bundle :=
  match d.bundle x.cl x.vu with
  | some b =>
    if b.waiting = .no ∧ !b.faulted ∧ b.trap = .no ∧ b.live ≠ 0 ∧ d.admits x.cl ∧ !(d.dom hubDom).taking ∧ (d.cl x.cl).switching.isNone
      ∧ (d.sag b.sag).st ≠ .killing then some b else none
  | none => none

/-- A thread's own fault at its instruction (R171). -/
def W.faultAt (w : W) (x : At) (act : BitVec 16) (cause sub data : Nat) : W :=
  w.faultBundle x.cl x.vu cause sub x.pc data act

/-- A bundle's failed stores are reported at an instruction (R191 step 1), and the entries that waited for it appear. -/
def W.reportStores (w : W) (x : At) (act : BitVec 16) : W := (w.storesTold x.cl x.vu).faultAt x act 4 0 0

/-- Fetch an instruction through its saggar's translation (R204, R211) before it acts. -/
def W.fetched (w : W) (x : At) (b : Bundle) (act : BitVec 16) (k : W → W) : W :=
  match ({ w with die := some (dieOf x.cl) } : W).access b.sag x.pc.toNat 8 .fetch with
  | (.ok _, w) => k w
  | (.fault f, w) => w.faultAt x act f.code.1 f.code.2 x.pc.toNat
  | (.cut, w) => (w.poison b.sag 2 0 0 2 1).faultAt x act 4 0 x.pc.toNat
  | (.asleep d, w) => w.raiseWake d true
  | (.moving _, w) => w

/-- Issue a thread instruction (R158): nothing happens where the bundle may not issue; otherwise its program counter is
the instruction's, its cluster's idle timer restarts (R391), and the instruction, once fetched, acts on the active live
lanes. -/
def W.instr (w : W) (x : At) (f : W → Bundle → BitVec 16 → W) : W :=
  match w.dev.canIssue x with
  | some b =>
    let act := x.act &&& b.live
    ((((w.bring x.ecc).touch x.cl).modBundle x.cl x.vu fun b => { b with pc := x.pc }).fetched x b act) fun w => f w b act
  | none => w

/-- Whether an operation of the bundle on a vector unit that has not ended yet will write a vector register: an sfx (R87,
R102), a load or atomic held, on the host link or at another chip. An instruction that names the register waits for it
(log entry 17). -/
def Dev.regBusy (d : Dev) (cl vu r : Nat) : Bool :=
  let sfx (q : SfuReq) : Bool := q.who.cl == cl && q.who.vu == vu &&
    (match q.job with | .sfx w _ _ _ => bits w.toNat 29 24 == r | _ => false)
  let here (x : At) : Bool := x.cl.val == cl && x.vu.val == vu
  (d.vu cl vu).sfuQ.any sfx ||
  ([(d.cl cl).sfu0, (d.cl cl).sfu1].any fun u => match u.job with | some j => sfx j.2.1 | none => false) ||
  (d.cmp.held.any fun h => here h.at_ &&
    ((match h.load with | some a => a.1.reg.val == r | none => false) ||
     (match h.amo with | some a => a.2.dst.val == r | none => false))) ||
  (d.fab.ops.any fun o => match o.use with
    | .load x a _ _ => here x && a.reg.val == r
    | .amo x a _ => here x && a.dst.val == r
    | _ => false) ||
  (d.pci.reads.any fun h => match h.use with
    | .load x a _ _ => here x && a.reg.val == r
    | _ => false)

/-- Issue an instruction that names vector registers (R158). -/
def W.instrR (w : W) (x : At) (regs : List Nat) (f : W → Bundle → BitVec 16 → W) : W :=
  if regs.any (w.dev.regBusy x.cl x.vu) then w else w.instr x f

/-- Whether an atomic is a release, or an acquire (R180, R181). -/
def amoRelease (a : AmoArgs) : Bool := 2 ≤ a.ord.val
def amoAcquire (a : AmoArgs) : Bool := a.ord.val % 2 == 1

/-- Whether an instruction of a bundle that accesses memory, or issues an operation that does, waits for an earlier one: one that is
held, or an acquire that has not read yet (R181–R184). -/
def Dev.memWaits (d : Dev) (x : At) : Bool :=
  let here (y : At) : Bool := y.cl == x.cl && y.vu == x.vu
  d.cmp.held.any (fun h => here h.at_) ||
  d.fab.ops.any fun o => match o.use with | .amo y a _ => here y && amoAcquire a | _ => false

/-- Who issues: what records name of a bundle (R84, R171). -/
def issuerOf (x : At) (b : Bundle) (act : BitVec 16) : Issuer :=
  { sag := b.sag, cl := x.cl, vu := x.vu, launch := b.launch, bix := b.bix
    lane := lowLane (if act = 0 then b.live else act), pc := x.pc }

/-- Element `i` of a vector register (R157). One that the bundle has not written holds an open value (log entry 20). -/
def Bundle.elem (b : Bundle) (r i : Nat) : Word := Tab.look (Config.openWord (b.seed + 64 * r + i)) b.vr (64 * r + i)

def Bundle.setElem (b : Bundle) (r i : Nat) (v : Word) : Bundle := { b with vr := Tab.put b.vr (64 * r + i) v }

/-- A mask register (R157). -/
def Bundle.mask (b : Bundle) (m : Nat) : DWord :=
  Tab.look (Config.openWord (b.seed + 4096 + 2 * m) ++ Config.openWord (b.seed + 4097 + 2 * m)) b.mr m

/-- Set bit `i` of a mask register. -/
def Bundle.setMaskBit (b : Bundle) (m i : Nat) (v : Bool) : Bundle :=
  let x := b.mask m
  let one := (1 : DWord) <<< i
  { b with mr := Tab.put b.mr m (if v then x ||| one else x &&& ~~~one) }

/-- The elements of active lanes (R157): lane l owns elements 4l to 4l + 3. -/
def activeElems (act : BitVec 16) : List Nat := (List.range 64).filter fun i => act.getLsbD (i / 4)

/-- The numeric modes an operation of a saggar issues under (R39, R120). -/
def Dev.modeOf (d : Dev) (s : Nat) : IssueMode :=
  ⟨(d.num s).relaxed, (d.cpage s).bexo, (d.cpage s).boundsOnly⟩

/-- Raise a scale hint to a magnitude (R58, R59). -/
def W.raiseHint (w : W) (s h mag : Nat) : W :=
  w.modNum s fun n => { n with hint := Tab.put n.hint h (BitVec.ofNat 31 (max (Tab.look 0 n.hint h).toNat mag)) }

end Sys2Proof.Machine
end

