-- ==== Sys2Proof/Machine/Flags.lean ====
section
/-!
DEFINITION. The five sticky exception flags of a thread (R42, R159).
-/
namespace Sys2Proof.Machine

/-- The low bits of an element that a format occupies (R157). -/
def narrow (f : Fmt) (v : Word) : Nat := v.toNat % 2 ^ f.width

/-- The field fflags (R159): bit 0 inexact, 1 underflow, 2 overflow, 3 divideByZero, 4 invalid. -/
def flagBits (f : Flags) : BitVec 5 := BitVec.ofNat 5 (b2n f.nx + 2 * b2n f.unf + 4 * b2n f.ovf + 8 * b2n f.dz + 16 * b2n f.nv)

/-- A thread's flags. -/
def Bundle.flagsOf (b : Bundle) (lane : Nat) : BitVec 5 := Tab.look 0 b.fflags lane

/-- Raise flags of a thread: they are sticky (R42). -/
def Bundle.raise (b : Bundle) (lane : Nat) (f : Flags) : Bundle :=
  { b with fflags := Tab.put b.fflags lane (b.flagsOf lane ||| flagBits f) }

/-- The flags that any of some elements raise. -/
def Flags.all (l : List Flags) : Flags := l.foldl Flags.or .none

/-- Raise flags in the issuing thread of an asynchronous operation, which is the lowest active lane of its bundle (R84, R96;
DEDUCED, log entry 43). -/
def W.raiseIssuer (w : W) (i : Issuer) (f : Flags) : W := w.modIssuer i fun b => b.raise i.lane f

/-- The OR of the flags of every thread of a bundle (R164). -/
def Bundle.allFlags (b : Bundle) : BitVec 5 := b.fflags.foldl (fun a x => a ||| x.2) 0

end Sys2Proof.Machine
end

