-- ==== Sys2Proof/Machine/SfuOps.lean ====
section
/-!
DEFINITION. What tensor, SFU and row work share: reading and writing operands, completion records (R80), the issue checks
on functions (R89, R116, R125), the tables in force at a cluster (R103, R460).
-/
namespace Sys2Proof.Machine

/-- Raise the wake of a domain that an access waits for (R28). -/
def W.hold (w : W) : Got → W
  | .asleep d => w.raiseWake d true
  | _ => w

/-- Run an operation unless one of the ranges it reaches waits for a sleeping domain or a page move: then it does not
happen yet, and a sleeping domain is woken (R28, R214). -/
def W.gated (w : W) (s : Nat) (ranges : List (Use × Nat × Nat)) (k : W → W) : W :=
  match ranges.findSome? fun x => w.blocked s x.1 (piecesOf x.2.1 x.2.2) with
  | some g => w.hold g
  | none => k w

/-- Read ranges in order, up to the first that fails. -/
def W.fetchMany (w : W) (s : Nat) (u : Use) : List (Nat × Nat) → List (List Byte) → Except Got (List (List Byte)) × W
  | [], acc => (.ok acc.reverse, w)
  | (a, n) :: t, acc =>
    match w.fetchVa s a n u with
    | (.bytes l, w) => W.fetchMany w s u t (l :: acc)
    | (g, w) => (.error g, w)

/-- Write ranges in order, up to the first that fails. -/
def W.storeMany (w : W) (s : Nat) (u : Use) : List (Nat × List Byte) → Except Got Unit × W
  | [] => (.ok (), w)
  | (a, l) :: t =>
    match w.storeVa s a l u with
    | (.bytes _, w) => W.storeMany w s u t
    | (g, w) => (.error g, w)

/-- The status of an operation that met a failure (R81), with MEM.LASTF filled for a memory fault (R211). -/
def W.failStatus (w : W) (s : Nat) : Got → Nat × W
  | .cut => (0x12, w)
  | .fail c va => (0x11, w.lastFault s c va)
  | _ => (0x11, w)

/-- After the report of an operation cut off by the link C0–C1, its channel is recorded as poisoned (R191, R462). -/
def W.afterFail (w : W) (s : Nat) : Got → W
  | .cut => w.poison s 2 0 0 2 1
  | _ => w

/-- What the error-correcting code finds as an operation of a cluster reads memory (R211, R459): corrected errors are
counted; an uncorrectable one puts the first line it reads in error. -/
def W.eccRead (w : W) (src s va : Nat) (u : Use) : Ecc → W
  | .corrected n => w.corrected src n
  | .bad =>
    match (w.access s va 1 u).1 with
    | .ok (.hbm a) => w.put (.bad .hbm (a / 64))
    | .ok (.near a) => w.put (.bad .near (a / 64))
    | _ => w
  | _ => w

/-- A completion record (R80). -/
def recordBytes (status op slot cl sat flush tag flags : Nat) : List Byte :=
  leBytes 4 (status * 2 ^ 24 + op * 2 ^ 16 + slot * 2 ^ 8 + cl % 128) ++
  leBytes 4 (satAdd 16 0 sat * 2 ^ 16 + satAdd 16 0 flush) ++ leBytes 4 tag ++ leBytes 4 (2 ^ 31 + flags)

/-- The contents of a loaded table slot, and of a loaded recipe slot (R107). -/
def Dev.tslot (d : Dev) (t : Nat) : TSlot := Tab.look .empty d.cmp.crv.tables t
def Dev.rslot (d : Dev) (r : Nat) : TSlot := Tab.look .empty d.cmp.crv.recipes r

def TSlot.table (x : TSlot) : Option CurveTable :=
  match x.state, x.body with
  | 2, some (.table t) => some t
  | _, _ => none

def TSlot.recipe (x : TSlot) : Option Recipe :=
  match x.state, x.body with
  | 2, some (.recipe r) => some r
  | _, _ => none

/-- The table slot that a binding of a bank names. -/
def Bank.slot (k : Bank) (b : Nat) : Option Nat := (k.binds[b]?).join

/-- Whether a reference of a recipe finds its table (R116). -/
def Dev.refOk (d : Dev) (k : Bank) (ref : Option Nat) (ident : Nat) : Bool :=
  match ref with
  | none => true
  | some b =>
    match k.slot b with
    | some t => (d.tslot t).table.isSome && (d.tslot t).ident.toNat == ident
    | none => false

/-- Whether a function is bound under a bank (R89, R116). -/
def Dev.funcBound (d : Dev) (k : Bank) : FnSel → Bool
  | .ctab b | .gctab b => match k.slot b with | some t => (d.tslot t).table.isSome | none => false
  | .rcpe r => k.rperm.getLsbD r &&
      (match (d.rslot r).recipe with
       | some x => d.refOk k x.ref0 x.id0 && d.refOk k x.ref1 x.id1
       | none => false)
  | _ => true

/-- A slot of the table store as one number: tables 0–63, then recipes. -/
def storeKey (recipe : Bool) (slot : Nat) : Nat := if recipe then 64 + slot else slot

/-- The slots that a function reads: its table, or its recipe and the recipe's tables. -/
def Dev.funcSlots (d : Dev) (k : Bank) : FnSel → List Nat
  | .ctab b | .gctab b => (k.slot b).toList
  | .rcpe r =>
    storeKey true r ::
      (match (d.rslot r).recipe with
       | some x => [x.ref0, x.ref1].filterMap fun ref => ref.bind k.slot
       | none => [])
  | _ => []

/-- A slot of the table store by its number there. -/
def Dev.storeAt (d : Dev) (key : Nat) : TSlot := if key < 64 then d.tslot key else d.rslot (key - 64)

/-- Whether a function uses only contents with a certification stamp (R89, R118): its table, or its recipe and every table that
the recipe references. -/
def Dev.funcCert (d : Dev) (k : Bank) (sel : FnSel) : Bool := (d.funcSlots k sel).all fun key => (d.storeAt key).cert

/-- The checks of R89 on a function, from FUNC_RESERVED on: a status, or 0. -/
def Dev.funcStatus (d : Dev) (k : Bank) (m : IssueMode) (func : Nat) (ofmt : Fmt) : Nat :=
  match FnSel.ofCode func with
  | none => 0x20
  | some sel =>
    if m.bexo ∧ !bexoAllows func then 0x20
    else if !d.funcBound k sel then 0x21
    else if ofmt.width ≤ 16 ∧ !d.funcCert k sel ∧ !m.boundsOnly ∧ !m.bexo then 0x22
    else 0

/-- The function that a code names; a reserved code, which the issue checks have rejected, stands for pass. -/
def selOf (func : Nat) : FnSel := (FnSel.ofCode func).getD (.base .pass)

/-- The tables that a function finds under a bank, with the contents of its slots as they stand now (R103). -/
def Dev.tables (d : Dev) (k : Bank) (sel : FnSel) : Tables := ⟨k, (d.funcSlots k sel).map fun key => (key, d.storeAt key)⟩

/-- What an instruction keeps of a slot of the table store. -/
def Tables.at_ (t : Tables) (key : Nat) : TSlot := Tab.look .empty t.held key

/-- Whether a use of an instruction's tables fails (R460): a slot had failed, or has failed since while it still holds the
contents that the instruction keeps, or the cluster's copy of it is in error. -/
def Dev.tablesFail (d : Dev) (cl : Nat) (t : Tables) : Bool :=
  t.held.any fun x =>
    x.2.failed || ((d.storeAt x.1).failed && decide ((d.storeAt x.1).body = x.2.body)) || (d.cl cl).copyErr.contains x.1

/-- A cluster loads its copies of the slots that a failed use met again (R460). -/
def W.reloadCopies (w : W) (cl : Nat) (t : Tables) : W :=
  w.modCl cl fun c => { c with copyErr := c.copyErr.filter fun x => !(t.held.any fun y => y.1 == x) }

/-- The environment of SFU work under the tables of its grant (R103, R120, R125). -/
def Tables.env (t : Tables) (m : IssueMode) : SfuEnv :=
  ⟨m.relaxed, m.bexo, m.boundsOnly, fun b => (t.bank.slot b).bind fun x => (t.at_ (storeKey false x)).table,
    fun r => (t.at_ (storeKey true r)).recipe⟩

/-- Change the SFU queue of a vector unit. -/
def W.pushSfu (w : W) (cl vu : Nat) (r : SfuReq) : W := w.modVu cl vu fun v => { v with sfuQ := v.sfuQ ++ [r] }

/-- Whether batches of an operation are still waiting or in an SFU (R21, R100). -/
def SfuReq.isBatch (tq : Bool) (id : Nat) (r : SfuReq) : Bool :=
  match r.job with
  | .batch t i _ => t == tq && i == id
  | _ => false

def Dev.batchesLeft (d : Dev) (cl : Nat) (tq : Bool) (id : Nat) : Bool :=
  ((List.range 4).any fun v => (d.vu cl v).sfuQ.any (SfuReq.isBatch tq id)) ||
  [(d.cl cl).sfu0, (d.cl cl).sfu1].any fun u => match u.job with | some j => SfuReq.isBatch tq id j.2.1 | none => false

/-- A number for an operation. -/
def W.newId (w : W) : Nat × W := (w.dev.cmp.nextId, w.modCmp fun c => { c with nextId := c.nextId + 1 })

/-- Read a command of an instruction from its saggar's memory (R62, R129, R366): a fault in that read is the
instruction's own memory fault (DEDUCED, log entry 14). The bundle's earlier memory instructions are performed first, and the issue
is a release of them for the operation's reads (R181, R184), which reports failed stores (R191 step 1). -/
def W.withCmd (w : W) (x : At) (b : Bundle) (act : BitVec 16) (a n : Nat) (k : W → List Byte → W) : W :=
  let w := { w with die := some (dieOf x.cl) }
  if w.dev.memWaits x then w
  else if b.storePoison then w.reportStores x act
  else match w.fetchVa b.sag a n (.operand false) with
  | (.bytes l, w) => k w l
  | (.fail c va, w) => w.faultAt x act 3 c va
  | (.cut, w) => (w.poison b.sag 2 0 0 2 1).faultAt x act 4 0 a
  | (g, _) => w.hold g

/-- One more asynchronous operation of the bundle. -/
def W.asyncIssued (w : W) (x : At) : W := w.modBundle x.cl x.vu fun b => { b with asyncOut := b.asyncOut + 1 }

end Sys2Proof.Machine
end

