-- ==== Sys2Proof/Machine/Dma.lean ====
section
/-!
DEFINITION. DMA queues (R229–R245): posting, fetching, starting, moving and completing descriptors.
-/
namespace Sys2Proof.Machine

/-- Entries of a queue's ring (R229, R245: a log2 outside 4–12 acts as 4). -/
def DmaQ.entries (q : DmaQ) : Nat := 2 ^ (if 4 ≤ q.size.toNat ∧ q.size.toNat ≤ 12 then q.size.toNat else 4)

/-- Where entry `i` stands (R229, R245). -/
def DmaQ.entryAddr (q : DmaQ) (i : Nat) : Nat := (q.base.toNat / 64 * 64 + 64 * (i % q.entries)) % 2 ^ 64

/-- DMA.QSTAT.busy (R232). -/
def DmaQ.busy (q : DmaQ) : Bool := q.descs ≠ [] || q.reads ≠ []

/-- A write to DMA.QPROD (R229). -/
def W.qprod (w : W) (q : Nat) (v : BitVec 16) : W :=
  let x := w.dev.q q
  let lead := (v - x.cons).toNat
  if v = x.prod then w
  else if x.entries < lead ∨ lead < (x.prod - x.cons).toNat then w.modQ q fun x => { x with overd := true }
  else w.modQ q fun x => { x with prod := v }

/-- QPROD_WRITE (R229, R230). -/
def execQprodWrite (ag : Agent) (q : Fin 256) (v : Word) : State → Res := act fun w =>
  w.regAccess ag (.view (q / 2) false) (.write (.blk 0x20000 (0x40 * q + 0xC)) v) fun w => w.qprod q (v.truncate 16)

/-- A write to DMA.QBASE or DMA.QSIZE (R232): while the queue is enabled or busy it only sets over. -/
def W.qring (w : W) (q : Nat) (f : DmaQ → DmaQ) : W :=
  w.modQ q fun x => if x.en || x.busy then { x with overd := true } else f x

/-- A write to DMA.QCTL (R232, R239, R245): en = 1 on a stopped queue without work clears a halt. -/
def W.qctl (w : W) (q : Nat) (v : Word) : W :=
  w.modQ q fun x =>
    let on := v.getLsbD 0
    let clears := on && !x.en && !x.busy
    { x with burst := BitVec.ofNat 3 (bits v.toNat 6 4), relaxed := v.getLsbD 1, en := on
             halted := x.halted && !clears, ferr := if clears then 0 else x.ferr }

/-- QUEUE_ENABLE (R232, R239). -/
def execQueueEnable (ag : Agent) (q : Fin 256) (v : Word) : State → Res := act fun w =>
  w.regAccess ag (.view (q / 2) false) (.write (.blk 0x20000 (0x40 * q + 0x18)) (v ||| 1)) fun w => w.qctl q (v ||| 1)

/-- QUEUE_DISABLE (R232). -/
def execQueueDisable (ag : Agent) (q : Fin 256) (v : Word) : State → Res := act fun w =>
  w.regAccess ag (.view (q / 2) false) (.write (.blk 0x20000 (0x40 * q + 0x18)) (v &&& ~~~1)) fun w => w.qctl q (v &&& ~~~1)

/-- Cut a read of consecutive entries at the ring end (R231) and at 4 KiB boundaries: first index and number of each
part. -/
def fetchParts (q : DmaQ) : Nat → BitVec 16 → Nat → List (BitVec 16 × Nat)
  | 0, _, _ => []
  | f + 1, first, n =>
    if n = 0 then []
    else
      let k := min n (min (q.entries - first.toNat % q.entries) ((4096 - q.entryAddr first.toNat % 4096) / 64))
      (first, k) :: fetchParts q f (first + BitVec.ofNat 16 k) (n - k)

/-- The first entry that the next read covers (R229): QFETCH and the reads in flight. -/
def DmaQ.nextFetch (q : DmaQ) : BitVec 16 := q.fetch + BitVec.ofNat 16 ((q.reads.map FetchRead.n).sum)

/-- The fetch of a queue halts (R239). -/
def W.haltFetch (w : W) (q ferr : Nat) : W :=
  (w.modQ q fun x => { x with halted := true, ferr := BitVec.ofNat 8 ferr }).event 0x0403 (srcOf 5 q) (some (q / 2)) [(4, ferr)]

/-- Drop the reads of descriptors in flight: their entries are read again (R222, R239). -/
def W.dropFetches (w : W) (q : Nat) : W :=
  (w.modQ q fun x => { x with reads := [] }).modPci fun p => { p with reads := p.reads.filter fun r => !r.use.fetches q }

/-- A host-side error on a descriptor fetch (R238, R239, R242). -/
def W.fetchHostFail (w : W) (q kind : Nat) : W :=
  let w := (w.noteHostError q kind (w.dev.q q).fetch.toNat).modQ q fun x => { x with fail := true, fetchFail := true }
  let w := w.dropFetches q
  ((w.haltFetch q 0xFF).hostErrorEvent q).poison (q / 2) 1 0 0 q 1

/-- A fault of the translation on the ring (R204, R239): MEM.LASTF is filled. -/
def W.fetchFault (w : W) (q cause va : Nat) : W := (w.lastFault (q / 2) cause va).haltFetch q cause

/-- Cut a read of consecutive entries into parts of at most some entries: the first index, its place in the read and the number of each. -/
def entryParts (most : Nat) (first : BitVec 16) (n : Nat) : List (BitVec 16 × Nat × Nat) :=
  (List.range ((n + most - 1) / most)).map fun i => (first + BitVec.ofNat 16 (most * i), most * i, min most (n - most * i))

/-- Issue one read of descriptors, of host memory in requests of at most the maximum read request size (R221). The answer says whether the
next part may be issued. -/
def W.fetchPart (w : W) (q : Nat) (p : BitVec 16 × Nat) : Bool × W :=
  let x := w.dev.q q
  let a := x.entryAddr p.1.toNat
  match w.access (q / 2) a (64 * p.2) .ring with
  | (.ok (.host s h), w) =>
    let parts := entryParts (max 1 (w.dev.pci.maxRead / 64)) p.1 p.2
    if w.dev.pci.up ∧ w.dev.tagsFree parts.length then
      (true, parts.foldl (fun w y =>
        (w.modQ q fun x => { x with reads := x.reads ++ [⟨y.1, y.2.2, true, none⟩] }).hostRead (w.dev.fnOf s) (h + 64 * y.2.1) (64 * y.2.2)
          (.fetch q y.1) true) w)
    else (false, w)
  | (.ok _, w) => (true, w.modQ q fun x => { x with reads := x.reads ++ [⟨p.1, p.2, false, none⟩] })
  | (.fault f, w) => (false, if x.reads = [] then w.fetchFault q f.memCause a else w)
  | (.asleep d, w) => (false, w.raiseWake d true)
  | (_, w) => (false, w)

def W.fetchAll (w : W) (q : Nat) : List (BitVec 16 × Nat) → W
  | [] => w
  | p :: t => match w.fetchPart q p with
    | (true, w) => W.fetchAll w q t
    | (false, w) => w

/-- DESCRIPTOR_FETCH (R222, R229–R232, R239): reads of at most 2^burst entries (a burst above 3 acts as 3), never at or beyond QPROD. -/
def execDescriptorFetch (k : Found (Fin 256)) : State → Res := act fun w =>
  let q := k.of.val
  let w := w.bring k.ecc
  let x := w.dev.q q
  let left := (x.prod - x.nextFetch).toNat
  let room := 16 - min 16 (x.descs.length + (x.reads.map FetchRead.n).sum)
  let n := min (min left (2 ^ min 3 x.burst.toNat)) room
  if !x.en ∨ x.halted ∨ w.dev.flrOn (q / 2) ∨ w.dev.pci.slow ∨ !w.dev.hubServes ∨ n = 0 then w
  else if !w.dev.admits hubDom then w.raiseWake hubDom false
  else if x.fetchFail then w.modQ q fun x => { x with halted := true, ferr := 0xFF }
  else w.fetchAll q (fetchParts x n x.nextFetch n)

/-- A descriptor (R233). -/
structure DmaCmd where
  op : Nat
  fence : Bool
  irq : Bool
  len : Nat
  src : Nat
  dst : Nat
  recA : Nat
  tag : Nat
  deriving DecidableEq, Repr

def dmaCmdOf (l : List Byte) : DmaCmd :=
  let w0 := leAt l 0 4
  { op := bits w0 31 24, fence := bit w0 23, irq := bit w0 22, len := leAt l 4 4, src := leAt l 8 8, dst := leAt l 16 8
    recA := leAt l 0x30 8, tag := leAt l 0x38 4 }

/-- BAD_DESC (R235). -/
def dmaBad (l : List Byte) : Bool :=
  let c := dmaCmdOf l
  bits (leAt l 0 4) 21 0 ≠ 0 || ((l.drop 0x18).take 24).any (fun b => b ≠ 0) || (l.drop 0x3C).any (fun b => b ≠ 0) ||
  !(c.op == 1 || c.op == 2 || c.op == 3) ||
  (if c.op = 3 then c.len ≠ 0 else c.len == 0 || 1073741824 < c.len) || c.recA % 16 ≠ 0 ||
  (c.op == 1 && rangesMeet c.src c.len c.dst c.len)

/-- A descriptor is accepted (R235, R238): on a poisoned queue it completes with POISONED. -/
def W.acceptDesc (w : W) (q : Nat) (l : List Byte) : W :=
  let bad := w.dev.queuePoisoned q
  w.modQ q fun x =>
    { x with fetch := x.fetch + 1
             descs := x.descs ++ [{ index := x.fetch, bytes := l, started := false, pos := 0, waiting := 0, doms := [], asked := []
                                    norec := false, erred := false
                                    ended := if bad then some (0x12, 0) else if dmaBad l then some (0x70, 0) else none }] }

/-- Accept the descriptors of an on-package read, up to one that cannot be read (R239). -/
def W.acceptRead : Nat → W → Nat → W
  | 0, w, _ => w
  | n + 1, w, q =>
    let a := (w.dev.q q).entryAddr (w.dev.q q).fetch.toNat
    match w.access (q / 2) a 64 .ring with
    | (.ok p, w) => W.acceptRead n (w.acceptDesc q (w.getPlace p 64)) q
    | (.fault f, w) => (w.modQ q fun x => { x with reads := [] }).fetchFault q f.memCause a
    | (_, w) => w

/-- Cut bytes into descriptors. -/
def descsOf : Nat → List Byte → List (List Byte)
  | 0, _ => []
  | n + 1, l => padTo 64 (l.take 64) :: descsOf n (l.drop 64)

/-- The kind of a host-side error in the list of R238 (R478). -/
def hostErrKind : HostEnd → Nat
  | .timeout => 1
  | _ => 0

/-- A failed read that has become the oldest of its queue halts the fetch at its first entry (R239). -/
def W.fetchSettle (w : W) (q : Nat) : W :=
  match (w.dev.q q).reads with
  | r :: _ =>
    match r.bad with
    | some (.host kind) => w.fetchHostFail q kind
    | some (.fault cause) => (w.dropFetches q).fetchFault q cause ((w.dev.q q).entryAddr (w.dev.q q).fetch.toNat)
    | none => w
  | [] => w

/-- A read of descriptors has failed: what was fetched before it is still awaited (R239). -/
def W.fetchFails (w : W) (q : Nat) (first : BitVec 16) (bad : FetchBad) : W :=
  (w.modQ q fun x => { x with reads := x.reads.map fun r => if r.host && r.first == first then { r with bad := some bad } else r }).fetchSettle q

/-- The oldest read of descriptors of a queue returns (R222, R230, R231, R239). While the link is slow nothing is taken, and the entries
are read again. -/
def W.fetchReturn (w : W) (q : Nat) (res : HostEnd) (data : List Byte) : W :=
  match (w.dev.q q).reads with
  | [] => w
  | r :: t =>
    if w.dev.pci.slow then w.dropFetches q
    else if r.host then
      let w := w.modPci fun p => { p with reads := p.reads.filter fun x => x.use ≠ .fetch q r.first }
      if res = .ok then
        ((descsOf r.n data).foldl (fun w l => w.acceptDesc q l) (w.modQ q fun x => { x with reads := t })).fetchSettle q
      else (w.nonfatal (w.dev.fnOf (q / 2))).fetchHostFail q (hostErrKind res)
    else
      let a := (w.dev.q q).entryAddr r.first.toNat
      match w.blocked (q / 2) .ring [(a, 64)] with
      | some g => w.hold g
      | none => (W.acceptRead r.n (w.modQ q fun x => { x with reads := t }) q).fetchSettle q

/-- DESCRIPTOR_FETCH_RETURN (R230, R231, R239): a read of host memory returns with the host's answer. -/
def execDescriptorFetchReturn (q : Found (Fin 256)) (res : HostEnd) (data : List Byte) : State → Res := act fun w =>
  (w.bring q.ecc).fetchReturn q.of res data

/-- The first descriptor of a queue that has neither started nor ended, where it may start (R222, R236). -/
def Dev.startable (d : Dev) (q : Nat) : Option Desc :=
  let x := d.q q
  match x.descs.find? fun y => !y.started && y.ended.isNone with
  | some y =>
    let fenced := (dmaCmdOf y.bytes).fence && (match x.descs with | z :: _ => z.index ≠ y.index | [] => false)
    if fenced || 16 ≤ (x.descs.filter fun z => z.started).length || d.pci.slow then none else some y
  | none => none

/-- The leaf of an address as the tables in memory stand, with its level; the levels left to go. -/
def leafAt (m : Mem) : Nat → Nat → Nat → Nat → Option (Nat × Nat)
  | 0, _, _, _ => none
  | n + 1, va, level, table =>
    let e := leVal (m.bytes .hbm (table + 8 * (va / 2 ^ levelShift level % 512)) 8)
    if !pteV e || !pteOk level e then none
    else if pteLeaf e then some (level, e)
    else leafAt m n va (level + 1) (pteAddr e)

/-- The domain that the page of an address lies in, by its leaf, if it may sleep (R243). Whether the stacks of the tables sleep does not
matter. -/
def W.leafDom (w : W) (s va : Nat) : Option Nat :=
  let root := (w.dev.mpage s).cur.root.toNat
  if bit va 63 || !bit root 0 then none
  else match leafAt w.mem 4 va 1 (bits root 47 12 * 4096) with
    | some (level, e) =>
      let a := pteAddr e + va % 2 ^ pageBits level
      if pteTgt e = 0 then some (hbmDom (hbmStack a)) else if pteTgt e = 1 then some (a / 2 ^ 20) else none
    | none => none

/-- The domains that a range of a saggar's memory lies in, each once. -/
def W.rangeDoms (w : W) (s a len : Nat) : List Nat :=
  (piecesOf a len).foldl (fun l p => match w.leafDom s p.1 with
    | some d => if l.contains d then l else l ++ [d]
    | none => l) []

/-- The domains that a descriptor touches while it is in progress (R243): the hub, and those that its ends lie in. -/
def W.descDoms (w : W) (q : Nat) (c : DmaCmd) : List Nat :=
  hubDom :: w.rangeDoms (q / 2) c.dst (if c.op = 3 then 0 else c.len) ++ w.rangeDoms (q / 2) c.src (if c.op = 1 then c.len else 0)

/-- A page of a saggar has another leaf: the domains of its descriptors in progress follow (R243). -/
def W.redoDoms (w : W) (s : Nat) : W :=
  [2 * s, 2 * s + 1].foldl (fun w q => w.modQ q fun x =>
    { x with descs := x.descs.map fun d =>
        if d.started && d.ended.isNone then { d with doms := w.descDoms q (dmaCmdOf d.bytes) } else d }) w

/-- Start a descriptor of an op (R233, R236). -/
def W.startDesc (w : W) (q op : Nat) : W :=
  match w.dev.startable q with
  | some y =>
    if (dmaCmdOf y.bytes).op = op then
      let doms := w.descDoms q (dmaCmdOf y.bytes)
      w.modQ q fun x => { x with descs := x.descs.map fun z => if z.index = y.index then { z with started := true, doms } else z }
    else w
  | none => w

/-- COPY (R233–R236). -/
def execCopy (q : Fin 256) : State → Res := act fun w => w.startDesc q 1

/-- FILL (R233–R236). -/
def execFill (q : Fin 256) : State → Res := act fun w => w.startDesc q 2

/-- RECORD_ONLY (R233, R236). -/
def execRecordOnly (q : Fin 256) : State → Res := act fun w => w.startDesc q 3

/-- Change one descriptor of a queue. -/
def W.modDesc (w : W) (q : Nat) (index : BitVec 16) (f : Desc → Desc) : W :=
  w.modQ q fun x => { x with descs := x.descs.map fun d => if d.index = index then f d else d }

def Place.isHost : Place → Bool
  | .host _ _ => true
  | _ => false

/-- The largest chunk with given ends (R236): no 4 KiB boundary crossed at either end, nor the link's sizes exceeded. -/
def chunkLen (pci : Pci) (c : DmaCmd) (pos : Nat) (ps : Option Place) (pd : Place) : Nat :=
  let n := min (c.len - pos) (4096 - (c.dst + pos) % 4096)
  let n := if c.op = 1 then min n (4096 - (c.src + pos) % 4096) else n
  let n := match ps with | some (.host _ _) => min n pci.maxRead | _ => n
  match pd with | .host _ _ => min n pci.maxPayload | _ => n

/-- The bytes of a fill (R233). -/
def fillBytes (c : DmaCmd) (pos n : Nat) : List Byte :=
  (List.range n).map fun i => BitVec.ofNat 8 (c.src / 2 ^ (8 * ((c.dst + pos + i) % 8)))

/-- The domains that a chunk's ends lie in. -/
def chunkDoms (ps : Option Place) (pd : Place) : List Nat :=
  (match ps with | some p => (placeDom p).toList | none => []) ++ (placeDom pd).toList

/-- A chunk of a copy or fill whose ends may be used (R233, R234, R236). `none` when it must wait for the link. -/
def W.chunkMove (w : W) (q : Nat) (y : Desc) (c : DmaCmd) (ps : Option Place) (pd : Place) : Option W :=
  let n := chunkLen w.dev.pci c y.pos ps pd
  let hs := match ps with | some p => p.isHost | none => false
  if (hs && pd.isHost) ∨ ((hs || pd.isHost) && w.dev.pci.slow) then
    let va := if hs then c.src + y.pos else c.dst + y.pos
    some ((w.lastFault (q / 2) 0x0C va).endDesc q y.index 0x11 0x0C)
  else if (hs || pd.isHost) ∧ !w.dev.pci.up then none
  else
    let step (w : W) : W := w.modDesc q y.index fun d =>
      { d with pos := d.pos + n, doms := d.doms ++ (chunkDoms ps pd).filter fun x => !d.doms.contains x }
    let ask (w : W) : W := match pd with
      | .host s h =>
        let w := w.askAts (w.dev.fnOf s) h
        if w.dev.pci.atsReqs.contains (w.dev.fnOf s, h / 4096) then
          w.modDesc q y.index fun d =>
            { d with asked := if d.asked.any fun a => a.1 == h / 4096 then d.asked else d.asked ++ [(h / 4096, c.dst + y.pos)] }
        else w
      | _ => w
    match ps with
    | some (.host s h) =>
      if w.dev.tagFree then
        some (((step w).modDesc q y.index fun d => { d with waiting := d.waiting + 1 }).hostRead (w.dev.fnOf s) h n
          (.dma q y.index (c.dst + y.pos) n) true)
      else none
    | some p =>
      let l := w.getPlace p n
      some (step ((ask w).putPlace pd l))
    | none => some (step ((ask w).putPlace pd (fillBytes c y.pos n)))

/-- Serve one chunk of a descriptor. `none` when it must wait; a sleeping domain is then woken. -/
def W.chunk (w : W) (q : Nat) (y : Desc) (ecc : Ecc) : Option W × W :=
  let c := dmaCmdOf y.bytes
  let s := q / 2
  let va := c.src + y.pos
  let vd := c.dst + y.pos
  let n := min (c.len - y.pos) (min (4096 - vd % 4096) (if c.op = 1 then 4096 - va % 4096 else 4096))
  match w.blocked s (.dma false) (if c.op = 1 then [(va, n)] else []), w.blocked s (.dma true) [(vd, n)] with
  | some g, _ => (none, w.hold g)
  | none, some g => (none, w.hold g)
  | none, none =>
    let src := match (w.access s va 1 (.dma false)).1 with | .ok (.near a) => srcOf 1 (a / 2 ^ 20) | .ok (.hbm a) => srcOf 4 (hbmStack a) | _ => srcOf 2 0
    let w := if c.op = 1 then w.eccRead src s va (.dma false) ecc else w
    let fail (w : W) (f : AFault) (a : Nat) : W := (w.lastFault s f.memCause a).endDesc q y.index 0x11 f.memCause
    if c.op = 1 then
      match w.access s va n (.dma false) with
      | (.ok ps, w) =>
        match w.access s vd n (.dma true) with
        | (.ok pd, w) => (w.chunkMove q y c (some ps) pd, w)
        | (.fault f, w) => (some (fail w f vd), w)
        | (_, w) => (none, w)
      | (.fault f, w) => (some (fail w f va), w)
      | (_, w) => (none, w)
    else
      match w.access s vd n (.dma true) with
      | (.ok pd, w) => (w.chunkMove q y c none pd, w)
      | (.fault f, w) => (some (fail w f vd), w)
      | (_, w) => (none, w)

/-- The descriptor of a queue with bytes left to move. -/
def DmaQ.ready (q : DmaQ) : Option Desc :=
  q.descs.find? fun d => d.started && d.ended.isNone && (dmaCmdOf d.bytes).op ≠ 3 && d.pos < (dmaCmdOf d.bytes).len

/-- Serve the first queue in an order that has a chunk ready (R236). -/
def W.serveFirst (w : W) (ecc : Ecc) : List Nat → W
  | [] => w
  | q :: t =>
    match (w.dev.q q).ready with
    | some y =>
      match W.chunk { w with rep := [.desc q y.index] } q y ecc with
      | (some w, _) => w.modDev fun d => { d with dma := { d.dma with last := q } }
      | (none, w) => W.serveFirst w ecc t
    | none => W.serveFirst w ecc t

/-- DMA_CHUNK (R28, R234, R236): one chunk, round-robin over the 256 queues. -/
def execDmaChunk (ecc : Ecc) : State → Res := actMem fun w =>
  w.serveFirst ecc ((List.range 256).map fun k => (w.dev.dma.last + 1 + k) % 256)

/-- Whether a descriptor has ended: its status and cause (R237). It waits for the translations that its writes have asked for
(R226). -/
def Desc.result (d : Desc) : Option (Nat × Nat) :=
  match d.ended with
  | some (s, c) => if d.waiting = 0 then some (s.toNat, c.toNat) else none
  | none =>
    let c := dmaCmdOf d.bytes
    if d.started && d.waiting == 0 && d.asked.isEmpty && (c.op == 3 || c.len ≤ d.pos) then some (0, 0) else none

/-- A DMA completion record (R237). -/
def dmaRecord (q : Nat) (index : BitVec 16) (c : DmaCmd) (status cause : Nat) : List Byte :=
  leBytes 4 (status * 2 ^ 24 + c.op * 2 ^ 16 + q) ++ leBytes 4 index.toNat ++ leBytes 4 c.tag ++ leBytes 4 (2 ^ 31 + cause)

/-- The oldest descriptor of a queue leaves it, with its record written or not; one that a transport error names counts on the channel
(R237, R238). -/
def W.descDone (w : W) (q : Nat) (c : DmaCmd) (status : Nat) (written : Bool) : W :=
  let erred := (w.dev.q q).descs.head?.any Desc.erred
  let w := w.modQ q fun x =>
    { x with descs := x.descs.drop 1, cons := x.cons + 1, done := if written then satBv x.done 1 else x.done }
  let w := if (status = 0x12 ∨ erred) ∧ w.dev.queuePoisoned q then (w.hostErrorEvent q).poison (q / 2) 1 0 0 q 1 else w
  if c.irq ∧ written then w.fireQueue q else w

/-- DMA_COMPLETE (R185, R237, R240): the oldest descriptor of a queue has ended; its record is written in ring order. -/
def execDmaComplete (q : Fin 256) : State → Res := actMem fun w =>
  match (w.dev.q q).descs with
  | [] => w
  | y :: _ =>
    match y.result with
    | none => w
    | some (status, cause) =>
      let c := dmaCmdOf y.bytes
      let s := q.val / 2
      let l := dmaRecord q y.index c status cause
      w.gated s [(.dma true, c.recA, 16)] fun w =>
        match w.access s c.recA 16 (.dma true) with
        | (.ok p, w) =>
          if p.isHost ∧ y.norec then w.descDone q c status false
          else if p.isHost ∧ !w.dev.pci.up then w
          else
            match w.storeVa s c.recA l (.dma true) with
            | (.bytes _, w) => w.descDone q c status true
            | (.fail k va, w) => (w.lastFault s k va).descDone q c status false
            | (_, w) => w
        | (.fault f, w) => (w.lastFault s f.memCause c.recA).descDone q c status false
        | (_, w) => w

end Sys2Proof.Machine
end

