-- ==== Sys2Proof/Machine/RowNum.lean ====
section
/-!
DEFINITION. The arithmetic of one row of each row operation (R132–R150) and the merges of partials (R140, R145).
-/
namespace Sys2Proof

/-- A pair (s, e) with what its forming did: saturated. -/
structure PairV where
  s : Val
  e : Val
  sat : Bool
  deriving DecidableEq, Repr

def PairV.zero : PairV := ⟨Val.zero false, Val.zero false, false⟩

/-- pair_add of R134: subnormals are honoured in every mode, and an e that overflows saturates at either of its additions. -/
def pairAdd (a b : PairV) : PairV :=
  if a.s.isNaN || b.s.isNaN then ⟨.nan false, Val.zero false, a.sat || b.sat⟩
  else
    let x := (Val.addX .rne a.s b.s).1
    let t := flOv x
    if t.2 then ⟨max32 x.sign, Val.zero false, true⟩
    else
      let z := fsub t.1 a.s
      let d := fadd (fsub a.s (fsub t.1 z)) (fsub b.s z)
      let ee := flOv (Val.addX .rne a.e b.e).1
      let ex := (Val.addX .rne ee.1 d).1
      let e' := flOv ex
      if ee.2 then ⟨t.1, max32 ee.1.sign, true⟩
      else if e'.2 then ⟨t.1, max32 ex.sign, true⟩
      else ⟨t.1, e'.1, a.sat || b.sat⟩

/-- Sum of terms in element order within one part, marking the elements whose addition saturated. -/
def sumPart : List Val → PairV → List Bool → PairV × List Bool
  | [], p, marks => (p, marks.reverse)
  | x :: xs, p, marks =>
    let q := pairAdd { p with sat := false } ⟨x, Val.zero false, false⟩
    sumPart xs q (q.sat :: marks)

/-- Part length (R132). -/
def partLen (n span : Nat) : Nat := 32 * cdiv n (32 * 2 ^ span)

/-- Combine part sums at the lead in part order (R134). Where the combination of two part sums saturates, the first element of the
later part counts: R134 names none (DESIGN CHOICE, log entry 39). -/
def combineParts (ps : List (PairV × List Bool)) : PairV × List Bool :=
  match ps with
  | [] => (.zero, [])
  | p :: rest =>
    rest.foldl (fun (acc : PairV × List Bool) (q : PairV × List Bool) =>
      let r := pairAdd { acc.1 with sat := false } { q.1 with sat := false }
      let qm := match q.2 with
        | [] => []
        | b :: bs => (b || r.sat) :: bs
      (r, acc.2 ++ qm)) p

/-- Sum of a row's terms over its span (R132, R134), with the elements whose addition saturated. -/
def rowSum (span : Nat) (xs : List Val) : PairV × List Bool :=
  combineParts ((chunks (partLen xs.length span) (xs.length + 1) xs).map (fun c => sumPart c .zero []))

/-- The exact value of a pair. -/
def PairV.total (p : PairV) : Val := (Val.addX .rne p.s p.e).1

/-- One element of a row on its way to the output: its exact value, its marks, whether its NaN is produced here, and the flags that
its own SFU results raise (R96). -/
structure RowElem where
  v : Val
  sat : Bool
  flush : Bool
  made : Bool
  flags : Flags
  deriving DecidableEq, Repr

/-- A row's result: its elements, whether it is degenerate (R151), a NaN produced in a per-row value, and the flags that the SFU's
result for the row raises (R96). -/
structure RowRes where
  elems : List RowElem
  degenerate : Bool
  madeRow : Bool
  flags : Flags
  deriving DecidableEq, Repr

/-- The environment of exp and rsqrt inside a row operation: Bexo mode has no effect there (R150). -/
def rowEnv (rx : Bool) : SfuEnv := ⟨rx, false, false, fun _ => none, fun _ => none⟩

/-- A built-in function's binary32 result on a binary32 value (R91–R97). -/
def fn32 (rx : Bool) (f : Fn) (x : Val) : Val × SfuElem :=
  let r := sfuElem (rowEnv rx) (.base f) .b32 127 0 (code32 x) .b32 x (Val.zero false)
  (b32Val r.code, r)

def nanRow (n : Nat) : RowRes := ⟨List.replicate n ⟨.nan false, false, false, false, .none⟩, false, false, .none⟩

/-- A per-row result that RELAXED mode has replaced counts as flushed (R44, R150), for element 0 of the row, since the spec names no
element (DESIGN CHOICE, log entry 39). -/
def flushFirst (b : Bool) : List RowElem → List RowElem
  | [] => []
  | x :: t => { x with flush := x.flush || b } :: t

/-- The largest element; a zero maximum is +0 (R136). -/
def rowMax (xs : List Val) : Val :=
  let m := xs.foldl (fun a x => if Val.lt a x then x else a) (.inf true)
  if m.isZero then Val.zero false else m

/-- dᵢ and eᵢ of pass 2 (R136): e, flushed, the flags that exp raises (R96). -/
def smaxExp (rx : Bool) (m x : Val) : Val × Bool × Flags :=
  if Val.eqv x m then (Val.one, false, .none)
  else
    let d := flRelax rx (Val.subX .rne x m).1
    let r := fn32 rx .exp d.1
    (r.1, r.2.flush || d.2, r.2.flags)

/-- Quotients of pass 3 (R136, R139). -/
def smaxOut (rx wide : Bool) (tot : Val) (es : List (Val × Bool × Flags)) (sats : List Bool) : List RowElem :=
  let rho := flRelax rx (Val.divX Val.one tot).1
  flushFirst (wide && rho.2) ((es.zip (sats ++ List.replicate es.length false)).map (fun p =>
    let e := p.1.1
    let q := if wide then (Val.mulX e rho.1).1 else (Val.divX e tot).1
    ⟨q, p.2, p.1.2.1, q.isNaN && !e.isNaN, p.1.2.2⟩))

/-- SMAX on one row (R136, R137). -/
def rowSmax (rx wide : Bool) (span : Nat) (xs : List Val) : RowRes :=
  if xs.any Val.isNaN then nanRow xs.length
  else
    let m := rowMax xs
    let es := xs.map (smaxExp rx m)
    let s := rowSum span (es.map Prod.fst)
    ⟨smaxOut rx wide s.1.total es s.2, decide (m = .inf true), false, .none⟩

/-- A soft-maximum partial (R139): m, s, e as binary32 codes, with the row's marks. -/
def rowSmaxp (rx : Bool) (span : Nat) (xs : List Val) : (Nat × Nat × Nat) × RowRes :=
  if xs.any Val.isNaN then ((0x7FC00000, 0x7FC00000, 0), nanRow xs.length)
  else
    let m := rowMax xs
    let es := xs.map (smaxExp rx m)
    let s := rowSum span (es.map Prod.fst)
    ((code32 m, code32 s.1.s, code32 s.1.e),
      ⟨(es.zip s.2).map (fun p => ⟨p.1.1, p.2, p.1.2.1, false, p.1.2.2⟩), decide (m = .inf true), false, .none⟩)

/-- SMAXF on one row (R139): from the merged (M, s, e). There is no pass 1, so a NaN element is NaN at itself alone; a sum s + e
that is a NaN of its own is produced in a per-row value (R152). -/
def rowSmaxf (rx wide : Bool) (mc sc ec : Nat) (xs : List Val) : RowRes :=
  let word (c : Nat) : Val := relaxIn rx .b32 (b32Val c)
  let m := word mc
  let s := word sc
  let e := word ec
  if m.isNaN || s.isNaN || e.isNaN then nanRow xs.length
  else
    let m := if m.isZero then Val.zero false else m
    let tot := (Val.addX .rne s e).1
    ⟨smaxOut rx wide tot (xs.map (smaxExp rx m)) [], decide (m = .inf true), tot.isNaN, .none⟩

/-- merge_smax of R140 on binary32 codes. -/
def mergeSmax (a b : Nat × Nat × Nat) : Nat × Nat × Nat :=
  let ma := b32Val a.1
  let sa := b32Val a.2.1
  let mb := b32Val b.1
  let sb := b32Val b.2.1
  if ma.isNaN || sa.isNaN || mb.isNaN || sb.isNaN then (0x7FC00000, 0x7FC00000, 0)
  else
    let m0 := if Val.lt ma mb then mb else ma
    let m := if m0.isZero then Val.zero false else m0
    let fa := if Val.eqv ma m then Val.one else (fn32 false .exp (fsub ma m)).1
    let fb := if Val.eqv mb m then Val.one else (fn32 false .exp (fsub mb m)).1
    let p := pairAdd ⟨fmul sa fa, fmul (b32Val a.2.2) fa, false⟩ ⟨fmul sb fb, fmul (b32Val b.2.2) fb, false⟩
    (code32 m, code32 p.s, code32 p.e)

/-- A product of two binary32 values with the replacement of RELAXED mode, saturated where it overflows (R141,
R144): value, saturated, flushed. -/
def squareSat (rx : Bool) (x : Val) : Val × Bool × Bool :=
  let p := (Val.mulX x x).1
  let r := flOv p
  if x.isFin && r.2 then (max32 false, true, false)
  else
    let w := flRelax rx p
    (w.1, false, w.2)

/-- A difference of two binary32 values, saturated where it overflows (R144): value, saturated, flushed. -/
def diffSat (rx : Bool) (x y : Val) : Val × Bool × Bool :=
  let p := (Val.subX .rne x y).1
  if (flOv p).2 then (max32 p.sign, true, false)
  else
    let w := flRelax rx p
    (w.1, false, w.2)

/-- RMSN on one row (R141, R142); `gs` are the gains. The infinite elements of a row produce its NaN (log entry 37). -/
def rowRmsn (rx : Bool) (span : Nat) (eps : Val) (xs gs : List Val) : RowRes :=
  let n := xs.length
  let sq := xs.map (squareSat rx)
  let s := rowSum span (sq.map fun q => if q.1.isInf then .nan false else q.1)
  let marks := sq.zip (s.2.zip (xs.zip gs))
  let nan := xs.any Val.isNaN
  if nan || xs.any Val.isInf then
    ⟨marks.map (fun p => ⟨.nan false, p.1.2.1 || p.2.1, p.1.2.2, !nan && p.2.2.1.isInf, .none⟩), false, false, .none⟩
  else
    let mu2 := flRelax rx (Val.divX s.1.total (Val.ofInt n)).1
    let zf := flRelax rx (Val.addX .rne mu2.1 eps).1
    let z := zf.1
    if z.isZero then
      ⟨flushFirst (mu2.2 || zf.2) (marks.map fun p =>
        ⟨Val.zero (p.2.2.1.sign != p.2.2.2.sign), p.1.2.1 || p.2.1, p.1.2.2, false, .none⟩), true, false, .none⟩
    else
      let o := fn32 rx .rsqrt z
      let r := o.1
      ⟨flushFirst (mu2.2 || zf.2) (marks.map fun p =>
        let q := (Val.mulX (Val.mulX p.2.2.1 r).1 p.2.2.2).1
        ⟨q, p.1.2.1 || p.2.1, p.1.2.2, q.isNaN && !r.isNaN && !p.2.2.2.isNaN, .none⟩), false, r.isNaN && !eps.isNaN, o.2.flags⟩

/-- MOM on one row (R144): (mean, M2) as binary32 codes, with the row's marks. The sums run over the whole row also where a NaN or
an infinity decides its result, so what saturates or is flushed in its other elements counts; an M2 that overflows as the pair is
rounded saturates and counts for element 0 (DESIGN CHOICE, log entry 39). -/
def rowMom (rx : Bool) (span : Nat) (xs : List Val) : (Nat × Nat) × RowRes :=
  let n := xs.length
  let k := xs.headD (Val.zero false)
  let ds := xs.map fun x => diffSat rx x k
  let s := rowSum span (ds.map Prod.fst)
  let t := flRelax rx (Val.divX s.1.total (Val.ofInt n)).1
  let mf := flRelax rx (Val.addX .rne k t.1).1
  let mu := mf.1
  let rs := xs.map fun x => diffSat rx x mu
  let sq := rs.map fun r => squareSat rx r.1
  let s2 := rowSum span (sq.map Prod.fst)
  let top := (flOv s2.1.total).2
  let m2f := flRelax rx s2.1.total
  let m2 := if top then max32 false else m2f.1
  let nan := xs.any Val.isNaN
  let bad := nan || xs.any Val.isInf
  let marks := (xs.zip (List.range n)).zip (ds.zip (s.2.zip (rs.zip (sq.zip s2.2))))
  ((if bad then 0x7FC00000 else code32 mu, if bad then 0x7FC00000 else code32 m2),
    ⟨flushFirst (t.2 || mf.2 || m2f.2) (marks.map fun p =>
      let (d, sm, r, q, qm) := p.2
      ⟨Val.zero false, d.2.1 || sm || r.2.1 || q.2.1 || qm || (top && p.1.2 == 0), d.2.2 || r.2.2 || q.2.2, !nan && p.1.1.isInf, .none⟩),
      false, false, .none⟩)

/-- merge_mom of R145; counts are 64-bit. -/
def mergeMom (a b : Nat × Nat × Nat) : Nat × Nat × Nat :=
  if a.1 = 0 then b
  else if b.1 = 0 then a
  else
    let ma := b32Val a.2.1
    let va := b32Val a.2.2
    let mb := b32Val b.2.1
    let vb := b32Val b.2.2
    let n := (a.1 + b.1) % 2 ^ 64
    if ma.isNaN || va.isNaN || mb.isNaN || vb.isNaN then (n, 0x7FC00000, 0x7FC00000)
    else
      let w := fl32 (Val.divX (Val.ofInt b.1) (Val.ofInt (a.1 + b.1))).1
      let v := fl32 (Val.mulX (Val.ofInt a.1) w).1
      let d := fsub mb ma
      let m := fadd ma (fmul d w)
      let m2 := fadd (fadd va vb) (fmul (fmul d d) v)
      (n, code32 m, code32 m2)

/-- MNORM on one row (R147): count, mean, M2 from the statistics record; `gs` are the gains, 1 without gain, and `bs` the biases, +0
without bias (R129). -/
def rowMnorm (rx : Bool) (eps : Val) (cnt muC m2C : Nat) (xs gs bs : List Val) : RowRes :=
  let mu := relaxIn rx .b32 (b32Val muC)
  let m2 := relaxIn rx .b32 (b32Val m2C)
  let trip := xs.zip (gs.zip bs)
  let biases : RowRes := ⟨trip.map fun p => ⟨p.2.2, false, false, false, .none⟩, true, false, .none⟩
  if cnt = 0 then biases
  else if mu.isNaN || m2.isNaN then nanRow xs.length
  else
    let var := flRelax rx (Val.divX m2 (Val.ofInt cnt)).1
    let zf := flRelax rx (Val.addX .rne var.1 eps).1
    let z := zf.1
    if z.isZero && !z.sign then { biases with elems := flushFirst (var.2 || zf.2) biases.elems }
    else
      let r := fn32 rx .rsqrt z
      ⟨flushFirst (var.2 || zf.2) (trip.map fun p =>
        let d := flRelax rx (Val.subX .rne p.1 mu).1
        let q := (Val.addX .rne (Val.mulX (Val.mulX d.1 r.1).1 p.2.1).1 p.2.2).1
        ⟨q, false, d.2, q.isNaN && !(r.1.isNaN || p.1.isNaN || p.2.1.isNaN || p.2.2.isNaN), .none⟩),
        false, r.1.isNaN && !eps.isNaN, r.2.flags⟩

/-- Does element `a` (value, index) rank before `b` (R148)? -/
def rankBefore (a b : Val × Nat) : Bool :=
  match a.1, b.1 with
  | .nan _, .nan _ => decide (a.2 < b.2)
  | .nan _, _ => true
  | _, .nan _ => false
  | x, y => if Val.cmp x y = 0 then decide (a.2 < b.2) else decide (0 < Val.cmp x y)

/-- Insert into a ranked list kept to `k` entries. -/
def rankInsert (k : Nat) (x : Val × Nat) : List (Val × Nat) → List (Val × Nat)
  | [] => [x].take k
  | y :: ys => if rankBefore x y then (x :: y :: ys).take k else (y :: rankInsert (k - 1) x ys).take k

/-- TOPK on one row (R148, R149): k entries of (value code, index) and the number of NaN excluded. -/
def rowTopk (nanmax : Bool) (k : Nat) (xs : List Val) : List (Nat × Nat) × Nat :=
  let idx := xs.zip (List.range xs.length)
  let kept := if nanmax then idx else idx.filter (fun p => !p.1.isNaN)
  let top := kept.foldl (fun acc p => rankInsert k p acc) []
  let es := top.map (fun p => (code32 p.1, p.2))
  (es ++ List.replicate (k - es.length) (0x7FC00000, 0xFFFFFFFF), idx.length - kept.length)

end Sys2Proof
end

