-- ==== Sys2Proof/Machine/CollNum.lean ====
section
/-!
DEFINITION. The conversions and merges of the reduction kinds (R370), on elements in transit as little-endian numbers.
-/
namespace Sys2Proof

/-- An element after a conversion or a merge: its transit value, whether it saturated, whether it flushed, whether its NaN
was produced here (R380, R381). -/
structure MElem where
  v : Nat
  sat : Bool
  flush : Bool
  made : Bool
  deriving DecidableEq, Repr

def nan32 : Nat := 0x7FC00000

/-- Bytes of an input element, of an element in transit, of an output element (R370); BCAST copies words. -/
def kindIn (bcast : Bool) (kind : Nat) (rawin : Bool) : Nat :=
  if bcast then 4 else match kind with | 0 => if rawin then 8 else 4 | 1 | 2 => 4 | 3 => 8 | _ => 16
def kindTransit (bcast : Bool) (kind : Nat) : Nat :=
  if bcast then 4 else match kind with | 0 => 8 | 1 | 2 => 4 | 3 => 8 | _ => 16
def kindOut (bcast : Bool) (kind : Nat) (rawout : Bool) : Nat :=
  if bcast then 4 else match kind with | 0 => if rawout then 8 else 4 | 1 | 2 => 4 | 3 => 8 | _ => 16

def isNan32 (c : Nat) : Bool := (b32Val c).isNaN

/-- An input element in transit form (R370). -/
def transitOf (bcast : Bool) (kind : Nat) (rawin : Bool) (x : Nat) : MElem :=
  if bcast ∨ kind ≠ 0 then ⟨x, false, false, false⟩
  else
    let s := x % 2 ^ 32
    let e := if rawin then x / 2 ^ 32 else 0
    if isNan32 s || isNan32 e then ⟨nan32, false, false, false⟩
    else if !rawin && (b32Val s).isInf then ⟨Fmt.b32.signCode (b32Val s).sign 0x7F7FFFFF, true, false, false⟩
    else ⟨s + e * 2 ^ 32, false, false, false⟩

/-- An output element (R370, R372). -/
def outputOf (bcast : Bool) (kind : Nat) (rawout : Bool) (x : Nat) : MElem :=
  if bcast ∨ kind ≠ 0 ∨ rawout then ⟨x, false, false, false⟩
  else
    let r := readOut .pair (x % 2 ^ 32) (x / 2 ^ 32)
    ⟨r.1, r.2, false, false⟩

/-- MAX and MIN (R370): zeros compare equal and give +0. -/
def pickElem (max : Bool) (a b : Nat) : MElem :=
  let x := b32Val a
  let y := b32Val b
  if x.isNaN || y.isNaN then ⟨nan32, false, false, false⟩
  else
    let r := if max then (if Val.lt x y then b else a) else (if Val.lt y x then b else a)
    ⟨if (b32Val r).isZero then 0 else r, false, false, false⟩

/-- Fields of a 16-byte record as words. -/
def word32 (x i : Nat) : Nat := x / 2 ^ (32 * i) % 2 ^ 32

/-- Whether an exponential of a merge flushes (R97, R140). -/
def expFlush (m x : Nat) : Bool :=
  !(b32Val x).isNaN && !Val.eqv (b32Val x) (b32Val m) && (fn32 false .exp (fsub (b32Val x) (b32Val m))).2.flush

/-- Whether the pair sum of a merge saturates (R134, R140). -/
def smaxSat (m : Val) (a b : Nat × Nat × Nat) : Bool :=
  let f (x : Nat) : Val := if Val.eqv (b32Val x) m then Val.one else (fn32 false .exp (fsub (b32Val x) m)).1
  let p (r : Nat × Nat × Nat) : PairV := ⟨fmul (b32Val r.2.1) (f r.1), fmul (b32Val r.2.2) (f r.1), false⟩
  (pairAdd (p a) (p b)).sat

/-- One merge a ⊕ b of two elements in transit (R370). -/
def mergeElem (kind a b : Nat) : MElem :=
  match kind with
  | 0 =>
    let pair (x : Nat) : PairV := ⟨b32Val (word32 x 0), b32Val (word32 x 1), false⟩
    let r := pairAdd (pair a) (pair b)
    let nanIn := [word32 a 0, word32 a 1, word32 b 0, word32 b 1].any isNan32
    ⟨code32 r.s + code32 r.e * 2 ^ 32, r.sat, false, (r.s.isNaN || r.e.isNaN) && !nanIn⟩
  | 1 => pickElem true a b
  | 2 => pickElem false a b
  | 3 => ⟨(a + b) % 2 ^ 64, false, false, false⟩
  | 4 =>
    let ra := (word32 a 0, word32 a 1, word32 a 2)
    let rb := (word32 b 0, word32 b 1, word32 b 2)
    let r := mergeSmax ra rb
    let nanIn := [ra.1, ra.2.1, ra.2.2, rb.1, rb.2.1, rb.2.2].any isNan32
    let nanOut := [r.1, r.2.1, r.2.2].any isNan32
    ⟨r.1 + r.2.1 * 2 ^ 32 + r.2.2 * 2 ^ 64, !nanOut && smaxSat (b32Val r.1) ra rb,
      !nanOut && (expFlush r.1 ra.1 || expFlush r.1 rb.1), nanOut && !nanIn⟩
  | _ =>
    let rec_ (x : Nat) : Nat × Nat × Nat := (x % 2 ^ 64, word32 x 2, word32 x 3)
    let r := mergeMom (rec_ a) (rec_ b)
    let nanIn := [word32 a 2, word32 a 3, word32 b 2, word32 b 3].any isNan32
    ⟨r.1 + r.2.1 * 2 ^ 64 + r.2.2 * 2 ^ 96, false, false, (isNan32 r.2.1 || isNan32 r.2.2) && !nanIn⟩

end Sys2Proof
end

