-- ==== Sys2Proof/Machine/CollBase.lean ====
section
/-!
DEFINITION. How a collective operation ends, and how a quire breaks (R368, R375, R377–R379).
-/
namespace Sys2Proof.Machine

/-- Count in COL.CNT (R384). -/
def W.colCnt (w : W) (k n : Nat) : W := w.modColl fun c => { c with cnt := cntAdd c.cnt k n }

/-- A collective completion record (R368). -/
def collRecord (status op rank sat flush tag valid cause round : Nat) : List Byte :=
  leBytes 4 (status * 2 ^ 24 + op * 2 ^ 16 + rank % 4096) ++ leBytes 4 (satAdd 16 0 sat * 2 ^ 16 + satAdd 16 0 flush) ++
  leBytes 4 tag ++ leBytes 4 (2 ^ 31 + valid * 2 ^ 30 + cause * 2 ^ 16 + round % 65536)

def CollOp.code (o : CollOp) : Nat := leAt o.cmd 3 1
def CollOp.completion (o : CollOp) : Nat := leAt o.cmd 0x30 8
def CollOp.tag (o : CollOp) : Nat := leAt o.cmd 0x38 4

/-- Write the record of an operation of the quire at entry `i`, in the order of its rounds (R379), and count its end (R368,
R381). -/
def W.collRecorded (w : W) (i : Nat) (o : CollOp) (rank sat flush status cause round : Nat) : W :=
  let ok := status = 0
  ((w.addCounts o.who.sag sat flush).colCnt (if ok then 0 else 1) 1).writeRec
    ⟨o.who.sag, o.completion, collRecord status o.code rank sat flush o.tag (if ok then 1 else 0) cause round, some (.quire i),
     some o.who, [], []⟩

/-- Send a collective packet: to the own chip through the engine itself, else on the route in force (R374, R375). -/
def W.collEmit (w : W) (vc : Nat) (k : Pkt) : W :=
  if k.dst = w.dev.ownChip then w.modColl fun c => { c with loop := c.loop ++ [(vc, k.bytes)] } else w.emit vc k

/-- A packet of a member of a quire to the member of a rank (R374). -/
def Quire.pkt (d : Dev) (q : Quire) (ptype dest step first seq arg : Nat) (data : List Byte) : Pkt :=
  let m := q.members.getD dest (0, 0)
  d.mkPkt ptype m.1 m.2 q.sag seq (first * 2 ^ 40 + q.rank * 2 ^ 24 + step * 2 ^ 16 + q.qid) arg 0 data false

/-- Tell every other member of a failure (R377). -/
def W.sendAborts (w : W) (q : Quire) (status : Nat) : W :=
  (List.range q.members.length).foldl (fun w r =>
    if r = q.rank then w
    else (w.colCnt 3 1).collEmit q.vc (q.pkt w.dev 0x23 r 0 0 q.round.toNat (status * 2 ^ 24 + q.rank) [])) w

/-- End the running operation of a quire with OK: the next round follows (R365, R369). A quire that a CABORT for a later round has
broken meanwhile stays BROKEN (R377). -/
def W.collOk (w : W) (i : Nat) : W :=
  let q := w.dev.quire i
  match q.run with
  | none => w
  | some r =>
    let w := w.modQuire i fun q =>
      { q with state := if q.state = .broken then .broken else .formed, run := none, round := q.round + 1, seen := [] }
    w.collRecorded i r.op q.rank r.sats.length r.flushes.length 0 0 q.round.toNat

/-- Free the entry of a quire; its packets go on being resent until their limit (R365, R375). -/
def W.collFree (w : W) (i : Nat) : W := w.modQuire i fun q => { Quire.reset with unacked := q.unacked }

/-- Whether a FORM runs at an entry (R365). -/
def Quire.forms (q : Quire) : Bool := match q.run with | some r => r.op.code == 1 | none => q.state == .forming

/-- The quire becomes BROKEN with a status as its cause (R377), unless it is BROKEN already. -/
def W.quireBroken (w : W) (i status : Nat) : W :=
  let q := w.dev.quire i
  if q.state = .broken then w
  else (w.modQuire i fun x => { x with state := .broken, cause := BitVec.ofNat 8 status }).event 0x0701 (srcOf 0xC i) (some q.sag)
    [(4, q.qid), (4, q.round.toNat), (4, status)]

/-- Break a quire with a status, or free it while it forms (R365, R377): the running operation ends with the status. -/
def W.collBreak (w : W) (i status cause : Nat) (abort : Bool) : W := w.afterReports [.record (.quire i)] fun w =>
  let q := w.dev.quire i
  let w := if status = 0x88 then w.colCnt 2 1 else w
  let w := if abort ∧ q.run.isSome then w.sendAborts q status else w
  let w := match q.run with
    | some r => w.collRecorded i r.op q.rank r.sats.length r.flushes.length status cause q.round.toNat
    | none => w
  if q.forms then
    q.waiting.foldl (fun w o => w.collRecorded i o q.rank 0 0 0x81 0 0) (w.collFree i)
  else
    (w.quireBroken i status).modQuire i fun x =>
      { x with run := none, held := [], seen := [], round := if q.run.isSome then x.round + 1 else x.round }

/-- Break every quire that a change of the slice concerns, running or not (R377). -/
def W.breakQuires (w : W) (concerns : Quire → Bool) (status : Nat) : W :=
  (List.range 256).foldl (fun w i =>
    let q := w.dev.quire i
    if q.state ≠ .free ∧ (q.state ≠ .broken ∨ q.run.isSome) ∧ concerns q then w.collBreak i status 0 true else w) w

end Sys2Proof.Machine
end

