-- ==== Sys2Proof/Machine/FabBase.lean ====
section
/-!
DEFINITION. What the fabric of this chip knows of itself and of its neighbours: configuration hash (R355), chip number
(R338), exclusions (R336, R337), HELLO (R350), leaving and resetting slice state (R351, R353, R356).
-/
namespace Sys2Proof.Machine

/-- `col.timeout` in force, in ms (R376). -/
def Dev.colTimeout (d : Dev) : Nat := d.setting 4 256

/-- The masks τ and σ of dimension k + 6 (R336, R362). -/
def Dev.tau (d : Dev) (k : Nat) : Nat := bits (Tab.look 0 d.fab.twist k).toNat 5 0
def Dev.sigma (d : Dev) (k : Nat) : Nat := bits (Tab.look 0 d.fab.twist k).toNat 13 8

/-- The configuration hash (R355). -/
def Dev.chash (d : Dev) : Word :=
  BitVec.ofNat 32 (crc32 (leBytes 4 d.fab.sliceid.toNat ++
    ((List.range 6).flatMap fun k => leBytes 1 (d.tau k) ++ leBytes 1 (d.sigma k)) ++
    leBytes 4 d.colTimeout ++ ((List.range 6).flatMap fun k => leBytes 1 (d.port (6 + k)).count) ++ leBytes 6 0))

/-- The colophon version 2.0.patch (R450). -/
def Dev.version : BitVec 24 := 0x020000 ||| (Config.patch.setWidth 24)

/-- The master-eligible strap (R435). -/
def Dev.eligible (d : Dev) : Bool := d.start.strap.getLsbD 2

def parity6 (x : Nat) : Bool := ((List.range 6).filter fun i => bit x i).length % 2 = 1

/-- The partner rack of a rack in dimension k + 6 (R336). -/
def Dev.partnerRack (d : Dev) (r k : Nat) : Nat := r ^^^ 2 ^ k ^^^ (if parity6 (r &&& d.sigma k) then d.tau k else 0)

def Dev.isUp (d : Dev) (p : Nat) : Bool := (d.port p).state == .up

/-- The chip beyond a port: as its HELLO gives it, else as its IDENT does (R315, R350). -/
def Dev.chipBeyond (d : Dev) (p : Nat) : Option (BitVec 12) :=
  match d.fab.near.find? fun x => x.port == p && 6 ≤ p with
  | some x => x.chip
  | none => match (d.port p).peer with
    | some x => if x.chipv then some x.chip else none
    | none => none

/-- Rack and position that the partner of a rack port reports (R338, R339). -/
def Dev.reported (d : Dev) (p : Nat) : Option (Nat × Nat) :=
  match (d.port p).peer with
  | some x => if x.kind = 2 ∧ x.chipv then some (x.chip.toNat / 64, x.port.toNat % 64) else none
  | none => none

/-- The source of the chip number and the number it gives (R338). -/
def Dev.chipSource (d : Dev) : Fin 3 × Option (BitVec 12) :=
  if d.fab.chipov.getLsbD 31 then (1, some (d.fab.chipov.setWidth 12))
  else match (List.range 6).find? fun p => d.portUsable p with
    | some p => match d.reported p with
      | some x => (2, some (BitVec.ofNat 12 (64 * x.1 + x.2)))
      | none => (0, none)
    | none => (0, none)

/-- Whether the partner of an UP port breaks one of the first four cases of R337. -/
def Dev.miscabled (d : Dev) (p : Nat) : Bool :=
  match (d.port p).peer with
  | none => false
  | some x =>
    if p < 6 then
      x.kind ≠ 2 ||
      (match (List.range 6).find? fun k => d.isUp k && (d.reported k).isSome with
       | some k => d.reported p != d.reported k
       | none => false)
    else
      x.kind ≠ 1 ||
      (match d.fab.chip, d.chipBeyond p with
       | some own, some c => own.toNat % 64 ≠ c.toNat % 64
       | _, _ => false)

/-- Whether a cube port's partner breaks R336 (check 4 of R352). -/
def Dev.wrongRack (d : Dev) (p : Nat) : Bool :=
  match d.fab.chip, d.chipBeyond p with
  | some own, some c => 6 ≤ p && c.toNat / 64 ≠ d.partnerRack (own.toNat / 64) (p - 6)
  | _, _ => false

/-- The partner of a port, by serial and port (R337). -/
def Dev.partner (d : Dev) (p : Nat) : DWord × Byte := match (d.port p).peer with | some x => (x.serial, x.port) | none => (0, 0)

/-- Exclude a port (R337). -/
def W.exclude (w : W) (p : Nat) : W :=
  if Tab.look false w.dev.fab.excl p then w
  else
    let c := match w.dev.reported p with
      | some x => x
      | none => match w.dev.chipBeyond p with | some c => (c.toNat / 64, c.toNat % 64) | none => (0, 0)
    ((w.modFab fun f => { f with excl := Tab.put f.excl p true, exclBy := Tab.put f.exclBy p (w.dev.partner p) }).fabCnt 10 1).event 0x0600 (srcOf 3 p) none
      [(4, c.1), (4, c.2)]

/-- Judge every UP port by the chip's own cases of R337. -/
def W.judgePorts (w : W) : W :=
  (List.range 12).foldl (fun w p => if w.dev.isUp p && w.dev.miscabled p then w.exclude p else w) w

/-- Judge every UP port at a commit, which ends the exclusion of a port that it finds consistent (R337). -/
def W.judgeAtCommit (w : W) : W :=
  (List.range 12).foldl (fun w p =>
    if !w.dev.isUp p then w
    else if w.dev.miscabled p || w.dev.wrongRack p then w.exclude p
    else w.modFab fun f => { f with excl := Tab.del f.excl p }) w

/-- The usable rack port by which every position of the rack is reached (R350). -/
def Dev.rackWay (d : Dev) : Option Nat := (List.range 6).find? d.portUsable

/-- Where HELLO goes (R350): the partners on the cube ports that are UP, and every other position of the rack. -/
def Dev.helloTargets (d : Dev) : List (Nat × Option (BitVec 12)) :=
  ((rangeFrom 6 6).filter d.isUp).map (fun p => (p, d.chipBeyond p)) ++
    match d.rackWay, d.fab.chip with
    | some p, some c =>
      ((List.range 64).filter fun q => q ≠ c.toNat % 64).map fun q => (p, some (BitVec.ofNat 12 (c.toNat / 64 * 64 + q)))
    | _, _ => []

/-- The port toward a neighbour (R337, R350): the cube port it stands on, or the port of the rack. -/
def Dev.wayTo (d : Dev) (c : BitVec 12) : Option Nat :=
  match d.fab.near.find? fun x => decide (6 ≤ x.port) && x.chip == some c && d.portUsable x.port with
  | some x => some x.port
  | none => if d.fab.chip.isSome ∧ c.toNat / 64 = d.ownChip / 64 then d.rackWay else none

/-- The neighbours to which messages other than HELLO may go (R348): those whose HELLO gives the own slice. -/
def Dev.mates (d : Dev) : List (BitVec 12) :=
  (d.fab.near.filterMap fun x => if x.slice = d.fab.sliceid then x.chip else none).filter fun c => (d.wayTo c).isSome && d.fab.chip != some c

/-- The packet types of the messages (R350). -/
def Mgmt.ptype : Mgmt → Nat
  | .hello _ => 0x10
  | .elect _ _ _ => 0x11
  | .join _ => 0x12
  | .admission _ _ => 0x13
  | .quar _ _ => 0x14
  | .refuse _ _ => 0x15
  | .table _ => 0x16
  | .commit _ _ _ => 0x17
  | .tsync _ => 0x18
  | .tsyncr _ _ _ => 0x19
  | .leave _ => 0x1A
  | .handover _ => 0x1B
  | .update _ => 0x1C

/-- The header of a management packet to a neighbour (R340, R341): one hop, on channel 7. -/
def Dev.mgmtHead (d : Dev) (dst : Option (BitVec 12)) (m : Mgmt) : MgmtHead := ⟨m.ptype, 15, 7, dst, d.fab.chip, d.fab.sliceid⟩

/-- The packet of a management message (R340): its header, with zero where a chip has no number; the rules give the message's arg and
data no layout, and both are open (log entry 25). -/
def MgmtHead.packet (h : MgmtHead) (arg : Nat) (data : List Byte) : Pkt :=
  let num (c : Option (BitVec 12)) : Nat := match c with | some c => c.toNat | none => 0
  { ptype := h.ptype, ttl := h.ttl, opn := false, dst := num h.dst, src := num h.src, slice := h.slice.toNat, tsag := 0, ssag := 0
    seq := 0, addr := 0, arg, rseq := 0, data }

/-- Send a management message to a neighbour on a port: the message, and the packet in a DATA flit that carries it (R340, R341). -/
def W.mgmt (w : W) (p : Nat) (dst : Option (BitVec 12)) (m : Mgmt) : W :=
  let h := w.dev.mgmtHead dst m
  let (n, w) := w.draw
  let (arg, w) := w.draw
  let (data, w) := w.drawBytes ((Config.openWord n).toNat % 129)
  (w.out (.mgmt p h m)).enqueuePort p h.vc (h.packet (Config.openWord arg).toNat data).bytes

/-- Send a management message to a neighbour of the own slice, on the port toward it (R348, R350). -/
def W.mgmtTo (w : W) (c : BitVec 12) (m : Mgmt) : W :=
  match w.dev.wayTo c with
  | some p => if w.dev.foreign c then w else w.mgmt p (some c) m
  | none => w

/-- Send a management message to neighbours. -/
def W.mgmtAll (w : W) (cs : List (BitVec 12)) (m : Mgmt) : W := cs.foldl (fun w c => w.mgmtTo c m) w

def FabState.code : FabState → Fin 5
  | .alone => 0
  | .joining => 1
  | .admitted => 2
  | .quarantine => 3
  | .refused => 4

/-- Hops to the master (R350): 0 at the master, one more than the neighbour on the path. -/
def Dev.hops (d : Dev) : Nat :=
  if d.fab.master then 0 else match d.fab.path with | some (_, h) => h + 1 | none => 0

/-- The HELLO of this chip (R350). -/
def Dev.helloMsg (d : Dev) : HelloMsg :=
  let f := d.fab
  ⟨f.chip, d.eligible, f.sliceid, f.epoch, f.masterChip, d.hops, d.chash, Dev.version, f.state.code⟩

/-- Send HELLO to every neighbour (R350). -/
def W.sayHello (w : W) : W :=
  let m := w.dev.helloMsg
  w.dev.helloTargets.foldl (fun w x => w.mgmt x.1 x.2 (.hello m)) (w.modFab fun f => { f with lastHello := w.dev.now })

/-- Send a message along the path toward the master (R350). -/
def W.alongPath (w : W) (m : Mgmt) : W := match w.dev.fab.path with | some (c, _) => w.mgmtTo c m | none => w

/-- The chips beyond the ports that are up, as UPDATE reports them (R350, R353). -/
def Dev.portReport (d : Dev) : List (Option (BitVec 12)) :=
  (List.range 12).map fun p => if d.portUsable p then d.chipBeyond p else none

/-- Ask for admission (R350, R352). -/
def W.sendJoin (w : W) : W :=
  match w.dev.fab.chip with
  | some c =>
    (w.modFab fun f => { f with lastJoin := w.dev.now }).alongPath
      (.join ⟨c, w.dev.eligible, Dev.version, w.dev.chash, Config.serial, w.dev.portReport.drop 6⟩)
  | none => w

/-- Whether a destination is a member of the slice, with a route in the table in force (R344). -/
def Dev.reachable (d : Dev) (s : SendStream) : Bool :=
  d.fab.state == .admitted && d.fab.memberChips.contains (BitVec.ofNat 12 s.dst) && d.tableHas s.dst

/-- Streams whose destination is no member any more, or out of the table's reach, are to fail, whatever comes after (R344, R353). -/
def W.doomStreams (w : W) : W :=
  let gone (s : SendStream) : Bool := !s.abandoned && !w.dev.reachable s
  w.modFab fun f => { f with sends := f.sends.map fun s => if gone s then { s with doomed := true } else s }

/-- Lose the slice's state: table, mastership, members, time (R356); `keep` leaves the table and the members' numbers, by which a
quarantined chip still forwards (R348). A REFUSED chip stays so (R352). Its streams are to fail (R344). -/
def W.dropSlice (w : W) (keep : Bool) : W :=
  W.doomStreams <| w.modFab fun f =>
    { f with state := if f.state = .refused then .refused else .alone, cause := if f.state = .refused then f.cause else 0
             untrusted := true, good := 0, master := false, masterChip := if f.master then none else f.masterChip
             rrack := if keep then f.rrack else [], rpos := if keep then f.rpos else []
             memberChips := if keep then f.memberChips else [], staged := none, members := [], election := none, lostMaster := none
             back := [], commitDue := false }

/-- The lowest eligible admitted member but one (R351). -/
def nextMaster (ms : List Member) (but : Option (BitVec 12)) : Option Member :=
  (ms.filter fun m => m.eligible && some m.chip != but).foldl
    (fun a m => match a with | some x => if m.chip.toNat < x.chip.toNat then some m else some x | none => some m) none

/-- A member as the messages give it. -/
def Member.info (m : Member) : HandMember := ⟨m.chip, m.serial, m.hash, m.eligible, m.ports⟩

/-- A table with indices as a TABLE message carries them. -/
def tableMsg (dst : BitVec 12) (t : List (Nat × Word) × List (Nat × Word)) : TableMsg :=
  ⟨dst, t.1.map fun x => (Fin.ofNat 64 x.1, x.2), t.2.map fun x => (Fin.ofNat 64 x.1, x.2)⟩

/-- The table that a TABLE message gives. -/
def tableParts (m : TableMsg) : List (Nat × Word) × List (Nat × Word) :=
  (m.racks.map fun x => (x.1.val, x.2), m.poss.map fun x => (x.1.val, x.2))

/-- Hand mastership and its state to a member (R350, R351). -/
def W.handOver (w : W) (dest : Member) (ms : List Member) : W :=
  match dest.via with
  | some v => w.mgmtTo v (.handover ⟨dest.chip, ms.map Member.info, ms.filterMap fun m => m.table.map (tableMsg m.chip), w.dev.fab.epoch⟩)
  | none => w

/-- The members a member can reach by one cube port, with the port (R336, R346): a port whose partner breaks R336 is
excluded (check 4 of R352). -/
def Dev.cubeLinks (d : Dev) (ms : List Member) (m : Member) : List (Nat × BitVec 12) :=
  (rangeFrom 6 6).filterMap fun p =>
    match m.ports.getD p none with
    | some c =>
      if c.toNat % 64 = m.chip.toNat % 64 ∧ c.toNat / 64 = d.partnerRack (m.chip.toNat / 64) (p - 6) ∧
         ms.any (fun x => x.chip == c) then some (p, c) else none
    | none => none

/-- One more round of distances to a rack (R346: shortest paths of the twisted cube). -/
def distStep (links : List (BitVec 12 × List (Nat × BitVec 12))) (k : Nat) (t : Tab Nat) : Tab Nat :=
  links.foldl (fun t x =>
    if (t.any fun y => y.1 == x.1.toNat) then t
    else if x.2.any (fun l => t.any fun y => y.1 == l.2.toNat && y.2 == k) then Tab.put t x.1.toNat (k + 1) else t) t

def distRounds (links : List (BitVec 12 × List (Nat × BitVec 12))) : Nat → Nat → Tab Nat → Tab Nat
  | 0, _, t => t
  | n + 1, k, t => distRounds links n (k + 1) (distStep links k t)

/-- Distances of members to a rack along cube links. -/
def distsTo (links : List (BitVec 12 × List (Nat × BitVec 12))) (ms : List Member) (rack : Nat) : Tab Nat :=
  distRounds links 64 0 ((ms.filter fun m => m.chip.toNat / 64 == rack).foldl (fun t m => Tab.put t m.chip.toNat 0) [])

def distOf (t : Tab Nat) (c : Nat) : Option Nat := (t.find? fun x => x.1 == c).map Prod.snd

/-- The nearer of two choices: the lower distance, then the lower number. -/
def nearest (l : List (Nat × Nat)) : Option (Nat × Nat) :=
  l.foldl (fun a x => match a with
    | some y => if x.1 < y.1 ∨ (x.1 = y.1 ∧ x.2 < y.2) then some x else some y
    | none => some x) none

/-- A member's entry for another rack (R346, R362): primary port, the next shortest as alternate, detour position; 0xF for no port, the
own position for no detour. -/
def rackEntry (links : List (Nat × BitVec 12)) (t : Tab Nat) (m : Member) (ms : List Member) : Option Word :=
  let steps := links.filterMap fun l => (distOf t l.2.toNat).map fun k => (k, l.1)
  let pri := nearest steps
  let alt := pri.bind fun y => nearest (steps.filter fun x => x.2 ≠ y.2)
  let r := m.chip.toNat / 64
  let det := nearest ((ms.filter fun x => x.chip.toNat / 64 == r && x.chip != m.chip).filterMap fun x =>
    (distOf t x.chip.toNat).map fun k => (k, x.chip.toNat % 64))
  if pri = none ∧ det = none then none
  else some (BitVec.ofNat 32 (2 ^ 31 + (match pri with | some x => x.2 | none => 15) * 2 ^ 16 +
    (match alt with | some x => x.2 | none => 15) * 2 ^ 8 + (match det with | some x => x.2 | none => m.chip.toNat % 64)))

/-- The planes a member reports (R339, R346), as a mask. -/
def planesOf (m : Member) : Nat :=
  (List.range 6).foldl (fun a p => match m.ports.getD p none with | some c => a ||| 2 ^ bits c.toNat 2 0 | none => a) 0

/-- A member's entry for a position of its rack (R346, R362). -/
def posEntry (m x : Member) (ms : List Member) : Option Word :=
  let common := planesOf m &&& planesOf x
  let relay := (ms.filter fun y => y.chip.toNat / 64 == m.chip.toNat / 64 && y.chip != m.chip && y.chip != x.chip &&
    planesOf m &&& planesOf y != 0 && planesOf y &&& planesOf x != 0).foldl
      (fun a y => match a with | some q => some (min q (y.chip.toNat % 64)) | none => some (y.chip.toNat % 64)) none
  if common = 0 ∧ relay = none then none
  else some (BitVec.ofNat 32 (2 ^ 31 + common + match relay with | some q => 2 ^ 30 + q * 2 ^ 16 | none => 0))

/-- A member's whole table (R346): rack part and position part. -/
def Dev.tableFor (d : Dev) (ms : List Member) (m : Member) : List (Nat × Word) × List (Nat × Word) :=
  let links := ms.map fun x => (x.chip, d.cubeLinks ms x)
  let own := d.cubeLinks ms m
  let racks := (List.range 64).filterMap fun r =>
    if r = m.chip.toNat / 64 ∨ !(ms.any fun x => x.chip.toNat / 64 == r) then none
    else (rackEntry own (distsTo links ms r) m ms).map fun e => (r, e)
  let poss := ms.filterMap fun x =>
    if x.chip.toNat / 64 = m.chip.toNat / 64 ∧ x.chip ≠ m.chip then (posEntry m x ms).map fun e => (x.chip.toNat % 64, e)
    else none
  (racks, poss)

/-- The bits of FAB.RRACK and FAB.RPOS (R9, R362): what a table's entry holds beyond them is ignored. -/
def rackBits : Word := 0x800F0F3F
def posBits : Word := 0xC03F00FF

/-- A part of a table as the registers hold it. -/
def tablePart (mask : Word) (l : List (Nat × Word)) : Tab Word := l.foldl (fun t x => Tab.put t x.1 (x.2 &&& mask)) []

/-- The chip applies a commit (R347, R353, R354): new membership, epoch and table, exclusions judged, quires that lose a
member broken (R377), streams that lose their destination to fail (R344, R361). -/
def W.applyCommit (w : W) (epoch : Word) (master : BitVec 12) (members : List (BitVec 12)) : W :=
  let lost := w.dev.fab.memberChips.filter fun c => !members.contains c
  let w := w.modFab fun f =>
    { f with state := .admitted, cause := 0, epoch := epoch, masterChip := some master, memberChips := members
             highEpoch := if f.highEpoch.toNat < epoch.toNat then epoch else f.highEpoch
             lastMaster := some w.dev.now, lostMaster := none, election := none, commitAt := some w.dev.now
             rrack := match f.staged with | some t => tablePart rackBits t.1 | none => f.rrack
             rpos := match f.staged with | some t => tablePart posBits t.2 | none => f.rpos
             staged := none }
  (w.doomStreams.breakQuires (fun q => q.members.any fun m => lost.contains (BitVec.ofNat 12 m.1)) 0x89).judgeAtCommit.sayHello

/-- The members with the tables that the master computes (R354 step 1), as it has sent them: a member that it does not yet know a way
to keeps what it had. -/
def Dev.withTables (d : Dev) (ms : List Member) : List Member :=
  ms.map fun m => if m.via.isSome ∨ d.fab.chip = some m.chip then { m with table := some (d.tableFor ms m) } else m

/-- Send TABLE to each member whose table changes (R354 step 2). -/
def W.sendTables (w : W) (ms new : List Member) : W :=
  (ms.zip new).foldl (fun w x =>
    match x.2.via, x.2.table with
    | some v, some t => if x.1.table = some t then w else w.mgmtTo v (.table (tableMsg x.2.chip t))
    | _, _ => w) w

/-- Whether the slice's next commit may come: at most one in 1 ms (R483). -/
def Dev.commitOpen (d : Dev) : Bool := match d.fab.commitAt with | some t => decide (t + 1000000 ≤ d.now) | none => true

/-- The master commits a set of members (R351, R354): TABLE to each member whose table changes, COMMIT to all, and a
HANDOVER where a lower eligible chip has come. The epoch never passes 0xFFFF_FFFF. -/
def W.commitNow (w : W) (ms : List Member) : W :=
  match w.dev.fab.chip with
  | none => w
  | some c =>
    let f := w.dev.fab
    let top := f.epoch = 0xFFFFFFFF
    let epoch := if top then f.epoch else f.epoch + 1
    let w := if top then w.event 0x0603 (srcOf 0xB 0) else w
    let new := w.dev.withTables ms
    let w := (w.sendTables ms new).mgmtAll w.dev.mates (.commit epoch c (ms.map Member.info))
    let own := (new.find? fun m => m.chip == c).bind Member.table
    let w := w.modFab fun f => { f with master := true, members := new, path := none, staged := own, commitDue := false }
    let w := w.applyCommit epoch c (ms.map Member.chip)
    match nextMaster ms none with
    | some m =>
      if m.chip.toNat < c.toNat then (w.handOver m new).modFab fun f => { f with master := false, path := m.via.map fun v => (v, 0) }
      else w
    | none => w

/-- The master commits a set of members as soon as R483 lets it. -/
def W.commitSlice (w : W) (ms : List Member) : W :=
  if w.dev.commitOpen then w.commitNow ms
  else w.modFab fun f => { f with master := true, members := ms, path := none, commitDue := true }

/-- A commit that has waited follows (R483). -/
def W.commitWaiting (w : W) : W :=
  if w.dev.fab.commitDue && w.dev.fab.master && w.dev.commitOpen then w.commitNow w.dev.fab.members else w

/-- Whether no port leads to a member any more (R353): no other member has a port to it, and none of its rack shares a plane with it. -/
def cutOff (ms : List Member) (c : BitVec 12) : Bool :=
  match ms.find? fun m => m.chip == c with
  | none => false
  | some m => ms.all fun x => x.chip == c ||
      (!((x.ports.drop 6).contains (some c)) && (x.chip.toNat / 64 ≠ c.toNat / 64 || planesOf x &&& planesOf m == 0))

/-- The members that a report of new ports shows to be gone (R353): the sender where it reports no port, and those others to which the
last port, cube or rack, went down with it. -/
def goneBy (ms : List Member) (old : Member) (ports : List (Option (BitVec 12))) : List (BitVec 12) :=
  let before := ms.map fun x => if x.chip = old.chip then { x with ports := old.ports } else x
  (if ports.all (fun y => y = none) then [old.chip] else []) ++
    (ms.map Member.chip).filter fun c => c != old.chip && cutOff ms c && !cutOff before c

/-- The members but for those that a report of new ports shows to be gone; the master itself stays. -/
def Dev.remaining (d : Dev) (ms : List Member) (old : Member) (ports : List (Option (BitVec 12))) : List Member :=
  ms.filter fun y => d.fab.chip = some y.chip || !(goneBy ms old ports).contains y.chip

/-- Tell the master of changed ports or hash (R353); a master commits at once. -/
def W.sendUpdate (w : W) : W :=
  match w.dev.fab.chip with
  | some c =>
    if w.dev.fab.state ≠ .admitted then w
    else if w.dev.fab.master then
      let ms := w.dev.fab.members.map fun m => if m.chip = c then { m with ports := w.dev.portReport, hash := w.dev.chash } else m
      if ms = w.dev.fab.members then w
      else match w.dev.fab.members.find? fun m => m.chip == c with
        | some old => w.commitSlice (w.dev.remaining ms old w.dev.portReport)
        | none => w.commitSlice ms
    else w.alongPath (.update ⟨c, w.dev.portReport, w.dev.chash⟩)
  | none => w

/-- Leave the slice (R353): a member sends LEAVE; a master hands over what remains. The chip's own quires lose a member with it
(R377). -/
def W.leaveSlice (w : W) : W :=
  let f := w.dev.fab
  match f.chip with
  | none => w.dropSlice false
  | some c =>
    let w :=
      if f.master then
        match nextMaster f.members (some c) with
        | some m => w.handOver m (f.members.filter fun x => x.chip ≠ c)
        | none => w
      else if f.state = .admitted then w.alongPath (.leave c)
      else w
    (if f.state = .admitted then w.breakQuires (fun _ => true) 0x89 else w).dropSlice false

/-- Reset the slice state of a stale chip, which becomes JOINING (R356). -/
def W.staleReset (w : W) (newEpoch : Word) : W :=
  let old := w.dev.fab.epoch
  let w := w.breakQuires (fun _ => true) 0x8A
  let w := ((w.dropSlice false).fabCnt 9 1).event 0x0604 (srcOf 0xB 0) none [(4, old.toNat), (4, newEpoch.toNat)]
  w.modFab fun f => { f with state := .joining, path := none, masterChip := none, lastMaster := none }

/-- Join the slice whose master this chip follows (R338, R350, R352). -/
def W.rejoin (w : W) : W :=
  if w.dev.fab.chip.isSome ∧ w.dev.fab.path.isSome ∧ w.dev.fab.state ≠ .refused then
    (w.modFab fun f => { f with state := .joining }).sendJoin
  else w

/-- Apply R338 after a change: a chip whose source of the number, or its number, changes leaves its slice and joins again; a REFUSED
one only with another number than the one it was refused under (R352). -/
def W.rechip (w : W) : W :=
  let x := w.dev.chipSource
  let was := w.dev.fab.chip
  if x.2 = was ∧ x.1 = w.dev.fab.chipSrc then w
  else
    let same : Bool := x.2 = was || (w.dev.fab.state = .refused && (x.2.isNone || x.2 = w.dev.fab.refusedAs))
    let w := w.leaveSlice.modFab fun f =>
      { f with chip := x.2, chipSrc := x.1, state := if same then f.state else .alone, cause := if same then f.cause else 0 }
    w.judgePorts.rejoin

/-- Whether a port can send a packet of a channel at once: a credit, room in the window, nothing of the channel waiting
(R322, R326). -/
def Dev.canSend (d : Dev) (p vc : Nat) : Bool :=
  let x := d.port p
  x.state == .up && x.sess.orderly.isNone && decide ((x.sess.n - x.sess.a).toNat < 1024)
    && decide (0 < Tab.look 64 x.sess.credits vc) && !x.txq.any fun y => y.1 == vc

/-- Send on the packets held at this hop whose output port can take them, in order per input port, channel and output
port (R341). -/
def W.pumpFwdList (w : W) : List FwdPacket → List (Nat × Nat × Nat) → W
  | [], _ => w
  | x :: t, stuck =>
    let k := pktOf x.bytes
    match w.dev.route k.dst k.ssag x.vc x.inPort with
    | some o =>
      if w.dev.canSend o x.vc ∧ !stuck.contains (x.inPort, x.vc, o) then
        W.pumpFwdList (((w.modFab fun f => { f with fwd := f.fwd.erase x }).fabCnt 0 1).enqueuePort o x.vc x.bytes) t stuck
      else W.pumpFwdList w t ((x.inPort, x.vc, o) :: stuck)
    | none => W.pumpFwdList ((w.modFab fun f => { f with fwd := f.fwd.erase x }).fabCnt 1 1) t stuck

def W.pumpFwd (w : W) : W := w.pumpFwdList w.dev.fab.fwd []

/-- A port has reached UP (R307, R337, R338, R350, R351): an exclusion stands while the partner is the same. -/
def W.fabPortUp (w : W) (p : Nat) : W :=
  let same : Bool := Tab.look (0, 0) w.dev.fab.exclBy p == w.dev.partner p
  let w := w.modFab fun f =>
    { f with excl := if same then f.excl else Tab.del f.excl p, near := f.near.filter fun x => x.port ≠ p || decide (p < 6)
             firstUp := match f.firstUp with | some t => some t | none => some w.dev.now }
  w.judgePorts.rechip.sayHello.sendUpdate.pumpFwd

/-- A port carries flits no more: forget the ways that no port leads to now (R347, R350). -/
def W.fabPortGone (w : W) : W :=
  let lost (c : BitVec 12) : Bool := (w.dev.wayTo c).isNone
  let w := w.modFab fun f =>
    { f with path := f.path.filter fun x => !lost x.1, back := f.back.filter fun x => !lost x.2 }
  w.rechip.sendUpdate

end Sys2Proof.Machine
end

