-- ==== Sys2Proof/Machine/LinkOps.lean ====
section
/-!
DEFINITION. The port states (R307): attempts and their failures (R308–R317), retraining (R328, R329), link down and the
packets it hands back (R330, R344, R375).
-/
namespace Sys2Proof.Machine

/-- Codes of LNK.PSTAT and LNK.CAUSE (R333). -/
def PortState.code : PortState → Nat
  | .off => 0
  | .detect => 1
  | .train => 2
  | .up => 3
  | .retrain => 4
  | .parked => 5
  | .quiet => 6

def Phase.code : Phase → Nat
  | .none => 0
  | .lane => 1
  | .align => 2
  | .ident => 3
  | .auth => 4
  | .arm => 5
  | .resume => 6

/-- What the transmitter of a lane sends (R308–R310, R313, R328): nothing, the detect pattern, training frames, the idle pattern,
flits, the retrain pattern. -/
inductive LaneSignal where
  | off | detect | frames | idle | flits | retrain
  deriving DecidableEq, Repr

/-- What a lane in use, or left out, sends in a phase. -/
def laneSignal (used : Bool) (s : LaneSignal) : LaneSignal := if used then s else .idle

/-- What a port sends on a physical lane (R303, R307–R310, R313, R328, R329, R332). -/
def Dev.laneSends (d : Dev) (p lane : Nat) : LaneSignal :=
  let x := d.port p
  let used := x.lanes.getLsbD lane
  if lane < x.base ∨ x.base + x.count ≤ lane ∨ (d.dom (portDom p)).cur ≠ .active then .off
  else match x.state, x.phase with
    | .off, _ | .quiet, _ => .off
    | .parked, _ => if x.probing.isSome then .detect else .off
    | .detect, _ | .train, .none => .detect
    | .train, .lane => .frames
    | .train, .align | .retrain, .align => laneSignal used .frames
    | .train, _ | .up, _ | .retrain, .resume => laneSignal used .flits
    | .retrain, _ => laneSignal used .retrain

/-- The timeout of a training phase, in ns (R309). -/
def Phase.timeout : Phase → Nat
  | .lane => 80000000
  | .align => 30000000
  | .ident => 30000000
  | .auth => 40000000
  | .arm => 20000000
  | _ => 0

/-- The reprobe interval in ns (R313, R334). -/
def Dev.reprobeNs (d : Dev) : Nat := d.reprobe.toNat * 1000000

/-- Record a cause with the phase of the port (R333). -/
def W.lnkCause (w : W) (p cause : Nat) : W :=
  w.modPort p fun x => { x with causePhase := x.phase.code, cause := BitVec.ofNat 8 cause }

/-- Enter DETECT (R308): what the last partner gave is forgotten (R333). -/
def W.enterDetect (w : W) (p : Nat) : W :=
  w.modPort p fun x =>
    { x with state := .detect, phase := .none, phaseAt := w.dev.now, lanes := 0, width := 0, enc := false, encNow := false
             authSt := 0, peer := none, armRx := false, parkedAt := none, probing := none, probeAttempt := false }

/-- Enter QUIET (R311). -/
def W.enterQuiet (w : W) (p : Nat) : W :=
  w.modPort p fun x =>
    { x with state := .quiet, phase := .none, phaseAt := w.dev.now, lanes := 0, width := 0, encNow := false, armRx := false }

/-- Enter PARKED (R313); `anew` sets the reprobe schedule. -/
def W.enterParked (w : W) (p : Nat) (anew : Bool) : W :=
  w.modPort p fun x =>
    { x with state := .parked, phase := .none, phaseAt := w.dev.now, lanes := 0, width := 0, encNow := false, armRx := false
             parkedAt := if anew then some w.dev.now else x.parkedAt, lastProbe := w.dev.now, probing := none
             probeAttempt := false, parkAfter := false }

/-- Park a port after its third failed attempt, or by command as if that had failed (R290, R311, R313, R314): the count stands at 3, and
the event gives the cause recorded last. -/
def W.parkNow (w : W) (p : Nat) : W :=
  let w := (w.modPort p fun x => { x with fails := 3 }).enterParked p true
  w.event 0x0502 (srcOf 3 p) none [(4, (w.dev.port p).cause.toNat)]

/-- Begin an attempt (R308, R309, R315, R317). -/
def W.beginAttempt (w : W) (p : Nat) (probe : Bool) : W :=
  let (nonce, w) := w.drawRandom 16
  (w.modPort p fun x =>
    { x with state := .train, phase := .lane, phaseAt := w.dev.now, lanes := 0, dropped := 0, width := 0, enc := x.encreq
             encNow := false, authSt := 0, armRx := false, nonce := nonce, probing := none, probeAttempt := probe }).lnkCnt p 0 1

/-- Reject causes that have an event of their own (R478), by their place in its list. -/
def rejectIndex : Nat → Option Nat
  | 5 => some 0
  | 6 => some 1
  | 8 => some 2
  | 3 => some 3
  | 9 => some 4
  | _ => none

/-- An attempt fails (R311, R313, R316); `serial` and `kid` are the partner's. -/
def W.failAttempt (w : W) (p cause : Nat) (serial kid : Nat) : W :=
  let w := ((w.lnkCause p cause).lnkCnt p 1 1).touch (portDom p)
  let w := if cause = 7 then ((w.modPort p fun x => { x with authSt := 2 }).lnkCnt p 3 1).event 0x0503 (srcOf 3 p) none [(8, serial)]
           else w
  let w := match rejectIndex cause with
    | some i => w.event 0x0504 (srcOf 3 p) none [(4, i), (4, kid)]
    | none => w
  let w := w.modPort p fun x => { x with fails := min 3 (x.fails + 1), lastEnd := some w.dev.now }
  if (w.dev.port p).probeAttempt then w.enterParked p false
  else if 3 ≤ (w.dev.port p).fails then w.parkNow p
  else w.enterQuiet p

/-- The header of a TRAIN flit (R319, R321): its type, and enc on a link that is encrypted. -/
def trainHead (enc : Bool) : Nat := 3 * 2 ^ 60 + b2n enc * 2 ^ 23

/-- A TRAIN flit (R309, R318, R319): never encrypted itself. -/
def trainFlit (enc : Bool) (payload : List Byte) : List Byte := flitBytes (trainHead enc) payload none

/-- The IDENT message of this chip (R315); until the partner's is taken, `enc` is encreq as the attempt began (R317). -/
def Dev.identPayload (d : Dev) (p : Nat) : List Byte :=
  let c := match d.fab.chip with | some c => c.toNat + 2 ^ 14 | none => 0
  leBytes 4 (1 + 2 ^ 8 + 2 ^ 16 + p * 2 ^ 24) ++ leBytes 4 Dev.version.toNat ++ leBytes 8 Config.serial.toNat ++
  leBytes 4 (c + b2n d.eligible * 2 ^ 15) ++ leBytes 4 d.fab.epoch.toNat ++ leBytes 4 d.chash.toNat ++
  leBytes 4 d.start.cfg.kid.toNat ++ (d.port p).nonce ++ leBytes 4 (1 + 2 * b2n (d.port p).enc)

/-- Whether this side is the initiator: the lower serial (R316). -/
def initiatorOf (peer : Peer) : Bool := Config.serial.toNat < peer.serial.toNat

/-- The two nonces and serials, the initiator's first (R316). -/
def authFields (nonce : List Byte) (peer : Peer) : List Byte × List Byte :=
  let so := leBytes 8 Config.serial.toNat
  let sp := leBytes 8 peer.serial.toNat
  if initiatorOf peer then (nonce ++ peer.nonce, so ++ sp) else (peer.nonce ++ nonce, sp ++ so)

/-- The tag of a side (R316). -/
def authTag (key nonce : List Byte) (peer : Peer) (initiator : Bool) : List Byte :=
  let (ns, ss) := authFields nonce peer
  hmac key (asciiBytes "limvel-link-auth" ++ [if initiator then 1 else 2] ++ ns ++ ss)

/-- The session secret Z (R317). -/
def sessionKey (key nonce : List Byte) (peer : Peer) : List Byte :=
  hmac key (asciiBytes "limvel-link-sess" ++ (authFields nonce peer).1)

/-- The tag of a RESUME message (R329); E is taken as 4 bytes and the counter as 8 (log entry 24). -/
def resumeTag (z : List Byte) (initiator : Bool) (e ctr : Nat) : List Byte :=
  hmac z (asciiBytes "limvel-link-resume" ++ [if initiator then 1 else 2] ++ leBytes 4 e ++ leBytes 8 ctr)

/-- The training message of the port's phase (R315–R317, R329). -/
def Dev.trainPayload (d : Dev) (p : Nat) : Option (List Byte) :=
  let x := d.port p
  match x.phase, x.peer with
  | .ident, _ => some (d.identPayload p)
  | .auth, some peer => some (leBytes 4 2 ++ authTag d.start.cfg.key x.nonce peer (initiatorOf peer))
  | .arm, _ => some (leBytes 4 (3 + b2n x.enc * 2 ^ 8 + x.width * 2 ^ 16))
  | .resume, _ =>
    some (leBytes 4 4 ++ leBytes 4 x.sess.e.toNat ++ leBytes 8 x.sess.txCtr ++
      resumeTag x.sess.z x.sess.initiator x.sess.e.toNat x.sess.txCtr)
  | _, _ => none

/-- Send the training message of the port's phase (R309, R329). -/
def W.sendTrain (w : W) (p : Nat) : W :=
  match w.dev.trainPayload p with
  | some l =>
    let x := w.dev.port p
    (w.modPort p fun x => { x with lastTrain := w.dev.now }).out (.flit p (trainFlit (x.encNow && x.state == .retrain) l))
  | none => w

/-- Enter a phase, and send its message if it has one. -/
def W.enterPhase (w : W) (p : Nat) (ph : Phase) : W :=
  (w.modPort p fun x => { x with phase := ph, phaseAt := w.dev.now }).sendTrain p

/-- The IDENT checks of R315 and R317 in their order: a partner with the agreed encryption, or a cause. -/
def identCheck (d : Dev) (p : Nat) (l : List Byte) : Except Nat (Peer × Bool) :=
  let w0 := leAt l 0 4
  let w10 := leAt l 0x10 4
  let w30 := leAt l 0x30 4
  let kid := leAt l 0x1C 4
  let kind := bits w0 23 16
  let port := bits w0 31 24
  let encreq := bit w30 1
  let need := (d.port p).enc || encreq
  if bits w0 15 8 ≠ 1 then .error 3
  else if !((kind = 1 ∧ port < 12) ∨ (kind = 2 ∧ port < 64)) ∨ bits (leAt l 4 4) 31 24 ≠ 0 ∨ bits w10 31 16 ≠ 0 ∨
    bits w10 13 12 ≠ 0 ∨ bits w30 31 2 ≠ 0 ∨ (((l.drop 0x34).take 192).any fun b => b ≠ 0) then .error 4
  else if d.start.cfg.kid = 0 ∨ kid = 0 then .error 5
  else if kid ≠ d.start.cfg.kid.toNat then .error 6
  else if leAt l 8 8 = Config.serial.toNat then .error 8
  else if need ∧ !bit w30 0 then .error 9
  else .ok (⟨BitVec.ofNat 64 (leAt l 8 8), BitVec.ofNat 8 kind, BitVec.ofNat 8 port, BitVec.ofNat 24 (leAt l 4 4),
      bit w10 14, BitVec.ofNat 12 w10, bit w10 15, BitVec.ofNat 32 (leAt l 0x14 4), BitVec.ofNat 32 (leAt l 0x18 4),
      BitVec.ofNat 32 kid, (l.drop 0x20).take 16, bit w30 0, encreq⟩, need)

/-- An IDENT message (R315). -/
def W.gotIdent (w : W) (p : Nat) (l : List Byte) : W :=
  if (w.dev.port p).state = .train ∧ (w.dev.port p).phase = .ident then
    match identCheck w.dev p l with
    | .error c => w.failAttempt p c (leAt l 8 8) (leAt l 0x1C 4)
    | .ok (peer, enc) => (w.modPort p fun x => { x with peer := some peer, enc := enc }).enterPhase p .auth
  else w

/-- An AUTH message (R316). -/
def W.gotAuth (w : W) (p : Nat) (l : List Byte) : W :=
  let x := w.dev.port p
  match x.peer with
  | some peer =>
    if x.state = .train ∧ x.phase = .auth then
      if (l.drop 4).take 32 = authTag w.dev.start.cfg.key x.nonce peer (!initiatorOf peer) then
        (w.modPort p fun x => { x with authSt := 1 }).enterPhase p .arm
      else w.failAttempt p 7 peer.serial.toNat peer.kid.toNat
    else w
  | none => w

/-- An ARM message (R317, R318): from here on flits run under the agreed settings. -/
def W.gotArm (w : W) (p : Nat) (l : List Byte) : W :=
  let x := w.dev.port p
  match x.peer with
  | some peer =>
    if x.state = .train ∧ x.phase = .arm ∧ !x.armRx then
      if bits (leAt l 0 4) 23 16 = x.width ∧ bit (leAt l 0 4) 8 = x.enc then
        (w.modPort p fun x =>
          { x with armRx := true, encNow := x.enc
                   sess := { LinkSess.reset with
                     initiator := initiatorOf peer, z := sessionKey w.dev.start.cfg.key x.nonce peer, lastTx := w.dev.now
                     lastRx := w.dev.now, rx := x.sess.rx } }).sendFlit p 0 0 0 []
      else w.failAttempt p 4 peer.serial.toNat peer.kid.toNat
    else w
  | none => w

/-- The port reaches UP (R309). -/
def W.goUp (w : W) (p : Nat) : W :=
  (w.modPort p fun x =>
    { x with state := .up, phase := .none, phaseAt := w.dev.now, fails := 0, lastEnd := some w.dev.now, parkedAt := none
             probing := none, probeAttempt := false, parkAfter := false
             sess := { x.sess with lastA := w.dev.now } }).fabPortUp p

/-- Enter RETRAIN (R328, R329): lanes that triggered it are to be dropped. -/
def W.enterRetrain (w : W) (p : Nat) (drop : List Nat) : W :=
  let w := w.modPort p fun x =>
    { x with state := .retrain, phase := .lane, phaseAt := w.dev.now, retrainAt := w.dev.now, early := none
             dropped := drop.foldl (fun m i => m ||| BitVec.ofNat 96 (2 ^ i)) 0
             sess := { x.sess with replays := 0 } }
  (w.lnkCnt p 4 1).fabPortGone

/-- Send a collective packet again if no CACK covers it (R375). -/
def W.resendColl (w : W) (vc : Nat) (bytes : List Byte) : W :=
  if w.dev.coll.quires.any fun q => q.2.unacked.any fun u => u.bytes == bytes then
    let w := w.modColl fun c => { c with quires := Tab.mapV (fun _ q =>
      { q with unacked := q.unacked.map fun u => if u.bytes = bytes then { u with last := w.dev.now } else u }) c.quires }
    (w.colCnt 4 1).emit vc (pktOf bytes)
  else w

/-- A packet that is sent again at a time (R344). -/
def TxPacket.again (x : TxPacket) (now : Nat) : TxPacket :=
  { x with last := now, resends := x.resends + 1, third := if x.resends = 2 then some now else x.third }

/-- Send a sequenced packet of a stream again, on the route in force (R344). -/
def W.resendSeq (w : W) (key : Nat) (seq : Word) : W :=
  match w.dev.sendOf key with
  | none => w
  | some st =>
    match st.unacked.find? fun x => x.seq == seq with
    | none => w
    | some x =>
      let w := w.modSend key fun s =>
        { s with lastAct := w.dev.now, unacked := s.unacked.map fun y =>
            if y.seq = seq then y.again w.dev.now else y }
      (w.fabCnt 4 1).emit st.vc (pktOf x.bytes)

/-- A packet comes back as of unknown delivery (R330, R344, R361, R375): one of this chip that waits for an acknowledgement is
sent again, unless its stream is to fail. -/
def W.handBack (w : W) (vc : Nat) (bytes : List Byte) : W :=
  let k := pktOf bytes
  if k.src ≠ w.dev.ownChip ∨ w.dev.fab.chip = none then w
  else if k.ptype = 0x20 ∨ k.ptype = 0x21 then w.resendColl vc bytes
  else if 1 ≤ k.ptype ∧ k.ptype ≤ 4 then
    match w.dev.fab.sends.find? fun s => s.ssag == k.ssag && s.dst == k.dst && s.vc == vc && !s.abandoned && !s.doomed with
    | some s => w.resendSeq s.key (BitVec.ofNat 32 k.seq)
    | none => w
  else w

/-- The link goes down (R330); `lost` and `width` are what a retrain that has not been logged says of itself (R329). -/
def W.linkDownLog (w : W) (p cause lost width : Nat) : W :=
  let x := w.dev.port p
  let undelivered := (x.sess.replay.map fun f => (f.vc, f.pkt)) ++ x.txq.map fun y => (y.1, y.2.1)
  let w := ((w.lnkCause p cause).lnkCnt p 13 1).touch (portDom p)
  let w := if x.state = .retrain ∧ x.phase = .lane then w.event 0x0500 (srcOf 3 p) none [(4, lost), (4, width)] else w
  let w := w.event 0x0501 (srcOf 3 p) none [(4, cause)]
  let w := w.modPort p fun y =>
    { y with sess := { LinkSess.reset with rx := y.sess.rx }, txq := [], fails := 0, enc := false, encNow := false, early := none }
  let w := if x.parkAfter then w.parkNow p else w.enterQuiet p
  let w := undelivered.foldl (fun w f => w.handBack f.1 f.2) w
  if x.state = .up then w.fabPortGone else w

/-- The link goes down with a cause (R330). -/
def W.linkDown (w : W) (p cause : Nat) : W := w.linkDownLog p cause 0 (w.dev.port p).width

/-- Take an UP link down in order (R330). -/
def W.orderlyDown (w : W) (p : Nat) : W :=
  (w.sendFlit p 4 0 0 []).modPort p fun x => { x with sess := { x.sess with orderly := some w.dev.now } }

/-- Park a port by command (R290, R314); no failed attempt is counted in LNK.CNT. -/
def W.parkPort (w : W) (p : Nat) : W :=
  match (w.dev.port p).state with
  | .off => w
  | .up => if (w.dev.port p).parkAfter then w else (w.modPort p fun x => { x with parkAfter := true }).orderlyDown p
  | .retrain => (w.modPort p fun x => { x with parkAfter := true }).linkDown p 0x0F
  | .train => (((w.lnkCause p 0x0F).touch (portDom p)).modPort p fun x => { x with lastEnd := some w.dev.now }).parkNow p
  | _ => (w.lnkCause p 0x0F).parkNow p

/-- Start training by command (R314). -/
def W.trainPort (w : W) (p : Nat) : W :=
  match (w.dev.port p).state with
  | .detect => w.modPort p fun x => { x with fails := 0 }
  | .parked | .quiet => (w.modPort p fun x => { x with fails := 0 }).enterDetect p
  | _ => w

end Sys2Proof.Machine
end

