-- ==== Sys2Proof/WellFormed.lean ====
section
/-!
DEFINITION. Which commands are well-formed: the shapes the operands of a command must have to stand for a command of
the manual at all. Everything a command's meaning checks by a rule of the manual is left to the meaning.
-/
namespace Sys2Proof

/-- One address per lane, or one for the 64-byte form of a load or store (07, Loads and stores). -/
def MemArgs.wf (a : MemArgs) : Bool :=
  match a.width with
  | .w64 => a.addrs.length == 1
  | _ => a.addrs.length == 16

/-- One address per lane of an atomic (R180). -/
def AmoArgs.wf (a : AmoArgs) : Bool := a.addrs.length == 16

/-- A flit has 256 bytes (R320). -/
def flitWf (f : List Byte) : Bool := f.length == 256

/-- The six cube ports of a JOIN, and the twelve ports of an UPDATE or of a member of a HANDOVER (R350). -/
def JoinMsg.wf (m : JoinMsg) : Bool := m.partners.length == 6
def UpdateMsg.wf (m : UpdateMsg) : Bool := m.ports.length == 12
def HandMember.wf (x : HandMember) : Bool := x.ports.length == 12
def HandoverMsg.wf (m : HandoverMsg) : Bool := m.members.all HandMember.wf

/-- How large an agent's register space is (R227, R204); the console reaches no register by address (R498). -/
def agentSpace : Agent → Nat
  | .pf => 0x4000000
  | .con => 0
  | _ => 0x10000

/-- Whether an agent reaches registers with an access of 4 or 8 bytes at an offset: those of a thread have 4 bytes (R204, R227). -/
def regAccessWf (ag : Agent) (off : Nat) (wide : Bool) : Bool :=
  decide (off < agentSpace ag) && (!wide || match ag with | .reg _ => false | _ => true)

def RegData.wide : RegData → Bool
  | .word _ => false
  | .pair _ => true

/-- Whether a host access has the wrong size or alignment (R227). -/
def badAccess (off size : Nat) : Bool := (size ≠ 4 && size ≠ 8) || off % size ≠ 0

/-- The well-formed commands. -/
def Instr.wf : Instr → Bool
  | .registerWrite ag off v => regAccessWf ag off v.wide
  | .registerReadClear ag off => regAccessWf ag off.off off.wide
  | .badRegisterAccess ag off size _ => decide (off < agentSpace ag) && badAccess off size
  | .load _ a _ => a.wf
  | .store _ a => a.wf
  | .amoLoad _ a | .amoStore _ a | .amoSwap _ a | .amoCompareAndSwap _ a | .amoIntegerAdd _ a
  | .amoBinary32Add _ a | .amoSignedMin _ a | .amoSignedMax _ a | .amoUnsignedMin _ a | .amoUnsignedMax _ a
  | .amoAnd _ a | .amoOr _ a | .amoXor _ a => a.wf
  | .ident _ f | .auth _ f | .arm _ f | .resume _ f | .data _ f | .nullFlit _ f | .nak _ f | .train _ f
  | .down _ f => flitWf f
  | .msixUnmask fn vec => fn.val == 0 || vec.val < 4
  | .tableStoreError recipe slot _ _ => recipe || slot.val < 64
  | .throttleRelease mv => mv.rails.length == 3
  | .join _ _ _ m => m.wf
  | .update _ _ _ m => m.wf
  | .handover _ _ _ m => m.wf
  | .sliceCommitMsg _ _ _ _ _ members => members.all HandMember.wf
  | _ => true

end Sys2Proof
end

