-- ==== Sys2Proof/Machine/LinkCmds.lean ====
section
/-!
DEFINITION. The commands of the optical ports: what arrives on a port, and its timers (R308–R330).
-/
namespace Sys2Proof.Machine

/-- Instants within the last millisecond. -/
def recentMs (now : Nat) (l : List Nat) : List Nat := l.filter fun t => decide (now < t + 1000000)

/-- Whether a port has a link that can go down: one that is UP or retrains (R329, R330). -/
def Dev.linked (d : Dev) (p : Nat) : Bool := match (d.port p).state with | .up | .retrain => true | _ => false

/-- A protocol error (R327): counted, and the 17th within 1 ms takes the link down. -/
def W.protoError (w : W) (p : Nat) : W :=
  let l := recentMs w.dev.now (w.dev.port p).sess.protoErrs ++ [w.dev.now]
  let w := (w.modPort p fun x => { x with sess := { x.sess with protoErrs := l } }).lnkCnt p 12 1
  if 17 ≤ l.length ∧ w.dev.linked p then w.linkDown p 0x0E else w

/-- Send a NAK (R323). -/
def W.putNak (w : W) (p : Nat) : W :=
  ((w.modPort p fun x => { x with sess := { x.sess with nakSince := some w.dev.now } }).lnkCnt p 9 1).sendFlit p 2 0 0 []

/-- Send a NAK for a gap unless one is outstanding for E (R323). -/
def W.sendNak (w : W) (p : Nat) : W := if (w.dev.port p).sess.nakSince.isSome then w else w.putNak p

/-- A flit whose tag fails, or whose counter is not new (R318, R327). -/
def W.tagError (w : W) (p : Nat) : W :=
  let l := recentMs w.dev.now (w.dev.port p).sess.tagErrs ++ [w.dev.now]
  let w := ((w.modPort p fun x => { x with sess := { x.sess with tagErrs := l } }).lnkCnt p 11 1).putNak p
  if 17 ≤ l.length ∧ w.dev.linked p then w.linkDown p 0x0D else w

/-- Whether the CRC of a flit is right (R320). -/
def flitCrcOk (f : List Byte) : Bool := leAt f 252 4 == crc32 (f.take 252)

/-- Decrypt a flit under the session (R318): its counter and payload, unless the tag fails or the counter is old. -/
def openFlit (l : LinkSess) (f : List Byte) : Option (Nat × List Byte) :=
  let d := if l.initiator then 2 else 1
  let ctr := leAt f 8 8
  let c := (f.drop 16).take 220
  let k := dirKey l.z d
  let fresh : Bool := match l.rxCtr with | some n => decide (n < ctr) | none => true
  if fresh ∧ gcmTag k (flitIv d ctr) (f.take 8) c = (f.drop 236).take 16 then some (ctr, gcmCrypt k (flitIv d ctr) c) else none

/-- Whether an acknowledgement lies in the range of R322. -/
def ackOk (l : LinkSess) (h : FlitHead) : Bool :=
  !h.ackv || decide ((BitVec.ofNat 12 h.ack - (l.a - 1)).toNat ≤ (l.n - l.a).toNat)

/-- Whether the returned credits stay within the 64 of R326. -/
def creditOk (l : LinkSess) (h : FlitHead) : Bool := h.crn == 0 || decide (Tab.look 64 l.credits h.crvc + h.crn ≤ 64)

/-- How many buffers of a channel are taken (R326). -/
def LinkSess.held (l : LinkSess) (vc : Nat) : Nat := (l.rx.filter fun x => x.1 == vc).length

/-- Apply an acknowledgement of everything before `a` (R322). -/
def W.applyAck (w : W) (p : Nat) (a : BitVec 12) : W :=
  w.modPort p fun x =>
    let n := (a - x.sess.a).toNat
    if n = 0 then x
    else { x with sess := { x.sess with a := a, replay := x.sess.replay.drop n, replays := 0, lastA := w.dev.now } }

/-- Take what every flit carries: acknowledgement and credits (R321). -/
def W.takeHead (w : W) (p : Nat) (h : FlitHead) : W :=
  let w := if h.ackv then w.applyAck p (BitVec.ofNat 12 h.ack + 1) else w
  w.modPort p fun x =>
    { x with sess := { x.sess with credits := if h.crn = 0 then x.sess.credits
                                              else Tab.put x.sess.credits h.crvc (Tab.look 64 x.sess.credits h.crvc + h.crn) } }

/-- Take what a flit carries, then send what may go. -/
def W.applyHead (w : W) (p : Nat) (h : FlitHead) : W := ((w.takeHead p h).pump p).pumpFwd

/-- Take a packet from a port's buffers and return its credit (R326). -/
def takeRx (vc : Nat) : List (Nat × List Byte) → List (Nat × List Byte)
  | [] => []
  | (c, b) :: t => if c = vc then t else (c, b) :: takeRx vc t

def W.dropRx (w : W) (p vc : Nat) : W :=
  w.modPort p fun x =>
    { x with sess := { x.sess with rx := takeRx vc x.sess.rx
                                   toReturn := Tab.put x.sess.toReturn vc (Tab.look 0 x.sess.toReturn vc + 1) } }

/-- Packet types that a row of their own receives (R340, R374). -/
def ptypeTaken (t : Nat) : Bool := (1 ≤ t && t ≤ 7) || (0x20 ≤ t && t ≤ 0x23)

/-- Deliver an accepted packet (R323): into the buffer, for its own row; a malformed one or one of a reserved type is
discarded and counted (R341), and what a management packet says comes by the row of its message (R350, log entry 25). -/
def W.deliver (w : W) (p vc : Nat) (pkt : List Byte) : W :=
  let w := w.modPort p fun x => { x with sess := { x.sess with rx := x.sess.rx ++ [(vc, pkt)] } }
  let t := (pktOf pkt).ptype
  if pktOk pkt ∧ ptypeTaken t then w
  else
    let w := w.modPort p fun x =>
      { x with sess := { x.sess with rx := x.sess.rx.dropLast
                                     toReturn := Tab.put x.sess.toReturn vc (Tab.look 0 x.sess.toReturn vc + 1) } }
    if pktOk pkt ∧ 0x10 ≤ t ∧ t ≤ 0x1C then w else w.fabCnt 1 1

/-- A DATA flit that passed its checks (R323). -/
def W.gotData (w : W) (p : Nat) (h : FlitHead) (payload : List Byte) : W :=
  let s := BitVec.ofNat 12 h.seq
  let e := (w.dev.port p).sess.e
  if s = e then
    let w := w.modPort p fun x =>
      { x with sess := { x.sess with e := e + 1, ackv := true, nakSince := none }, frx := x.frx + 1 }
    (w.deliver p h.vc (payload.take (4 * h.plen))).sendFlit p 0 0 0 []
  else if 2048 ≤ (s - e).toNat then w.sendFlit p 0 0 0 []
  else w.sendNak p

/-- Send again every unacknowledged flit, in order (R324). -/
def W.replay (w : W) (p : Nat) : W :=
  let l := (w.dev.port p).sess.replay
  if l = [] then w
  else
    let w := (w.modPort p fun x =>
      { x with sess := { x.sess with replays := x.sess.replays + 1, lastA := w.dev.now } }).lnkCnt p 10 1
    l.foldl (fun w f => w.sendFlit p 1 f.seq.toNat f.vc f.pkt) w

/-- A NAK has been received (R324): after 8 replays in a row without an advance it is a retrain (R328); new flits follow the
replay. -/
def W.gotNak (w : W) (p : Nat) : W :=
  let l := (w.dev.port p).sess
  if 8 ≤ l.replays ∧ l.replay ≠ [] then (w.lnkCause p 0x0C).enterRetrain p [] else ((w.replay p).pump p).pumpFwd

/-- What a flit of each type does once it has passed the checks of R318, R320 and R327. -/
def W.flitEffect (w : W) (p : Nat) (h : FlitHead) (payload : List Byte) : W :=
  match h.ty with
  | 1 => (w.applyHead p h).gotData p h payload
  | 2 => (w.takeHead p h).gotNak p
  | 4 => (w.applyHead p h).linkDown p 0x0F
  | _ => w.applyHead p h

/-- A protocol error of a flit other than TRAIN (R318, R319, R322, R326, R327). -/
def Port.flitBad (x : Port) (f : List Byte) : Bool :=
  let l := x.sess
  let h := headOf (leAt f 0 8)
  4 < h.ty || h.ty == 3 || !headReservedOk (leAt f 0 8) || h.enc != x.encNow ||
    (h.ty == 1 && (h.plen == 0 || (if x.encNow then 55 else 61) < h.plen)) || !ackOk l h || !creditOk l h ||
    (h.ty == 1 && BitVec.ofNat 12 h.seq == l.e && 64 ≤ l.held h.vc)

/-- A flit whose CRC is right arrives on a port that carries flits (R318–R327). In the ARM phase the first flit under the agreed
settings takes the port UP (R309). -/
def W.flitIn (w : W) (p : Nat) (f : List Byte) : W :=
  let x := w.dev.port p
  let h := headOf (leAt f 0 8)
  let body : Option (Option Nat × List Byte) :=
    if x.encNow ∧ h.ty ≠ 3 then (openFlit x.sess f).map fun r => (some r.1, r.2) else some (none, (f.drop 8).take 244)
  match body with
  | none => w.tagError p
  | some (ctr, payload) =>
    let w := w.modPort p fun x => { x with sess := { x.sess with rxCtr := match ctr with | some n => some n | none => x.sess.rxCtr } }
    if x.flitBad f then w.protoError p
    else (if x.state = .up then w else w.goUp p).flitEffect p h payload

/-- A flit of a type arrives (R318–R327). One of another type is no flit of this row; one whose CRC fails has no type. -/
def W.recvFlit (w : W) (p ty : Nat) (f : List Byte) : W :=
  let x := w.dev.port p
  let crc := flitCrcOk f
  let t := bits (leAt f 0 8) 63 60
  let armed := x.state = .train ∧ x.phase = .arm ∧ x.armRx
  if crc ∧ t ≠ ty ∧ t ≤ 4 then w
  else if !(x.state = .up ∨ armed) then w
  else
    let w := w.modPort p fun x => { x with sess := { x.sess with lastRx := w.dev.now } }
    if crc then w.flitIn p f else (w.lnkCnt p 6 1).putNak p

/-- A training message arrives (R309): taken in training, a protocol error on an UP link (R327). -/
def W.recvTrain (w : W) (p msg : Nat) (f : List Byte) (k : W → List Byte → W) : W :=
  let x := w.dev.port p
  let h := leAt f 0 8
  if x.state ≠ .up ∧ x.state ≠ .train ∧ x.state ≠ .retrain then w
  else if flitCrcOk f ∧ (bits h 63 60 ≠ 3 ∨ (msg ≠ 0 ∧ leAt f 8 1 ≠ msg)) then w
  else
  let w := if x.state = .up then w.modPort p fun x => { x with sess := { x.sess with lastRx := w.dev.now } } else w
  if !flitCrcOk f then
    let w := w.lnkCnt p 6 1
    if x.state = .up then w.putNak p else w
  else if x.state = .up then w.protoError p
  else if h ≠ trainHead false ∧ h ≠ trainHead true then w.protoError p
  else k w ((f.drop 8).take 244)

/-- A RESUME message (R329): E and counter of the partner, checked, then replay. -/
def W.gotResume (w : W) (p : Nat) (l : List Byte) : W :=
  let x := w.dev.port p
  if x.state = .retrain ∧ x.phase = .resume then
    let e := leAt l 4 4
    let ctr := leAt l 8 8
    let tagOk := (l.drop 0x10).take 32 = resumeTag x.sess.z (!x.sess.initiator) e ctr
    if tagOk ∧ e < 4096 ∧ (BitVec.ofNat 12 e - x.sess.a).toNat ≤ (x.sess.n - x.sess.a).toNat then
      let w := w.applyAck p (BitVec.ofNat 12 e)
      let w := w.modPort p fun x =>
        { x with state := .up, phase := .none, phaseAt := w.dev.now
                 sess := { x.sess with lastRx := w.dev.now, lastA := w.dev.now, nakSince := none } }
      let w := ((w.replay p).pump p).judgePorts
      w.rechip.sayHello.sendUpdate.pumpFwd
    else w.linkDown p 0x0B
  else if x.state = .retrain then w.modPort p fun x => { x with early := some l }
  else w

/-- Enter the RESUME phase (R329): a message of the partner that has come already is taken now. -/
def W.enterResume (w : W) (p : Nat) : W :=
  let w := w.enterPhase p .resume
  match (w.dev.port p).early with
  | some l => (w.modPort p fun x => { x with early := none }).gotResume p l
  | none => w

/-- SIGNAL_DETECT (R308, R313, R332). -/
def execSignalDetect (p : Fin 12) : State → Res := actMem fun w =>
  let x := w.dev.port p
  if !w.dev.admits (portDom p) then w
  else match x.state with
    | .detect => w.beginAttempt p false
    | .parked =>
      if x.probing.isSome then w.beginAttempt p true
      else
        let waited := match x.lastEnd with | some t => decide (t + w.dev.reprobeNs ≤ w.dev.now) | none => true
        if waited then (w.beginAttempt p true).lnkCnt p 14 1 else w
    | _ => w

/-- Good logical lanes as a list. -/
def goodLanes (n : Nat) (ok : Nat → Bool) : List Nat := (List.range n).filter ok

/-- Whether a lane arrives within 64 ns of the first lane that has lock (R306; log entry 41); `arrive` gives each logical lane's
arrival in ns. -/
def skewOk (mine : BitVec 96) (arrive : List Nat) (i : Nat) : Bool :=
  (List.range 96).all fun k => !mine.getLsbD k || decide (arrive.getD i 0 ≤ arrive.getD k 0 + 64)

/-- LANE_PHASE_DONE (R306, R310, R328, R329): `mine` are the logical lanes that have clock-data lock and codeword lock. -/
def execLanePhaseDone (p : Fin 12) (mine : BitVec 96) (arrive : List Nat) (peerGood : BitVec 96) (peerCount : Nat) : State → Res := actMem fun w =>
  let x := w.dev.port p
  let good (i : Nat) : Bool := mine.getLsbD i && peerGood.getLsbD i && skewOk mine arrive i
  let mask (l : List Nat) : BitVec 96 := l.foldl (fun m i => m ||| BitVec.ofNat 96 (2 ^ (x.base + i))) 0
  if x.phase ≠ .lane then w
  else match x.state with
    | .train =>
      let l := goodLanes (min x.count peerCount) good
      let l := l.take (l.length / 2 * 2)
      if l.length < 2 then w.failAttempt p 0x0A 0 0
      else (w.modPort p fun x => { x with lanes := mask l, width := l.length }).enterPhase p .align
    | .retrain =>
      let l := goodLanes x.count fun i => x.lanes.getLsbD (x.base + i) && good i && !x.dropped.getLsbD (x.base + i)
      let lost := x.width - l.length
      let used := l.take (l.length / 2 * 2)
      let w := w.lnkCnt p 5 lost
      if used.length < 2 then w.linkDownLog p 0x0A lost used.length
      else
        let w := w.event 0x0500 (srcOf 3 p) none [(4, lost), (4, used.length)]
        (w.modPort p fun x => { x with lanes := mask used, width := used.length }).enterPhase p .align
    | _ => w

/-- ALIGN_PHASE_DONE (R309, R329). -/
def execAlignPhaseDone (p : Fin 12) : State → Res := actMem fun w =>
  let x := w.dev.port p
  if x.phase ≠ .align then w
  else match x.state with
    | .train => w.enterPhase p .ident
    | .retrain => w.enterResume p
    | _ => w

/-- IDENT (R315). -/
def execIdent (p : Fin 12) (flit : List Byte) : State → Res := checkedMem (flitWf flit) fun w =>
  w.recvTrain p 1 flit fun w l => w.gotIdent p l

/-- AUTH (R316). -/
def execAuth (p : Fin 12) (flit : List Byte) : State → Res := checkedMem (flitWf flit) fun w =>
  w.recvTrain p 2 flit fun w l => w.gotAuth p l

/-- ARM (R309, R317): UP follows the first further flit. -/
def execArm (p : Fin 12) (flit : List Byte) : State → Res := checkedMem (flitWf flit) fun w =>
  w.recvTrain p 3 flit fun w l => w.gotArm p l

/-- RESUME (R329). -/
def execResume (p : Fin 12) (flit : List Byte) : State → Res := checkedMem (flitWf flit) fun w =>
  w.recvTrain p 4 flit fun w l => w.gotResume p l

/-- TRAIN (R309, R327): any training message, by its msg byte. -/
def execTrain (p : Fin 12) (flit : List Byte) : State → Res := checkedMem (flitWf flit) fun w =>
  w.recvTrain p 0 flit fun w l =>
    match leAt l 0 1 with
    | 1 => w.gotIdent p l
    | 2 => w.gotAuth p l
    | 3 => w.gotArm p l
    | 4 => w.gotResume p l
    | _ => w

/-- TRAINING_PHASE_TIMEOUT (R309, R311). -/
def execTrainingPhaseTimeout (p : Fin 12) : State → Res := actMem fun w =>
  let x := w.dev.port p
  if x.state = .train ∧ x.phaseAt + x.phase.timeout ≤ w.dev.now then
    w.failAttempt p 1 (match x.peer with | some q => q.serial.toNat | none => 0) 0
  else w

/-- QUIET_END (R311). -/
def execQuietEnd (p : Fin 12) : State → Res := actMem fun w =>
  let x := w.dev.port p
  if x.state = .quiet ∧ x.phaseAt + 10000000 ≤ w.dev.now then w.enterDetect p else w

/-- UNPLUG (R312). -/
def execUnplug (p : Fin 12) : State → Res := actMem fun w =>
  if (w.dev.port p).state = .train then
    ((((w.lnkCause p 2).lnkCnt p 2 1).touch (portDom p)).modPort p fun x => { x with lastEnd := some w.dev.now }).enterDetect p
  else w

/-- REPROBE (R313, R332): at a multiple of the interval that has not been used. -/
def execReprobe (p : Fin 12) : State → Res := actMem fun w =>
  let x := w.dev.port p
  match x.state, x.parkedAt with
  | .parked, some t =>
    let iv := w.dev.reprobeNs
    if w.dev.admits (portDom p) ∧ x.probing = none ∧ (x.lastProbe - t) / iv < (w.dev.now - t) / iv then
      (w.modPort p fun x => { x with probing := some w.dev.now, lastProbe := w.dev.now }).lnkCnt p 14 1
    else w
  | _, _ => w

/-- REPROBE_WINDOW_END (R313). -/
def execReprobeWindowEnd (p : Fin 12) : State → Res := actMem fun w =>
  match (w.dev.port p).probing with
  | some t => if t + 20000000 ≤ w.dev.now then w.modPort p fun x => { x with probing := none } else w
  | none => w

/-- LNK_TRAIN_START (R314). -/
def execLnkTrainStart (ag : Agent) (p : Fin 12) : State → Res := actMem fun w =>
  w.regAccess ag .glob (.write (.blk 0xC000 (0x100 * p)) 1) fun w => w.trainPort p

/-- LNK_TRAIN_PARK (R314, R330). -/
def execLnkTrainPark (ag : Agent) (p : Fin 12) : State → Res := actMem fun w =>
  w.regAccess ag .glob (.write (.blk 0xC000 (0x100 * p)) 2) fun w => w.parkPort p

/-- DATA (R322, R323, R326, R327). -/
def execData (p : Fin 12) (flit : List Byte) : State → Res := checkedMem (flitWf flit) fun w => w.recvFlit p 1 flit

/-- NULL (R321). -/
def execNullFlit (p : Fin 12) (flit : List Byte) : State → Res := checkedMem (flitWf flit) fun w => w.recvFlit p 0 flit

/-- NAK (R324). -/
def execNak (p : Fin 12) (flit : List Byte) : State → Res := checkedMem (flitWf flit) fun w => w.recvFlit p 2 flit

/-- DOWN (R330). -/
def execDown (p : Fin 12) (flit : List Byte) : State → Res := checkedMem (flitWf flit) fun w => w.recvFlit p 4 flit

/-- TRAIN_RESEND (R309). -/
def execTrainResend (p : Fin 12) : State → Res := actMem fun w =>
  let x := w.dev.port p
  if x.state = .train ∧ x.lastTrain + 1000 ≤ w.dev.now then w.sendTrain p else w

/-- NULL_FLIT_TIMER (R321). -/
def execNullFlitTimer (p : Fin 12) : State → Res := actMem fun w =>
  let x := w.dev.port p
  if x.state = .up ∧ x.sess.lastTx + 1000 ≤ w.dev.now then w.sendFlit p 0 0 0 [] else w

/-- NAK_EXPIRY (R323). -/
def execNakExpiry (p : Fin 12) : State → Res := actMem fun w =>
  match (w.dev.port p).sess.nakSince with
  | some t => if t + 10000 ≤ w.dev.now then w.modPort p fun x => { x with sess := { x.sess with nakSince := none } } else w
  | none => w

/-- REPLAY_TIMEOUT (R324, R328): after 8 replays in a row the next trigger is a retrain. -/
def execReplayTimeout (p : Fin 12) : State → Res := actMem fun w =>
  let x := w.dev.port p
  if x.state = .up ∧ x.sess.replay ≠ [] ∧ x.sess.lastA + 10000 ≤ w.dev.now then
    if 8 ≤ x.sess.replays then (w.lnkCause p 0x0C).enterRetrain p [] else (w.replay p).pump p
  else w

/-- LOCK_LOSS (R328). -/
def execLockLoss (p : Fin 12) (lane : Fin 96) : State → Res := actMem fun w =>
  let x := w.dev.port p
  if x.state = .up ∧ x.lanes.getLsbD lane then w.enterRetrain p [lane] else w

/-- CODEWORD_ERRORS (R328, R333). -/
def execCodewordErrors (p : Fin 12) (lane : Fin 96) (n : Nat) : State → Res := actMem fun w =>
  let x := w.dev.port p
  if x.state = .up ∧ x.lanes.getLsbD lane then
    let w := w.lnkCnt p 8 n
    if 4 < n then w.enterRetrain p [lane] else w
  else w

/-- SYMBOL_ERROR_RATIO (R306, R328, R333): `n` symbols corrected in 1 ms, of the 21,250,000 that a lane carries (DEDUCED,
log entry 24). -/
def execSymbolErrorRatio (p : Fin 12) (lane : Fin 96) (n : Nat) : State → Res := actMem fun w =>
  let x := w.dev.port p
  if x.state = .up ∧ x.lanes.getLsbD lane then
    let w := w.lnkCnt p 7 n
    if 2125 < n then w.enterRetrain p [lane] else w
  else w

/-- FLIT_SILENCE (R328). -/
def execFlitSilence (p : Fin 12) : State → Res := actMem fun w =>
  let x := w.dev.port p
  if x.state = .up ∧ x.sess.lastRx + 10000 ≤ w.dev.now then w.enterRetrain p [] else w

/-- RETRAIN_PATTERN (R328): the partner's retrain pattern is seen, or flit lock is lost. -/
def execRetrainPattern (p : Fin 12) : State → Res := actMem fun w =>
  if w.dev.isUp p then w.enterRetrain p [] else w

/-- RETRAIN_TIMEOUT (R329); a park whose limit has passed meanwhile ends with cause COMMAND (R330). -/
def execRetrainTimeout (p : Fin 12) : State → Res := actMem fun w =>
  let x := w.dev.port p
  if x.state = .retrain ∧ x.retrainAt + 2000000 ≤ w.dev.now then w.linkDown p (if x.sess.orderly.isSome then 0x0F else 1) else w

/-- ORDERLY_DOWN_END (R330). -/
def execOrderlyDownEnd (p : Fin 12) : State → Res := actMem fun w =>
  let x := w.dev.port p
  match x.state, x.sess.orderly with
  | .up, some t => if x.sess.a = x.sess.n ∨ t + 1000000 ≤ w.dev.now then w.linkDown p 0x0F else w
  | .retrain, some t => if t + 1000000 ≤ w.dev.now then w.linkDown p 0x0F else w
  | _, _ => w

end Sys2Proof.Machine
end

