-- ==== Sys2Proof/Machine/FabRx.lean ====
section
/-!
DEFINITION. A packet that has arrived on a port: discarded, forwarded or given to what performs it (R341, R346, R348).
-/
namespace Sys2Proof.Machine

/-- Whether this chip may forward a packet (R348): any when ADMITTED, else those of its rack neighbours to members. -/
def Dev.mayForward (d : Dev) (k : Pkt) : Bool :=
  d.fab.state == .admitted || (k.src / 64 == d.ownChip / 64 && d.fab.memberChips.contains (BitVec.ofNat 12 k.dst))

/-- Forward a packet (R341, R346): held at this hop until its output port can take it. -/
def W.forward (w : W) (p vc : Nat) (k : Pkt) : W :=
  if !w.dev.mayForward k then w
  else if k.ttl = 0 then w.fabCnt 1 1
  else
    let x : FwdPacket := ⟨w.dev.now, p, vc, { k with ttl := k.ttl - 1 }.bytes⟩
    (w.modFab fun f => { f with fwd := f.fwd ++ [x] }).pumpFwd

/-- Take the front packet of a channel of a port, if it is of a type. `perform` says what the packet does at its
destination, and whether it can be done now; one that cannot stays in its buffer. -/
def W.recvPkt (w : W) (p vc ty : Nat) (perform : W → Pkt → W × Bool) : W :=
  match (w.dev.port p).sess.rx.find? fun x => x.1 == vc with
  | none => w
  | some (_, bytes) =>
    let k := pktOf bytes
    if k.ptype ≠ ty then w
    else if k.slice ≠ w.dev.fab.sliceid.toNat then (w.dropRx p vc).fabCnt 2 1
    else if Tab.look false w.dev.fab.excl p then w.dropRx p vc
    else if some (BitVec.ofNat 12 k.dst) ≠ w.dev.fab.chip then (w.dropRx p vc).forward p vc k
    else if w.dev.fab.state ≠ .admitted then w.dropRx p vc
    else
      let (w', done) := perform w k
      if done then w'.dropRx p vc else w'

/-- Whether a packet that waits at this hop since a time has been held more than 50 µs (R341). -/
def Dev.heldLong (d : Dev) (since : Nat) : Bool := decide (since + 50000 < d.now)

/-- Discard the packets that have waited too long to leave a port (R341); this chip's own packets are at their first hop there
(DEDUCED, log entry 43). Each is counted. -/
def W.dropStale (w : W) (p : Nat) : W :=
  let old (x : Nat × List Byte × Nat) : Bool := w.dev.heldLong x.2.2
  let n := (w.dev.port p).txq.countP old
  if n = 0 then w
  else (w.modPort p fun x => { x with txq := x.txq.filter fun y => !old y }).fabCnt 1 n

/-- HOP_HOLD_TIMEOUT (R341). -/
def execHopHoldTimeout : State → Res := act fun w =>
  let n := w.dev.fab.fwd.countP fun x => w.dev.heldLong x.since
  let w := (w.modFab fun f => { f with fwd := f.fwd.filter fun x => !w.dev.heldLong x.since }).fabCnt 1 n
  ((List.range 12).foldl W.dropStale w).pumpFwd

end Sys2Proof.Machine
end

