-- ==== Sys2Proof/Machine/Coll.lean ====
section
/-!
DEFINITION. Quires and collectives (R363–R382): issue, the tree, packets, timers.
-/
namespace Sys2Proof.Machine

/-- The fields of a collective command (R366). -/
structure CCmd where
  op : Nat
  kind : Nat
  rawin : Bool
  rawout : Bool
  qid : Nat
  n : Nat
  root : Nat
  src : Nat
  dst : Nat
  rec_ : Nat
  completion : Nat
  tag : Nat
  reservedOk : Bool
  deriving DecidableEq, Repr

def ccmdOf (l : List Byte) : CCmd :=
  let w0 := leAt l 0 4
  { op := bits w0 31 24, kind := bits w0 23 20, rawin := bit w0 19, rawout := bit w0 18, qid := bits w0 15 0
    n := bits (leAt l 4 4) 16 0, root := bits (leAt l 8 4) 11 0, src := leAt l 0x10 8, dst := leAt l 0x18 8
    rec_ := leAt l 0x20 8, completion := leAt l 0x30 8, tag := leAt l 0x38 4
    reservedOk := bits w0 17 16 == 0 && bits (leAt l 4 4) 31 17 == 0 && bits (leAt l 8 4) 31 12 == 0 && leAt l 0xC 4 == 0
      && leAt l 0x28 8 == 0 && leAt l 0x3C 4 == 0 }

def CCmd.bcast (c : CCmd) : Bool := c.op == 5
def CCmd.reduces (c : CCmd) : Bool := c.op == 3 || c.op == 4
def CCmd.hasData (c : CCmd) : Bool := c.reduces || c.bcast
/-- Whether a member of a rank writes outputs (R372): not the others of a REDUCE, nor the root of a BCAST. -/
def CCmd.writes (c : CCmd) (rank : Nat) : Bool := c.hasData && !(c.op == 3 && c.root != rank) && !(c.bcast && c.root == rank)
def CCmd.inBytes (c : CCmd) : Nat := c.n * kindIn c.bcast c.kind c.rawin
def CCmd.outBytes (c : CCmd) : Nat := c.n * kindOut c.bcast c.kind c.rawout

/-- The signature of an operation (R366). -/
def collSig (cmd : List Byte) : Nat := crc32 (cmd.take 12)

/-- The members that a quire record lists (R363). -/
def recordMembers (m : Nat) (l : List Byte) : List (Nat × Nat) :=
  (List.range m).map fun r => (bits (leAt l (16 + 4 * r) 4) 11 0, bits (leAt l (16 + 4 * r) 4) 22 16)

/-- Whether a record keeps R363, lists the issuer once and no pair twice (R367). -/
def recordOk (own : Nat × Nat) (l : List Byte) : Bool :=
  let w4 := leAt l 4 4
  let m := bits w4 12 0
  let ms := recordMembers m l
  bits (leAt l 0 4) 31 16 == 0 && 1 ≤ m && m ≤ 4096 && bits w4 15 13 == 0 && bits w4 18 16 ≤ 6 && bits w4 31 19 == 0 &&
    leAt l 8 8 == 0 &&
    ((List.range m).all fun r => bits (leAt l (16 + 4 * r) 4) 31 23 == 0 && bits (leAt l (16 + 4 * r) 4) 15 12 == 0) &&
    ms.count own == 1 && ms.Nodup

/-- The quire entry of a saggar's qid (R364). -/
def Dev.quireOf (d : Dev) (s qid : Nat) : Option Nat :=
  (List.range 256).find? fun i => (d.quire i).state != .free && (d.quire i).sag == s && (d.quire i).qid == qid

def Dev.quireFree (d : Dev) : Option Nat := (List.range 256).find? fun i => (d.quire i).state == .free

/-- The issue checks that need no record (R367), in the order of the table: 0 where none fails. -/
def collStatus (d : Dev) (addr : Nat) (c : CCmd) (q : Option Quire) : Nat :=
  let root := c.op == 3 || c.op == 5
  let nOk := if c.hasData then 1 ≤ c.n && c.n ≤ 65536 else c.n == 0
  let rootOk := if root then (match q with | some x => x.m == 0 || c.root < x.m | none => true) else c.root == 0
  let overlap := c.hasData && rangesMeet c.src c.inBytes c.dst c.outBytes && !(c.src == c.dst && c.inBytes == c.outBytes)
  if !c.reservedOk || !(1 ≤ c.op && c.op ≤ 6) || (c.reduces && 5 < c.kind) || !nOk || !rootOk || overlap then 0x80
  else if addr % 64 ≠ 0 ∨ (c.op = 1 ∧ c.rec_ % 64 ≠ 0) ∨ c.completion % 16 ≠ 0 then 0x06
  else if c.op ≠ 1 ∧ q = none then 0x81
  else if c.op = 1 ∧ q.isSome then 0x82
  else if c.op = 1 ∧ d.quireFree = none then 0x83
  else if c.op = 1 then 0
  else if d.fab.state ≠ .admitted then 0x85
  else match q with
    | some x => if c.op ≠ 2 ∧ x.state = .broken then 0x8B else 0
    | none => 0

/-- The checks on a FORM's record (R367). -/
def formStatus (d : Dev) (s : Nat) (l : List Byte) (qid : Nat) : Nat :=
  let w4 := leAt l 4 4
  if d.fab.chip = none ∨ !recordOk (d.ownChip, s) l ∨ leAt l 0 4 ≠ qid then 0x84
  else if d.fab.state ≠ .admitted ∨
    (recordMembers (bits w4 12 0) l).any fun m => !d.viewOk s m.1 (bits w4 18 16) (m.1 == d.ownChip) then 0x85
  else 0

/-- Send a packet that a CACK must cover (R375). -/
def W.collSend (w : W) (i : Nat) (k : Pkt) : W :=
  let q := w.dev.quire i
  let until_ := match q.run with | some r => r.since + r.limit | none => w.dev.now
  (w.modQuire i fun x => { x with unacked := x.unacked ++ [⟨k.bytes, q.vc, k.dst, w.dev.now, until_⟩] }).collEmit q.vc k

/-- Send values to a rank at a step (R371, R374): a FORM's digest in a CFORM, elements in CDATA packets of up to 128
bytes, a BARRIER's packet without data. -/
def W.collSendVals (w : W) (i dest step : Nat) (vals : List Nat) : W :=
  let q := w.dev.quire i
  match q.run with
  | none => w
  | some r =>
    let c := ccmdOf r.op.cmd
    if c.op = 1 then w.collSend i (q.pkt w.dev 0x20 dest step 0 0 (vals.getD 0 0) [])
    else
      let size := kindTransit c.bcast c.kind
      let sig := collSig r.op.cmd
      if c.n = 0 then w.collSend i (q.pkt w.dev 0x21 dest step 0 q.round.toNat sig [])
      else
        let per := 128 / size
        (List.range (cdiv vals.length per)).foldl (fun w j =>
          w.collSend i (q.pkt w.dev 0x21 dest step (j * per) q.round.toNat sig
            (((vals.drop (j * per)).take per).flatMap (leBytes size)))) w

/-- The values received at a step, once every element is there (R371). -/
def CollRun.got (r : CollRun) (step : Nat) : Option (List Nat) :=
  let c := ccmdOf r.op.cmd
  let parts := r.recv.filter fun x => x.1 == step
  if c.n = 0 then (if parts = [] then none else some (parts.flatMap fun x => x.2.2))
  else
    let vals := (List.range c.n).filterMap fun k =>
      (parts.find? fun x => decide (x.2.1 ≤ k) && decide (k < x.2.1 + x.2.2.length)).bind fun x => x.2.2[k - x.2.1]?
    if vals.length = c.n then some vals else none

/-- Merge received values into a member's own (R365, R370, R371), counting each element at most once per kind (R381), with
the first NaN produced (R380). -/
def mergeVals (c : CCmd) (a b : List Nat) : List MElem :=
  if c.op = 1 then (a.zip b).map fun x => ⟨if x.1 = x.2 then x.1 else Config.formMarker.toNat, false, false, false⟩
  else (a.zip b).map fun x => mergeElem c.kind x.1 x.2

/-- Add the indices of marked elements. -/
def markIdx (old : List Nat) (l : List MElem) (f : MElem → Bool) : List Nat :=
  old ++ ((l.zip (List.range l.length)).filter fun x => f x.1 && !old.contains x.2).map Prod.snd

def W.modRun (w : W) (i : Nat) (f : CollRun → CollRun) : W := w.modQuire i fun q => { q with run := q.run.map f }

/-- A NaN produced by a merge (R380). -/
def W.collTrap (w : W) (i : Nat) (o : CollOp) (l : List MElem) : W :=
  match (l.zip (List.range l.length)).find? fun x => x.1.made with
  | some (_, e) => (w.fillTrap o.who (0x40 + o.code) 0xFF 0 e (w.dev.quire i).round.toNat false).2
  | none => w

/-- A member has its outputs: it writes them, then its record (R365, R372, R379). -/
def W.collFinish (w : W) (i : Nat) (r : CollRun) (writes : Bool) (vals : List Nat) : W := w.afterReports [.record (.quire i)] fun w =>
  let c := ccmdOf r.op.cmd
  let q := w.dev.quire i
  if c.op = 1 then
    if vals.getD 0 0 = r.vals.getD 0 0 ∧ r.sats = [] then w.collOk i else w.collBreak i 0x86 0 false
  else if !writes ∨ c.n = 0 then w.collOk i
  else
    let out := vals.map (outputOf c.bcast c.kind c.rawout)
    let w := w.modRun i fun r => { r with sats := markIdx r.sats out MElem.sat }
    match w.storeVa q.sag c.dst (out.flatMap fun e => leBytes (kindOut c.bcast c.kind c.rawout) e.v) (.operand true) with
    | (.bytes _, w) => w.collOk i
    | (.fail cause va, w) => (w.lastFault q.sag cause va).collBreak i 0x11 0 true
    | (_, w) => w.collBreak i 0x11 0 true

/-- Pass values down to every rank below `level` (R372). -/
def W.collDown (w : W) (i level : Nat) (vals : List Nat) : W :=
  let q := w.dev.quire i
  (List.range level).reverse.foldl (fun w l =>
    if q.rank + 2 ^ l < q.m then w.collSendVals i (q.rank + 2 ^ l) (0x80 + l) vals else w) w

/-- The level at which a rank sends upward: its lowest set bit; 12 for rank 0, which never does. -/
def sendLevel (rank : Nat) : Nat := ((List.range 12).find? fun l => bit rank l).getD 12

/-- The result of rank 0, which every member gets (R372): a FORM keeps its own digest beside it. -/
def W.collTop (w : W) (i : Nat) (r : CollRun) (vals : List Nat) : W :=
  let c := ccmdOf r.op.cmd
  let q := w.dev.quire i
  if c.op = 3 then
    if c.root = 0 then w.collFinish i r true vals
    else (w.collSendVals i c.root 0xFE vals).collOk i
  else (w.collDown i 12 vals).collFinish i r (!(c.bcast && c.root = q.rank)) vals

/-- Run a quire's operation as far as what it has received lets it (R371, R372). The values of a FORM are its own digest
first, then the merged one. -/
def W.collAdvanceN : Nat → W → Nat → W
  | 0, w, _ => w
  | n + 1, w, i =>
    let q := w.dev.quire i
    match q.run with
    | none => w
    | some r =>
      let c := ccmdOf r.op.cmd
      let cur := if c.op = 1 then r.vals.drop 1 else r.vals
      let keep (v : List Nat) : List Nat := if c.op = 1 then r.vals.take 1 ++ v else v
      match r.phase with
      | .up level =>
        if bit q.rank level then
          let w := w.collSendVals i (q.rank - 2 ^ level) level cur
          if c.op = 3 then
            if c.root = q.rank then W.collAdvanceN n (w.modRun i fun r => { r with phase := .handoff }) i else w.collOk i
          else W.collAdvanceN n (w.modRun i fun r => { r with phase := .down }) i
        else if q.m ≤ 2 ^ level then w.collTop i r cur
        else if q.rank + 2 ^ level < q.m then
          match r.got level with
          | none => w
          | some b =>
            let l := mergeVals c cur b
            let w := w.modRun i fun r =>
              { r with vals := keep (l.map MElem.v), phase := .up (level + 1), sats := markIdx r.sats l MElem.sat
                       flushes := markIdx r.flushes l MElem.flush }
            W.collAdvanceN n (w.collTrap i r.op l) i
        else W.collAdvanceN n (w.modRun i fun r => { r with phase := .up (level + 1) }) i
      | .down =>
        let l := sendLevel q.rank
        match r.got (0x80 + l) with
        | none => w
        | some v =>
          let w := w.collDown i l v
          w.collFinish i r (!(c.bcast && c.root = q.rank)) v
      | .handoff =>
        match r.got 0xFE with
        | none => w
        | some v => if c.bcast then w.collTop i r v else w.collFinish i r true v

def W.collAdvance (w : W) (i : Nat) : W := w.collAdvanceN 32 i

/-- The rank a packet of a step must come from (R371, R372). -/
def stepSender (q : Quire) (c : CCmd) (step : Nat) : Option Nat :=
  if step < 12 then (if q.rank + 2 ^ step < q.m then some (q.rank + 2 ^ step) else none)
  else if step = 0xFE then
    (if c.op = 3 ∧ c.root = q.rank ∧ q.rank ≠ 0 then some 0
     else if c.bcast ∧ q.rank = 0 ∧ c.root ≠ 0 then some c.root else none)
  else if step = 0x80 + sendLevel q.rank ∧ q.rank ≠ 0 then some (q.rank - 2 ^ sendLevel q.rank)
  else none

/-- The fields of a collective packet's address (R374). -/
def pktQid (k : Pkt) : Nat := bits k.addr 15 0
def pktStep (k : Pkt) : Nat := bits k.addr 23 16
def pktRank (k : Pkt) : Nat := bits k.addr 35 24
def pktFirst (k : Pkt) : Nat := bits k.addr 63 40

/-- What marks a copy of the same packet (R375). -/
def pktMark (k : Pkt) : Nat × Nat × Nat := (k.seq, pktStep k * 4096 + pktRank k, pktFirst k)

/-- Answer a CFORM or CDATA (R375). -/
def W.collAck (w : W) (i : Nat) (k : Pkt) : W :=
  let q := w.dev.quire i
  w.collEmit q.vc (w.dev.mkPkt 0x22 k.src k.ssag k.tsag k.seq
    (pktFirst k * 2 ^ 40 + q.rank * 2 ^ 24 + pktStep k * 2 ^ 16 + pktQid k) 0 0 [] false)

/-- Split the data of a CDATA packet into elements in transit. -/
def splitVals (size : Nat) : Nat → List Byte → List Nat
  | 0, _ => []
  | n + 1, l => if l = [] then [] else leVal (l.take size) :: splitVals size n (l.drop size)

/-- Use a packet of the running round (R375): a signature that differs fails the round. -/
def W.collUse (w : W) (i : Nat) (k : Pkt) : W :=
  let q := w.dev.quire i
  match q.run with
  | none => w
  | some r =>
    let c := ccmdOf r.op.cmd
    if c.op ≠ 1 ∧ k.arg ≠ collSig r.op.cmd then w.collBreak i 0x87 0 true
    else if stepSender q c (pktStep k) ≠ some (pktRank k) then w.colCnt 6 1
    else
      let size := kindTransit c.bcast c.kind
      let vals := if c.op = 1 then [k.arg] else splitVals size 128 k.data
      let w := if q.seen.contains (pktMark k) then w
               else (w.modQuire i fun q => { q with seen := q.seen ++ [pktMark k] }).collAck i k
      (w.modRun i fun r => { r with recv := r.recv ++ [(pktStep k, pktFirst k, vals)] }).collAdvance i

/-- Whether a copy of a packet has been used or is held (R375). -/
def Quire.knows (q : Quire) (k : Pkt) : Bool :=
  q.seen.contains (pktMark k) || q.held.any fun x => pktMark (pktOf x.2) == pktMark k

/-- A CFORM or CDATA for a quire entry (R375). -/
def W.collPacket (w : W) (i : Nat) (k : Pkt) : W :=
  let q := w.dev.quire i
  let r := q.round.toNat
  if q.knows k ∨ (k.seq + 1) % 2 ^ 32 = r then (w.colCnt 5 1).collAck i k
  else if q.state = .broken ∧ q.run.isNone then w.colCnt 6 1
  else if k.seq = r ∧ q.run.isSome then w.collUse i k
  else if k.seq = r then
    (w.modQuire i fun q => { q with held := q.held ++ [(k.seq, k.bytes)], seen := q.seen ++ [pktMark k] }).collAck i k
  else if k.seq = (r + 1) % 2 ^ 32 then
    if (q.held.filter fun x => x.1 == k.seq).length < 64 then
      w.modQuire i fun q => { q with held := q.held ++ [(k.seq, k.bytes)] }
    else w.colCnt 7 1
  else w.colCnt 6 1

/-- Run an effect on a quire, unless the running operation's memory lies in a sleeping domain or a moving page (R383):
then the packet stays where it is. -/
def W.collReady (w : W) (i : Nat) (k : W → W) : W × Bool :=
  let q := w.dev.quire i
  match q.run with
  | none => (k w, true)
  | some r =>
    let c := ccmdOf r.op.cmd
    match (if c.writes q.rank then w.blocked q.sag (.operand true) (piecesOf c.dst c.outBytes) else none) with
    | some g => (w.hold g, false)
    | none => (k w, true)

/-- Use what waited for the round that now runs. -/
def W.collHeld (w : W) (i : Nat) : W :=
  let q := w.dev.quire i
  let now := q.held.filter fun x => x.1 == q.round.toNat
  let w := w.modQuire i fun q => { q with held := q.held.filter fun x => x.1 ≠ q.round.toNat }
  now.foldl (fun w x => if (w.dev.quire i).run.isSome then w.collUse i (pktOf x.2) else w) w

/-- Begin an operation of a quire (R365, R369, R372, R376). -/
def W.collBegin (w : W) (i : Nat) (o : CollOp) (vals : List Nat) (sats : List Nat) : W :=
  let c := ccmdOf o.cmd
  let q := w.dev.quire i
  let run : CollRun := ⟨o, w.dev.now, w.dev.colTimeout * 1000000, .up 0, vals, [], sats, []⟩
  let w := w.modQuire i fun x => { x with roundAt := some w.dev.now, state := if c.op = 1 then .forming else .running, run := some run }
  let w :=
    if c.bcast then
      if c.root ≠ q.rank then
        w.modRun i fun r => { r with phase := if q.rank = 0 then .handoff else .down }
      else if q.rank = 0 then w.collTop i run vals
      else (w.collSendVals i 0 0xFE vals).modRun i fun r => { r with phase := .down }
    else w
  (w.collAdvance i).collHeld i

/-- The packets a saggar has held for a quire not yet formed (R375). -/
def W.takeForms (w : W) (i : Nat) : W :=
  let q := w.dev.quire i
  let mine (x : Nat × Nat × List Byte) : Bool := (pktOf x.2.2).tsag == q.sag && pktQid (pktOf x.2.2) == q.qid
  let l := w.dev.coll.heldForms.filter mine
  let w := w.modColl fun c => { c with heldForms := c.heldForms.filter fun x => !mine x }
  l.foldl (fun w x => if (w.dev.quire i).state = .forming then w.collPacket i (pktOf x.2.2) else w) w

/-- The record of an operation rejected at issue (R367); the operation is complete, and its bundle may exit, once it is written (R164). -/
def W.collReject (w : W) (x : At) (o : CollOp) (rank status cause : Nat) : W :=
  (w.asyncIssued x).writeRec ⟨o.who.sag, o.completion, collRecord status o.code rank 0 0 o.tag 0 cause 0, none, some o.who, [], []⟩

/-- Make the entry of a FORM and begin it (R365). -/
def W.form (w : W) (x : At) (o : CollOp) (l : List Byte) : W :=
  match w.dev.quireFree with
  | none => w
  | some i =>
    let w4 := leAt l 4 4
    let ms := recordMembers (bits w4 12 0) l
    let own := (w.dev.ownChip, o.who.sag)
    let w := w.modQuire i fun q =>
      { Quire.reset with state := .forming, sag := o.who.sag, qid := leAt l 0 2, vc := bits w4 18 16, m := ms.length
                         rank := ms.idxOf own, members := ms, unacked := q.unacked }
    let d := crc32 l
    ((w.asyncIssued x).collBegin i o [d, d] []).takeForms i

/-- Whether an operation of a quire could start now: none runs, and the record of the one before it has been written (R365, R369). -/
def Dev.quireIdle (d : Dev) (i : Nat) : Bool := (d.quire i).run.isNone && !d.recWaits (some (.quire i))

/-- Issue of the collective command at an address (R366, R367, R369). The bundle's cluster reads the command; what follows is the
hub's, and crosses no link between the cluster dies. -/
def W.issueColl (w : W) (x : At) (a : DWord) : W :=
  w.instr x fun w b act =>
    w.withCmd x b act a.toNat 64 fun w l =>
      let w := { w with die := none }
      let c := ccmdOf l
      let o : CollOp := ⟨l, issuerOf x b act⟩
      let i? := w.dev.quireOf b.sag c.qid
      let q? := i?.map w.dev.quire
      let rank := match q? with | some q => q.rank | none => 0
      let st := collStatus w.dev a.toNat c q?
      if st ≠ 0 then w.collReject x o rank st (if st = 0x8B then (match q? with | some q => q.cause.toNat | none => 0) else 0)
      else if c.op = 1 then
        w.gated b.sag [(.operand false, c.rec_, 16)] fun w =>
          match w.fetchVa b.sag c.rec_ 16 (.operand false) with
          | (.bytes h, w) =>
            let m := bits (leAt h 4 4) 12 0
            if m = 0 ∨ 4096 < m then w.collReject x o 0 0x84 0
            else w.gated b.sag [(.operand false, c.rec_, 16 + 4 * m)] fun w =>
              match w.fetchVa b.sag c.rec_ (16 + 4 * m) (.operand false) with
              | (.bytes r, w) =>
                let st := formStatus w.dev b.sag r c.qid
                if st ≠ 0 then w.collReject x o 0 st 0 else w.form x o r
              | (g, w) => let (st, w) := w.failStatus b.sag g
                          w.collReject x o 0 st 0
          | (g, w) => let (st, w) := w.failStatus b.sag g
                      w.collReject x o 0 st 0
      else match i? with
        | none => w
        | some i =>
          let q := w.dev.quire i
          if 16 ≤ q.waiting.length then w
          else if c.op = 2 ∧ q.waiting = [] ∧ w.dev.quireIdle i then
            ((w.collFree i).asyncIssued x).collRecorded i o q.rank 0 0 0 0 q.round.toNat
          else (w.modQuire i fun q => { q with waiting := q.waiting ++ [o] }).asyncIssued x

/-- FORM (R363–R367): one instruction issues every collective command; its op field says which (log entry 16). -/
def execForm (at_ : At) (cmd : DWord) : State → Res := actMem fun w => w.issueColl at_ cmd

/-- DISSOLVE (R365–R367). -/
def execDissolve (at_ : At) (cmd : DWord) : State → Res := actMem fun w => w.issueColl at_ cmd

/-- REDUCE (R366, R367, R370, R372). -/
def execReduce (at_ : At) (cmd : DWord) : State → Res := actMem fun w => w.issueColl at_ cmd

/-- ALLREDUCE (R366, R367, R370, R372). -/
def execAllreduce (at_ : At) (cmd : DWord) : State → Res := actMem fun w => w.issueColl at_ cmd

/-- BCAST (R366, R367, R372). -/
def execBcast (at_ : At) (cmd : DWord) : State → Res := actMem fun w => w.issueColl at_ cmd

/-- BARRIER (R366, R367, R372, R382). -/
def execBarrier (at_ : At) (cmd : DWord) : State → Res := actMem fun w => w.issueColl at_ cmd

/-- Whether a member reads inputs for an operation (R372). -/
def readsInput (c : CCmd) (rank : Nat) : Bool := c.reduces || (c.bcast && c.root == rank)

/-- Whether a quire may begin a round: at most one in 0.5 µs (R483). -/
def Dev.roundOpen (d : Dev) (i : Nat) : Bool := match (d.quire i).roundAt with | some t => decide (t + 500 ≤ d.now) | none => true

/-- COLL_START (R365, R369, R370, R376, R378, R483): the operation that waits longest starts once the one before it has written
its record. -/
def execCollStart (i : Fin 256) (ecc : Ecc) : State → Res := actMem fun w =>
  let q := w.dev.quire i
  match q.waiting, w.dev.quireIdle i with
  | o :: rest, true =>
    let c := ccmdOf o.cmd
    let pop (w : W) : W := w.modQuire i fun q => { q with waiting := rest }
    if c.op = 2 then
      rest.foldl (fun w p => w.collRecorded i p q.rank 0 0 0x81 0 0)
        ((w.collFree i).collRecorded i o q.rank 0 0 0 0 q.round.toNat)
    else if !w.dev.roundOpen i then w
    else if q.state = .broken then
      ((pop w).modQuire i fun q => { q with roundAt := some w.dev.now, round := q.round + 1, seen := [] }).collRecorded i o q.rank 0 0 0x8B q.cause.toNat q.round.toNat
    else
      let ins := if readsInput c q.rank then [(Use.operand false, c.src, c.inBytes)] else []
      w.gated q.sag ((if c.writes q.rank then [(Use.operand true, c.dst, c.outBytes)] else []) ++ ins) fun w =>
        let w := { (pop w) with op := 0x40 + c.op, rep := [.record (.quire i)] }
        if readsInput c q.rank then
          let src := match (w.access q.sag c.src 1 (.operand false)).1 with
            | .ok (.near a) => srcOf 1 (a / 2 ^ 20)
            | .ok (.hbm a) => srcOf 4 (hbmStack a)
            | _ => srcOf 2 0
          let w := w.eccRead src q.sag c.src (.operand false) ecc
          match w.fetchVa q.sag c.src c.inBytes (.operand false) with
          | (.bytes l, w) =>
            let es := (splitVals (kindIn c.bcast c.kind c.rawin) c.n l).map (transitOf c.bcast c.kind c.rawin)
            w.collBegin i o (es.map MElem.v) (markIdx [] es MElem.sat)
          | (g, w) =>
            let (_, w) := w.failStatus q.sag g
            let run : CollRun := ⟨o, w.dev.now, w.dev.colTimeout * 1000000, .up 0, [], [], [], []⟩
            (w.modQuire i fun q => { q with roundAt := some w.dev.now, state := .running, run := some run }).collBreak i 0x11 0 true
        else w.collBegin i o [] []
  | _, _ => w

/-- Receive a collective packet: on a port, or from this chip itself (port 12). -/
def W.collRecv (w : W) (p vc ty : Nat) (f : W → Pkt → W × Bool) : W :=
  if p < 12 then w.recvPkt p vc ty f
  else match w.dev.coll.loop.find? fun x => x.1 == vc with
    | none => w
    | some (_, bytes) =>
      if (pktOf bytes).ptype ≠ ty then w
      else
        let (w', done) := f w (pktOf bytes)
        if done then w'.modColl fun c => { c with loop := c.loop.erase (vc, bytes) } else w'

/-- CFORM (R365, R375): one for a qid not yet formed is held. -/
def execCform (p : Fin 13) (vc : Fin 8) : State → Res := actMem fun w =>
  w.collRecv p vc 0x20 fun w k =>
    match w.dev.quireOf k.tsag (pktQid k) with
    | some i => w.collReady i fun w => w.collPacket i k
    | none =>
      if w.dev.coll.heldForms.length < 256 then
        (if w.dev.coll.heldForms.any (fun x => x.2.2 == k.bytes) then w
         else w.modColl fun c => { c with heldForms := c.heldForms ++ [(w.dev.now, vc.val, k.bytes)] }, true)
      else (w.colCnt 7 1, true)

/-- CDATA (R371, R372, R375). -/
def execCdata (p : Fin 13) (vc : Fin 8) : State → Res := actMem fun w =>
  w.collRecv p vc 0x21 fun w k =>
    match w.dev.quireOf k.tsag (pktQid k) with
    | some i => w.collReady i fun w => w.collPacket i k
    | none => (w.colCnt 6 1, true)

/-- Whether a CACK covers a packet sent (R375). -/
def ackCovers (k : Pkt) (u : CollSent) : Bool :=
  let s := pktOf u.bytes
  u.dst == k.src && s.tsag == k.ssag && s.ssag == k.tsag && s.seq == k.seq && pktQid s == pktQid k && pktStep s == pktStep k
    && pktFirst s == pktFirst k

/-- Whether a round is the one an entry runs or will run next, the one before it or the one after it (R375). -/
def Quire.near (q : Quire) (round : Nat) : Bool := decide ((BitVec.ofNat 32 round - q.round + 1).toNat ≤ 2)

/-- CACK (R375): it covers packets sent; one that covers none, for an unknown qid, a FREE entry or another round, is counted. -/
def execCack (p : Fin 13) (vc : Fin 8) : State → Res := act fun w =>
  w.collRecv p vc 0x22 fun w k =>
    let covers := w.dev.coll.quires.any fun x => x.2.unacked.any (ackCovers k)
    let known : Bool := match w.dev.quireOf k.tsag (pktQid k) with | some i => (w.dev.quire i).near k.seq | none => false
    if covers ∨ known then
      (w.modColl fun c => { c with quires := Tab.mapV (fun _ q =>
        { q with unacked := q.unacked.filter fun u => !ackCovers k u }) c.quires }, true)
    else (w.colCnt 6 1, true)

/-- CABORT (R377): one for the running round fails it; one for a round that has not started breaks the quire, and the running round
goes on to its end; one for a completed round is discarded. -/
def execCabort (p : Fin 13) (vc : Fin 8) : State → Res := actMem fun w =>
  w.collRecv p vc 0x23 fun w k =>
    match w.dev.quireOf k.tsag (pktQid k) with
    | none => (w.colCnt 6 1, true)
    | some i =>
      let q := w.dev.quire i
      let past := 2 ^ 31 ≤ (BitVec.ofNat 32 k.seq - q.round).toNat
      if past then (w, true)
      else if q.run.isSome ∧ k.seq = q.round.toNat then (w.collBreak i 0x8C (bits k.arg 31 24) false, true)
      else (w.quireBroken i 0x8C, true)

/-- COLL_RESEND_TIMER (R375): the packet at a place among those not acknowledged. -/
def execCollResendTimer (i : Fin 256) (k : Nat) : State → Res := act fun w =>
  let q := w.dev.quire i
  match q.unacked[k]? with
  | none => w
  | some u =>
    if w.dev.now < u.last + 1000000 then w
    else if u.until_ ≤ w.dev.now then w.modQuire i fun q => { q with unacked := q.unacked.eraseIdx k }
    else
      let w := w.modQuire i fun q => { q with unacked := q.unacked.set k { u with last := w.dev.now } }
      (w.colCnt 4 1).collEmit u.vc (pktOf u.bytes)

/-- COLL_TIMEOUT (R376, R377). -/
def execCollTimeout (i : Fin 256) : State → Res := actMem fun w =>
  match (w.dev.quire i).run with
  | some r => if r.since + r.limit ≤ w.dev.now then w.collBreak i 0x88 0 true else w
  | none => w

/-- CFORM_HOLD_EXPIRY (R375). -/
def execCformHoldExpiry : State → Res := act fun w =>
  let old (x : Nat × Nat × List Byte) : Bool := decide (x.1 + w.dev.colTimeout * 1000000 ≤ w.dev.now)
  let n := (w.dev.coll.heldForms.filter old).length
  (w.modColl fun c => { c with heldForms := c.heldForms.filter fun x => !old x }).colCnt 6 n

end Sys2Proof.Machine
end

