-- ==== Sys2Proof/Machine/FabFail.lean ====
section
/-!
DEFINITION. How remote operations fail, and how a stream is abandoned (R191, R344, R345).
-/
namespace Sys2Proof.Machine

/-- A memory operation of the bundle on a vector unit has ended. -/
def W.memDone (w : W) (x : At) : W := w.modBundle x.cl x.vu fun b => { b with memOut := b.memOut - 1 }

/-- A load or atomic of a thread fails on a poisoned channel at its instruction (R191 step 1). -/
def W.poisonAccess (w : W) (x : At) (addr : Nat) : W :=
  (w.memDone x).faultBundle x.cl x.vu 4 0 x.pc addr x.act

/-- Change the move of a saggar that a request belongs to. -/
def W.modMove (w : W) (s id : Nat) (f : Move → Move) : W :=
  w.modMem s fun p => { p with mv := p.mv.map fun m => if m.id = id then f m else m }

/-- A request of a page move has failed: the move ends with the first status that one gives (R214). -/
def W.moveFailed (w : W) (s id code : Nat) : W :=
  w.modMove s id fun m => { m with out := m.out - 1, bad := some (m.bad.getD code) }

/-- Whether a failed operation is a store, which its bundle reports later (R191 step 1). -/
def RemoteOp.storeAt (o : RemoteOp) : Option At := match o.use with | .store x => some x | _ => none

/-- One of the requests of each instruction: what counts as an operation in a poison entry (R191; log entry 42). -/
def byInstr (ops : List RemoteOp) : List RemoteOp :=
  (ops.foldl (fun acc o => if acc.any fun x => x.instr == o.instr then acc else o :: acc) []).reverse

/-- Count the failures of a stream: at once where no store is among them, else in an entry that the bundles whose stores have failed
owe (R191 steps 1 and 4). -/
def W.streamPoison (w : W) (st : SendStream) (ops : List RemoteOp) (n : Nat) : W :=
  let stores := (ops.filterMap RemoteOp.storeAt).filter fun x => (w.dev.bundle x.cl x.vu).isSome
  if stores = [] then w.poison st.ssag 0 st.vc st.dst 0 n
  else stores.zipIdx.foldl (fun w x =>
    w.poisonOwed x.1.cl x.1.vu st.ssag 0 st.vc st.dst 0 (if x.2 = 0 then n + 1 - stores.length else 1)) w

/-- Mark the bundles whose stores have failed: they report them later (R191 step 1). -/
def W.storesFailed (w : W) (ops : List RemoteOp) : W :=
  (ops.filterMap RemoteOp.storeAt).foldl (fun w x => w.modBundle x.cl x.vu fun b => { b with storePoison := true }) w

/-- Report the failure of a remote operation (R191 step 1). -/
def W.failRemote (w : W) (o : RemoteOp) : W :=
  match o.use with
  | .load x _ _ _ => w.poisonAccess x o.addr.toNat
  | .amo x _ _ => w.poisonAccess x o.addr.toNat
  | .store x => w.memDone x
  | .record => w
  | .move s id _ rd => w.moveFailed s id (if rd then 0x53 else 0x54)

/-- A CLOSE packet of a stream (R345). -/
def Dev.closePkt (d : Dev) (st : SendStream) (abandon : Bool) : Pkt :=
  d.mkPkt 0x06 st.dst 0 st.ssag 0 0 (st.vc + b2n abandon * 256) 0 [] false

/-- A stream's operations are declared failed: reported, the channel poisoned, the stream abandoned (R191, R344, R345); with no
operation and no packet under way there is nothing to report (log entry 33). -/
def W.failStream (w : W) (st : SendStream) : W :=
  let ops := w.dev.fab.ops.filter fun o => o.stream == st.key
  let other := (st.unacked.filter fun p => ops.all fun o => o.seq ≠ some p.seq).length + (st.waiting.filter fun p => ops.all fun o => o.id ≠ p.1).length
  let insts := byInstr ops
  let n := insts.length + other
  let w := (w.modFab fun f => { f with ops := f.ops.filter fun o => o.stream ≠ st.key }).fabCnt 5 1
  let w := if n = 0 then w else w.streamPoison st insts n
  let w := (ops.foldl W.failRemote w).storesFailed ops
  let w := w.modSend st.key fun s => { s with abandoned := true, doomed := false, unacked := [], waiting := [], closing := none, lastAct := w.dev.now }
  if st.opened then w.emit 7 (w.dev.closePkt st true)
  else w.modFab fun f => { f with sends := f.sends.filter fun s => s.key ≠ st.key }

end Sys2Proof.Machine
end

