-- ==== Sys2Proof/Machine/Memory.lean ====
section
/-!
DEFINITION. Invalidations (R210), the start of page moves (R214), and the start of commits of translation sets (R216, R217).
-/
namespace Sys2Proof.Machine

/-- The size of an invalidation, as a power of two (R219); the whole local space for size 3. -/
def invBits : Nat → Nat
  | 0 => 12
  | 1 => 21
  | 2 => 30
  | _ => 48

/-- Remove from the TLBs every entry of a saggar whose range meets an aligned range (R210). -/
def W.invalidate (w : W) (s va k : Nat) : W :=
  w.modMem s fun p =>
    { p with tlb := p.tlb.filter fun t =>
        let b := levelShift t.level
        !rangesMeet (t.page * 2 ^ b % 2 ^ 48) (2 ^ b) (va % 2 ^ 48 / 2 ^ k * 2 ^ k) (2 ^ k) }

/-- A write to MEM.INV (R210). -/
def W.memInv (w : W) (s size : Nat) : W :=
  w.modMem s fun p =>
    if p.inv.isSome then { p with invLost := true } else { p with inv := some ⟨size % 4, p.inva.toNat⟩ }

/-- INV_4K (R210). -/
def execInv4k (ag : Agent) (s : Fin 128) : State → Res := act fun w => w.regAccess ag (.view s false) (.write (.blk 0x38000 (0x80 * s + 0x20)) 0) fun w => w.memInv s 0

/-- INV_2M (R210). -/
def execInv2m (ag : Agent) (s : Fin 128) : State → Res := act fun w => w.regAccess ag (.view s false) (.write (.blk 0x38000 (0x80 * s + 0x20)) 1) fun w => w.memInv s 1

/-- INV_1G (R210). -/
def execInv1g (ag : Agent) (s : Fin 128) : State → Res := act fun w => w.regAccess ag (.view s false) (.write (.blk 0x38000 (0x80 * s + 0x20)) 2) fun w => w.memInv s 2

/-- INV_ALL (R210). -/
def execInvAll (ag : Agent) (s : Fin 128) : State → Res := act fun w => w.regAccess ag (.view s false) (.write (.blk 0x38000 (0x80 * s + 0x20)) 3) fun w => w.memInv s 3

/-- Where the entry that a walk ends at lies in HBM3E, as the tables in memory stand. -/
def leafSlot (m : Mem) : Nat → Nat → Nat → Nat → Option Nat
  | 0, _, _, _ => none
  | n + 1, va, level, table =>
    let pa := table + 8 * (va / 2 ^ levelShift level % 512)
    let e := leVal (m.bytes .hbm pa 8)
    if pteLeaf e then some pa else leafSlot m n va (level + 1) (pteAddr e)

/-- Whether a value is a leaf that a page move may install (R203, R205, R214). -/
def Dev.moveDestOk (d : Dev) (s level e : Nat) : Bool :=
  pteV e && pteLeaf e && pteOk level e && pteTgt e ≠ 3 &&
  (pteTgt e ≠ 0 || inWindow (d.mpage s).cur (pteAddr e) (2 ^ pageBits level)) &&
  (pteTgt e ≠ 1 || d.sectorOwner (pteAddr e) == some s)

/-- A move ends with a status (R214). -/
def W.moveEnd (w : W) (s code : Nat) : W := w.modMem s fun p => { p with mv := none, mvWait := false, mvcode := BitVec.ofNat 8 code }

/-- Steps 1 and 2 of R214 on the source and the leaf that the write took; the hold of step 3 stands from then on. A walk that meets a
sleeping domain waits for it, busy (R218). -/
def W.moveTry (w : W) (s : Nat) : W :=
  let p := w.dev.mpage s
  let va := p.mvFrom.toNat
  if bits va 63 48 ≠ 0 then w.moveEnd s 0x51
  else
    match w.walk s va with
    | (.asleep d, w) => (w.modMem s fun q => { q with mvWait := true }).raiseWake d true
    | (.cause _, w) => w.moveEnd s 0x51
    | (.leaf level e, w) =>
      match leafSlot w.mem 4 va 1 (bits p.cur.root.toNat 47 12 * 4096) with
      | some slot =>
        if va % 2 ^ pageBits level ≠ 0 ∨ pteTgt e = 3 then w.moveEnd s 0x51
        else if !w.dev.moveDestOk s level p.mvTo.toNat then w.moveEnd s 0x52
        else
          let id := w.dev.cmp.nextId
          (w.modCmp fun c => { c with nextId := id + 1 }).modMem s fun q =>
            { q with mv := some ⟨id, va, level, BitVec.ofNat 64 e, p.mvTo, slot, 0, 0, none⟩ }
      | none => w.moveEnd s 0x51

/-- A write to MEM.MOVE (R214): the move takes MEM.MVSRC and MEM.MVPTE as they stand. -/
def W.moveStart (w : W) (s : Nat) : W :=
  let p := w.dev.mpage s
  if p.mv.isSome ∨ p.mvWait then w.modMem s fun p => { p with mvLost := true }
  else (w.modMem s fun p => { p with mvFrom := p.mvsrc, mvTo := p.mvpte }).moveTry s

/-- PAGE_MOVE (R214). -/
def execPageMove (ag : Agent) (s : Fin 128) : State → Res := act fun w =>
  w.regAccess ag (.view s false) (.write (.blk 0x38000 (0x80 * s + 0x38)) 0) fun w => w.moveStart s

def MemSet.saveLen (m : MemSet) : Nat := 0x120000 * (m.hi.toNat + 1 - m.lo.toNat)

def MemSet.windowLen (m : MemSet) : Nat := m.lim.toNat - m.base.toNat

/-- Whether a save area meets a window: an empty window meets nothing (R217). -/
def saveMeetsWindow (a b : MemSet) : Bool :=
  b.windowLen ≠ 0 && rangesMeet a.save.toNat a.saveLen b.base.toNat b.windowLen

/-- Why a commit is refused (R217; a window is compared with the save areas of others too, and a set about to come in force as one in
force, log entry 23). -/
def Dev.memRefused (d : Dev) (s : Nat) : Bool :=
  let p := d.mpage s
  let m := p.staged
  let root := bits m.root.toNat 47 12 * 4096
  let others := ((List.range 128).filter fun x => x ≠ s).flatMap fun x =>
    [(d.mpage x).cur, (d.mpage x).staged] ++ (if (d.mpage x).pend then [(d.mpage x).next] else [])
  (bit m.root.toNat 0 && !inWindow m root 4096) ||
  (m.windowLen ≠ 0 && hbmEnd < m.lim.toNat) || hbmEnd < m.save.toNat + m.saveLen || m.hi < m.lo ||
  saveMeetsWindow m m ||
  (others.any fun o => saveMeetsWindow m o || saveMeetsWindow o m || rangesMeet m.save.toNat m.saveLen o.save.toNat o.saveLen) ||
  ((m.save ≠ p.cur.save || m.lo ≠ p.cur.lo || m.hi ≠ p.cur.hi) && ((d.sag s).saved ≠ [] || (d.sag s).savedSlots ≠ [])) ||
  p.pend

/-- A write to MEM.COMMIT (R217). -/
def W.memCommit (w : W) (s : Nat) : W :=
  if w.dev.memRefused s then w.modMem s fun p => { p with refused := true }
  else w.modMem s fun p => { p with pend := true, next := p.staged }

/-- MEM_COMMIT (R217). -/
def execMemCommit (ag : Agent) (s : Fin 128) : State → Res := act fun w =>
  w.regAccess ag (.view s false) (.write (.blk 0x38000 (0x80 * s + 0xC)) 0) fun w => w.memCommit s

end Sys2Proof.Machine
end

