-- ==== Sys2Proof/Machine/Tensor.lean ====
section
/-!
DEFINITION. Tensor commands (R62–R86, R126): issue with its checks, execution of tmma, tread with the fused epilogue, and
tclr.
-/
namespace Sys2Proof.Machine

/-- A tensor command (R62). -/
structure TCmd where
  op : Nat
  fmt : Nat
  sig16 : Bool
  acc : Bool
  wrap : Bool
  bexo : Bool
  slot : Nat
  raw : Bool
  free : Bool
  k : Nat
  bfmt : Nat
  bsig16 : Bool
  a08 : Nat
  a10 : Nat
  a18 : Nat
  a20 : Nat
  rowStride : Nat
  colStride : Nat
  recA : Nat
  bScale : Nat
  aScale : Nat
  tag : Nat
  deriving DecidableEq, Repr

def tcmdOf (l : List Byte) : TCmd :=
  let w0 := leAt l 0 4
  let w1 := leAt l 4 4
  { op := bits w0 31 24, fmt := bits w0 23 20, sig16 := bit w0 19, acc := bit w0 18, wrap := bit w0 17
    bexo := bit w0 16, slot := bits w0 14 8, raw := bit w0 7, free := bit w0 6, k := bits w1 20 0
    bfmt := bits w1 27 24, bsig16 := bit w1 28, a08 := leAt l 8 8, a10 := leAt l 16 8, a18 := leAt l 24 8
    a20 := leAt l 32 8, rowStride := leAt l 40 4, colStride := leAt l 44 4, recA := leAt l 48 8
    bScale := leAt l 58 2, aScale := leAt l 56 2, tag := leAt l 60 4 }

/-- An epilogue descriptor (R78). -/
structure Epi where
  func : Nat
  i2 : Nat
  i1 : Nat
  hidx : Nat
  hint : Bool
  block : Bool
  sig16 : Bool
  dfmt : Nat
  gate : Bool
  act : Bool
  bias : Bool
  cscale : Bool
  gslot : Nat
  gscale : Nat
  csA : Nat
  biasA : Nat
  gcsA : Nat
  gbiasA : Nat
  deriving DecidableEq, Repr

def epiOf (l : List Byte) : Epi :=
  let w0 := leAt l 0 4
  let w1 := leAt l 4 4
  { func := bits w0 31 24, i2 := bits w0 23 20, i1 := bits w0 19 16, hidx := bits w0 14 11, hint := bit w0 10
    block := bit w0 9, sig16 := bit w0 8, dfmt := bits w0 7 4, gate := bit w0 3, act := bit w0 2, bias := bit w0 1
    cscale := bit w0 0, gslot := bits w1 6 0, gscale := bits w1 15 8, csA := leAt l 8 8, biasA := leAt l 16 8
    gcsA := leAt l 24 8, gbiasA := leAt l 32 8 }

/-- The intermediates that an epilogue names, 0 for none; none where a code is reserved (R52, R78). A second intermediate without a
first is the path's only one (DESIGN CHOICE, log entry 42). -/
def epiInts (e : Epi) : Option (List Fmt) := ([e.i1, e.i2].filter fun c => c ≠ 0).mapM Fmt.ofCode

/-- The kind of tile a tmma produces (R74, R75, R126). -/
def TCmd.kind (c : TCmd) : TileKind :=
  if Fmt.ofCode c.fmt = some .i8 then .int32 else if c.bexo then .bexo else .pair

def Cluster.slot (c : Cluster) (n : Nat) : Slot := Tab.look .free c.slots n

/-- Whether a slot is live, and of which kind, after every operation already queued (R64; DEDUCED, log entry 15). -/
def Cluster.slotThen (c : Cluster) (n : Nat) : Option TileKind :=
  c.tq.foldl (fun k t =>
    let x := tcmdOf t.cmd
    if x.slot ≠ n ∨ t.fail.isSome then k
    else if x.op = 1 then (if x.acc then k else some x.kind)
    else if x.op = 3 ∨ (x.op = 2 ∧ x.free) then none
    else k) (if (c.slot n).live then some (c.slot n).kind else none)

/-- The elements of one signature (R49). -/
def sigSize (sig16 : Bool) : Nat := if sig16 then 16 else 32

/-- The status of a tmma's issue checks (R51, R63) in the order of R513, 0 for none. -/
def tmmaStatus (c : TCmd) (quota : Nat) (slot : Option TileKind) : Nat :=
  match Fmt.ofCode c.fmt, Fmt.ofCode c.bfmt with
  | some fa, some fb =>
    if !fa.isTensor || !fb.isTensor then 0x02
    else if fa ≠ fb then 0x03
    else if fa.isShort ∧ c.sig16 ≠ c.bsig16 then 0x04
    else if fa.isShort ∧ c.k % sigSize c.sig16 ≠ 0 then 0x05
    else if c.a08 % 64 ≠ 0 ∨ c.a18 % 64 ≠ 0 ∨ (fa.isShort ∧ (c.a10 % 64 ≠ 0 ∨ c.a20 % 64 ≠ 0)) then 0x06
    else if c.k = 0 ∨ 1048576 < c.k then 0x09
    else if c.rowStride % 64 ≠ 0 ∨ c.colStride % 64 ≠ 0 ∨ (fa.isShort ∧ (c.aScale % 64 ≠ 0 ∨ c.bScale % 64 ≠ 0)) then
      0x06
    else if quota ≤ c.slot then 0x0A
    else if c.acc ∧ slot.isNone then 0x0B
    else if c.acc ∧ slot ≠ some c.kind then 0x0C
    else 0
  | _, _ => 0x01

/-- The output format of step 3 (R78): the destination itself for a 16-bit one without intermediates. -/
def epiOut (dst : Fmt) (ints : List Fmt) : Fmt :=
  if ints = [] ∧ (dst = .b16 ∨ dst = .bf16) then dst else .b32

/-- Whether a function code is a gate form (R90). -/
def gateCode (func : Nat) : Bool := match FnSel.ofCode func with | some f => f.isGate | none => false

/-- The status of the epilogue checks of R79, but for the address of the descriptor, 0 for none. The spec does not say which kind
of gate slot is wrong: here one whose kind is not that of the slot read out (DEDUCED, log entry 38). -/
def epiStatus (d : Dev) (cl : Cluster) (m : IssueMode) (c : TCmd) (e : Epi) (kind : TileKind) : Nat :=
  match Fmt.ofCode e.dfmt, epiInts e with
  | some dst, some ints =>
    if dst.isShort ∧ (c.a08 % 64 ≠ 0 ∨ c.a10 % 64 ≠ 0) then 0x06
    else if !dst.isEpilogueDst then 0x02
    else if !pathValid ints dst then 0x07
    else if dst.isShort ∧ !e.block ∧ e.gscale = 0xFF then 0x08
    else if e.gate ∧ (cl.slotThen e.gslot ≠ some kind ∨ !e.act) ∨ e.gate ≠ gateCode e.func then 0x0D
    else if e.act then d.funcStatus cl.bank m e.func (epiOut dst ints)
    else 0
  | some dst, none => if dst.isShort ∧ (c.a08 % 64 ≠ 0 ∨ c.a10 % 64 ≠ 0) then 0x06 else 0x01
  | none, _ => 0x01

/-- The completion record of a tensor operation (R80). -/
def Dev.tensorRecBytes (d : Dev) (who : Issuer) (c : TCmd) (status sat flush : Nat) : List Byte :=
  recordBytes status c.op c.slot who.cl sat flush c.tag ((d.cl who.cl).slot c.slot).flags.toNat

/-- Write the completion record of an operation of a tensor queue, which ends it: the records of one queue stay in its order (R80). -/
def W.tensorRecord (w : W) (who : Issuer) (c : TCmd) (status sat flush : Nat) : W :=
  w.writeRec ⟨who.sag, c.recA, w.dev.tensorRecBytes who c status sat flush, some (.tensor who.cl), some who, [who.cl], []⟩

/-- Raise the SFU batches of the tread at the head of the queue (R21, R100): 16 of 64 elements. -/
def W.startTq (w : W) (cl : Nat) : W :=
  match (w.dev.cl cl).tq with
  | t :: _ =>
    let c := tcmdOf t.cmd
    let e := epiOf (t.cmd.drop 64)
    if c.op = 2 ∧ !c.raw ∧ e.act ∧ t.tables.isNone ∧ t.fail.isNone ∧ !w.dev.batchesLeft cl true t.id then
      w.pushSfu cl t.who.vu ⟨.batch true t.id 16, t.who, t.mode, w.dev.tables (w.dev.cl cl).bank (selOf e.func), w.dev.now⟩
    else w
  | [] => w

/-- Queue a checked tensor operation (R64), or one that has failed already and ends in its turn. -/
def W.enqueueTq (w : W) (x : At) (b : Bundle) (act : BitVec 16) (cmd : List Byte) (fail : Option Nat) : W :=
  let (id, w) := w.newId
  let first := (w.dev.cl x.cl).tq = []
  let w := w.modCl x.cl fun c =>
    { c with tq := c.tq ++ [⟨id, issuerOf x b act, cmd, w.dev.modeOf b.sag, none, fail⟩] }
  let w := w.asyncIssued x
  if first then w.startTq x.cl else w

/-- Reject a tensor operation at issue, or queue it (R38, R80). A rejected operation never enters the queue: its record is written
at once, also ahead of the records of operations that are queued (DESIGN CHOICE, log entry 38). -/
def W.tensorChecked (w : W) (x : At) (b : Bundle) (act : BitVec 16) (c : TCmd) (cmd : List Byte) (status : Nat) : W :=
  if status = 0 then w.enqueueTq x b act cmd none
  else w.gated b.sag [(.record, c.recA, 16)] fun w =>
    w.record b.sag c.recA (w.dev.tensorRecBytes (issuerOf x b act) c status 0 0)

/-- Issue of a tread: SLOT_FREE, then the checks of R79 on its descriptor (R513). A tread whose descriptor cannot be read is queued
with its failing status, and ends in its turn (R64, R82; DEDUCED, log entry 14). -/
def W.issueTread (w : W) (x : At) (b : Bundle) (act : BitVec 16) (c : TCmd) (cmd : List Byte) : W :=
  let cl := w.dev.cl x.cl
  match cl.slotThen c.slot with
  | none => w.tensorChecked x b act c cmd 0x0B
  | some kind =>
    if c.raw then w.tensorChecked x b act c cmd 0
    else if c.a18 % 64 ≠ 0 then w.tensorChecked x b act c cmd 0x06
    else w.gated b.sag [(.operand false, c.a18, 64)] fun w =>
      match w.fetchVa b.sag c.a18 64 (.operand false) with
      | (.bytes e, w) =>
        w.tensorChecked x b act c (cmd ++ e) (epiStatus w.dev cl (w.dev.modeOf b.sag) c (epiOf e) kind)
      | (g, w) =>
        let (st, w) := w.failStatus b.sag g
        w.enqueueTq x b act cmd (some st)

/-- Issue of the tensor command at an address (R62, R63, R513): what the command's own op field says. -/
def W.issueTensor (w : W) (x : At) (cmd : DWord) : W :=
  w.instr x fun w b act =>
    w.withCmd x b act cmd.toNat 64 fun w l =>
      let c := tcmdOf l
      if cmd.toNat % 64 ≠ 0 then w.tensorChecked x b act c l 0x06
      else
        match c.op with
        | 1 => w.tensorChecked x b act c l
                 (tmmaStatus c (w.dev.sag b.sag).tq.toNat ((w.dev.cl x.cl).slotThen c.slot))
        | 2 => w.issueTread x b act c l
        | 3 => w.tensorChecked x b act c l 0
        | _ => w.tensorChecked x b act c l 0x02

/-- TMMA (R62–R64): one instruction issues every tensor command; its op field says which (log entry 16). -/
def execTmma (at_ : At) (cmd : DWord) : State → Res := actMem fun w => w.issueTensor at_ cmd

/-- TREAD (R62, R63, R79). -/
def execTread (at_ : At) (cmd : DWord) : State → Res := actMem fun w => w.issueTensor at_ cmd

/-- TCLR (R62, R63). -/
def execTclr (at_ : At) (cmd : DWord) : State → Res := actMem fun w => w.issueTensor at_ cmd

/-- The head of a cluster's tensor queue, while the cluster is ACTIVE. -/
def Dev.tqHead (d : Dev) (cl op : Nat) : Option (TqEntry × TCmd) :=
  match (d.cl cl).tq with
  | t :: _ => if (d.dom cl).cur = .active ∧ (tcmdOf t.cmd).op = op then some (t, tcmdOf t.cmd) else none
  | [] => none

/-- The operation at the head has ended: the next one comes to the head. -/
def W.popTq (w : W) (cl : Nat) : W := (w.modCl cl fun c => { c with tq := c.tq.tail }).startTq cl

/-- The rows of an operand (R50, R62): element ranges, then scale ranges of a short format. -/
def operandRows (f : Fmt) (k elemA stride scaleA sstride sig : Nat) : List (Nat × Nat) :=
  ((List.range 32).map fun r => (elemA + r * stride, f.packedBytes k)) ++
  (if f.isShort then (List.range 32).map fun r => (scaleA + r * sstride, k / sig) else [])

/-- The values of row `r` of an operand that has been read (R49, R50). -/
def operandVals (f : Fmt) (k sig : Nat) (ls : List (List Byte)) (r : Nat) : List Val :=
  let row := ls.getD r []
  let sc := ls.getD (32 + r) []
  (List.range k).map fun i => decodeScaled f (if f.isShort then (sc.getD (i / sig) 0).toNat else 127) (f.unpack row i)

/-- What a tmma does to one element: its new pair, its marks, its first NaN product. -/
structure MacRes where
  s : Word
  e : Word
  sat : Bool
  flush : Bool
  nan : Bool
  wrap : Bool
  firstNaN : Option Nat
  deriving DecidableEq, Repr

/-- The integer of an INT8 element. -/
def valInt : Val → Int
  | .fin n m e => let x : Int := (m * 2 ^ e.toNat : Nat); if n then -x else x
  | _ => 0

/-- One output element of a tmma (R68–R71, R74, R126). -/
def macElem (f : Fmt) (bexo sig16 wrap : Bool) (old : Word × Word) (xs ys : List Val) : MacRes :=
  if f = .i8 then
    let r := sumInt8 wrap ((xs.map valInt).zip (ys.map valInt)) (sext 32 old.1.toNat) false false
    ⟨BitVec.ofNat 32 (wrapI 32 r.1), 0, r.2.1, false, false, r.2.2, none⟩
  else
    let a : ElemAcc := ⟨b32Val old.1.toNat, b32Val old.2.toNat, false, false, false, false, none⟩
    let seg := segLen f sig16 bexo
    let r := sumSegments bexo seg (xs.zip ys) 0 seg (Val.zero false) a
    ⟨BitVec.ofNat 32 (code32 r.s), BitVec.ofNat 32 (code32 r.e), r.sat, r.flush, r.s.isNaN, false, r.firstNaN⟩

/-- The winner among NaN products (R84): the earliest cycle, then the lowest element, then the lowest product. -/
def nanWinner (p : Nat) (rs : List MacRes) : Option (Nat × Nat) :=
  (rs.zip (List.range rs.length)).foldl (fun best x =>
    match x.1.firstNaN with
    | none => best
    | some i =>
      match best with
      | none => some (x.2, i)
      | some b => if i / p < b.2 / p then some (x.2, i) else best) none

/-- A slot whose tmma has failed (R82). -/
def Slot.allNaN (k : TileKind) (flags : BitVec 4) : Slot :=
  { live := true, kind := k, flags := flags ||| 1, pairs := List.replicate 1024 (0x7FC00000, 0), bad := false }

def W.setSlot (w : W) (cl n : Nat) (s : Slot) : W := w.modCl cl fun c => { c with slots := Tab.put c.slots n s }

/-- A tmma fails after issue (R82). -/
def W.tmmaFails (w : W) (cl : Nat) (t : TqEntry) (c : TCmd) (status : Nat) : W :=
  let old := (w.dev.cl cl).slot c.slot
  let w := w.setSlot cl c.slot (.allNaN c.kind (if c.acc then old.flags else 0))
  (w.tensorRecord t.who c status 0 0).popTq cl

/-- A tmma whose operands have been read (R66–R71, R74, R83, R84, R126). -/
def W.tmmaRun (w : W) (cl : Nat) (t : TqEntry) (c : TCmd) (f : Fmt) (la lb : List (List Byte)) : W :=
  let sig := sigSize c.sig16
  let as := (List.range 32).map (operandVals f c.k sig la)
  let bs := (List.range 32).map (operandVals f c.k sig lb)
  let old := (w.dev.cl cl).slot c.slot
  let pair (i : Nat) : Word × Word := if c.acc then old.pairs.getD i (0, 0) else (0, 0)
  let rs := (List.range 1024).map fun i =>
    macElem f c.bexo c.sig16 c.wrap (pair i) (as.getD (i / 32) []) (bs.getD (i % 32) [])
  let mark (p : MacRes → Bool) (b : Nat) : BitVec 4 := if rs.any p then BitVec.ofNat 4 b else 0
  let flags := (if c.acc then old.flags else 0) ||| mark MacRes.nan 1 ||| mark MacRes.sat 2 ||| mark MacRes.flush 4
    ||| mark MacRes.wrap 8
  let w := w.setSlot cl c.slot ⟨true, c.kind, flags, rs.map fun r => (r.s, r.e), false⟩
  let sat := rs.countP MacRes.sat
  let flush := rs.countP MacRes.flush
  let w := w.addCounts t.who.sag sat flush
  let (won, w) : Bool × W := match nanWinner (prodPerCycle f c.bexo) rs with
    | some (el, pr) => w.fillTrap t.who 1 (cl % 128) c.slot el pr (128 ≤ cl)
    | none => (false, w)
  (w.tensorRecord t.who c (if won then 0x10 else 0) sat flush).popTq cl

/-- The operand ranges of a tmma (R70): rows of A, then columns of B, with their scale bytes. -/
def tmmaReads (c : TCmd) : List (Nat × Nat) × List (Nat × Nat) :=
  let f := (Fmt.ofCode c.fmt).getD .b16
  (operandRows f c.k c.a08 c.rowStride c.a10 c.aScale (sigSize c.sig16)
   , operandRows f c.k c.a18 c.colStride c.a20 c.bScale (sigSize c.sig16))

/-- What a tmma accesses: its record and its operands. -/
def tmmaRanges (c : TCmd) : List (Use × Nat × Nat) :=
  (.record, c.recA, 16) :: ((tmmaReads c).1 ++ (tmmaReads c).2).map fun r => (.operand false, r.1, r.2)

/-- TMMA_DONE (R70, R80, R82–R84, R126, R459): the tmma at the head of the queue reads its operands, accumulates, and
writes its record. An uncorrectable error in its slot, which has no virtual address, leaves 0 in MEM.LASTFA (DESIGN CHOICE, log entry 43). -/
def execTmmaDone (cl : Fin 256) (ecc : Ecc) : State → Res := actMem fun w =>
  match w.dev.tqHead cl 1 with
  | none => w
  | some (t, c) =>
    let f := (Fmt.ofCode c.fmt).getD .b16
    let s := t.who.sag
    let (ra, rb) := tmmaReads c
    let w := { w with op := 1, die := some (dieOf cl) }
    w.afterReports [.record (.tensor cl)] fun w =>
    w.gated s (tmmaRanges c) fun w =>
      let w := w.eccRead (srcOf 1 cl) s c.a08 (.operand false) ecc
      if (ecc = .badSlot ∨ ((w.dev.cl cl).slot c.slot).bad) ∧ c.acc then
        let w := w.event 0x0301 (srcOf 1 cl) (some s) [(8, 0), (4, 2), (4, 1)]
        (w.lastFault s 0x0F 0).tmmaFails cl t c 0x11
      else
        match w.fetchMany s (.operand false) (ra ++ rb) [] with
        | (.ok ls, w) => w.tmmaRun cl t c f (ls.take ra.length) (ls.drop ra.length)
        | (.error g, w) => let (st, w) := w.failStatus s g
                           (w.tmmaFails cl t c st).afterFail s g

/-- One element of a read-out tile on its way through the epilogue (R78): its value, what was counted, whether a produced
NaN appeared, and the flags that its SFU raises (R96). -/
structure EpiElem where
  v : Val
  code : Nat
  sat : Bool
  flush : Bool
  made : Bool
  tileSat : Bool
  gateSat : Bool
  flags : Flags
  deriving DecidableEq, Repr

/-- Column scales or biases that were read: 32 binary32 codes, or none. -/
def vecCode (l : Option (List Byte)) (c : Nat) : Option Nat := l.map fun b => leAt b (4 * c) 4

/-- Steps 1–3 of the epilogue on element `i` (R72, R78): the value that enters step 4. -/
def epiElem (env : SfuEnv) (e : Epi) (ofmt : Fmt) (slot gate : Slot) (vs : List (Option (List Byte))) (i : Nat) :
    EpiElem :=
  let p := slot.pairs.getD i (0, 0)
  let r := readOut slot.kind p.1.toNat p.2.toNat
  let col := i % 32
  let x := scaleBias env.relaxed (vecCode (vs.getD 0 none) col) (vecCode (vs.getD 1 none) col) (b32Val r.1)
  match e.act, FnSel.ofCode e.func with
  | true, some sel =>
    let q := gate.pairs.getD i (0, 0)
    let g := if e.gate then readOut gate.kind q.1.toNat q.2.toNat else (0, false)
    let y := scaleBias env.relaxed (vecCode (vs.getD 2 none) col) (vecCode (vs.getD 3 none) col) (b32Val g.1)
    let y : Val × Bool := if e.gate then y else (Val.zero false, false)
    let o := sfuElem env sel ofmt 127 0 (code32 x.1) .b32 x.1 y.1
    ⟨ofmt.decode o.code, o.code, r.2 || g.2 || o.sat, x.2 || y.2 || o.flush, o.made, r.2, g.2, o.flags⟩
  | _, _ => ⟨x.1, code32 x.1, r.2, x.2, false, r.2, false, .none⟩

/-- One row of a tile in its destination format (R79): the element bytes, the scale bytes, elements counted as saturated
and as flushed. -/
structure RowOut where
  bytes : List Byte
  scales : List Byte
  sats : List Bool
  flushes : List Bool
  deriving DecidableEq, Repr

/-- Step 4 on the values of one row (R52–R58, R78): with `direct`, step 3 has delivered the destination's codes. -/
def convertRow (relaxed direct block : Bool) (given sig : Nat) (ints : List Fmt) (dst : Fmt) (xs : List (Val × Nat)) :
    RowOut :=
  if direct then
    ⟨dst.pack (xs.map Prod.snd), [], xs.map fun _ => false, xs.map fun _ => false⟩
  else
    let vs := xs.map fun x => relaxIn relaxed .b32 x.1
    let sc := if dst.isShort then rowScales dst block given sig vs else []
    let cs := (vs.zip (List.range vs.length)).map fun x =>
      convert relaxed .b32 ints dst (sc.getD (x.2 / sig) 127) .rne x.1
    ⟨dst.pack (cs.map Conv.code), sc.map (BitVec.ofNat 8), cs.map Conv.sat, cs.map Conv.flush⟩

/-- A tread fails: the slot stays as it was (R82). -/
def W.treadFails (w : W) (cl : Nat) (t : TqEntry) (c : TCmd) (status : Nat) : W :=
  (w.tensorRecord t.who c status 0 0).popTq cl

/-- A tread whose descriptor could not be read ends when its turn comes (R64, R82); after its report, a descriptor that the failed
link C0–C1 cut off counts on its channel (R191, R462). -/
def W.treadUnread (w : W) (cl : Nat) (t : TqEntry) (c : TCmd) (status : Nat) : W :=
  w.gated t.who.sag [(.record, c.recA, 16)] fun w =>
    let w := w.treadFails cl t c status
    if status = 0x12 then w.afterFail t.who.sag .cut else w

/-- A tread has been read out: free the slot if asked, and write the record (R75, R80). -/
def W.treadEnds (w : W) (cl : Nat) (t : TqEntry) (c : TCmd) (status sat flush : Nat) : W :=
  let w := if c.free then w.setSlot cl c.slot .free else w
  (w.tensorRecord t.who c status sat flush).popTq cl

/-- Add flags to a live slot. -/
def W.flagSlot (w : W) (cl n : Nat) (f : BitVec 4) : W :=
  w.modCl cl fun c => { c with slots := Tab.put c.slots n { c.slot n with flags := (c.slot n).flags ||| f } }

/-- The address ranges that a tread writes (R79): 32 rows of a length, and their scale bytes. -/
def treadRanges (c : TCmd) (len scales : Nat) : List (Nat × Nat) :=
  ((List.range 32).map fun r => (c.a08 + r * c.rowStride, len)) ++
  (if scales = 0 then [] else (List.range 32).map fun r => (c.a10 + r * 64, scales))

/-- The vectors that an epilogue reads (R78), in the order column scales, biases, gate column scales, gate biases. -/
def epiVectors (e : Epi) : List (Option Nat) :=
  [if e.cscale then some e.csA else none, if e.bias then some e.biasA else none,
   if e.cscale && e.gate then some e.gcsA else none, if e.bias && e.gate then some e.gbiasA else none]

/-- What a tread accesses (R72, R78, R79): its record, the vectors of its epilogue, the rows and scale bytes it writes. -/
def treadAccesses (c : TCmd) (e : Epi) : List (Use × Nat × Nat) :=
  let dst := (Fmt.ofCode e.dfmt).getD .b32
  let scales := if dst.isShort then 32 / sigSize e.sig16 else 0
  let writes := if c.raw then treadRanges c 256 0 else treadRanges c (dst.packedBytes 32) scales
  (.record, c.recA, 16) :: ((if c.raw then [] else (epiVectors e).filterMap fun a => a.map fun a => (.operand false, a, 128)) ++
    writes.map fun r => (.operand true, r.1, r.2))

/-- A raw tread (R72, R79). -/
def W.treadRaw (w : W) (cl : Nat) (t : TqEntry) (c : TCmd) (ecc : Ecc) : W :=
  let s := t.who.sag
  let slot := (w.dev.cl cl).slot c.slot
  w.gated s (treadAccesses c (epiOf (t.cmd.drop 64))) fun w =>
    let w : W := match ecc with | .corrected n => w.corrected (srcOf 1 cl) n | _ => w
    let row (r : Nat) : List Byte :=
      ((slot.pairs.drop (32 * r)).take 32).flatMap fun p => leBytes 4 p.1.toNat ++ leBytes 4 p.2.toNat
    match w.storeMany s (.operand true) ((List.range 32).map fun r => (c.a08 + r * c.rowStride, row r)) with
    | (.ok _, w) => w.treadEnds cl t c 0 0 0
    | (.error g, w) => let (st, w) := w.failStatus s g
                       (w.treadFails cl t c st).afterFail s g

/-- Put what was read beside what was asked for. -/
def fillVecs : List (Option Nat) → List (List Byte) → List (Option (List Byte))
  | [], _ => []
  | none :: t, ls => none :: fillVecs t ls
  | some _ :: t, l :: ls => some l :: fillVecs t ls
  | some _ :: t, [] => none :: fillVecs t []

/-- The tables that a tread uses: those of its first granted batch (R103). -/
def TqEntry.tablesIn (t : TqEntry) (d : Dev) (cl : Nat) : Tables :=
  t.tables.getD (d.tables (d.cl cl).bank (selOf (epiOf (t.cmd.drop 64)).func))

/-- The elements of a tread on their way through its epilogue (R72, R78). -/
def W.treadElems (w : W) (cl : Nat) (t : TqEntry) (c : TCmd) (e : Epi) (dst : Fmt) (ints : List Fmt)
    (vs : List (Option (List Byte))) : List EpiElem :=
  let cluster := w.dev.cl cl
  let env := (t.tablesIn w.dev cl).env t.mode
  (List.range 1024).map (epiElem env e (epiOut dst ints) (cluster.slot c.slot) (cluster.slot e.gslot) vs)

/-- The rows of a tread in its destination format (R78, R79). -/
def treadRows (relaxed : Bool) (e : Epi) (dst : Fmt) (ints : List Fmt) (es : List EpiElem) : List RowOut :=
  (List.range 32).map fun r =>
    convertRow relaxed (e.act && epiOut dst ints ≠ .b32) e.block e.gscale (sigSize e.sig16) ints dst
      (((es.drop (32 * r)).take 32).map fun x => (x.v, x.code))

/-- Where a tread writes what (R79): 32 rows, then the scale bytes of a short format. -/
def treadWrites (c : TCmd) (dst : Fmt) (rows : List RowOut) : List (Nat × List Byte) :=
  ((List.range 32).zip rows).map (fun x => (c.a08 + x.1 * c.rowStride, x.2.bytes)) ++
  (if dst.isShort then ((List.range 32).zip rows).map fun x => (c.a10 + x.1 * 64, x.2.scales) else [])

/-- The format of the value that enters step 4 (R58, R78): what step 3 delivers, else binary32. -/
def Epi.source (e : Epi) (dst : Fmt) (ints : List Fmt) : Fmt := if e.act then epiOut dst ints else .b32

/-- A tread with its epilogue whose vectors have been read (R72, R78, R79, R83, R105). The SFU's results of step 3, which
are long (R78), raise their IEEE flags in the issuing thread (R96). -/
def W.treadRun (w : W) (cl : Nat) (t : TqEntry) (c : TCmd) (e : Epi) (dst : Fmt) (ints : List Fmt)
    (vs : List (Option (List Byte))) : W :=
  let s := t.who.sag
  let es := w.treadElems cl t c e dst ints vs
  let rows := treadRows t.mode.relaxed e dst ints es
  match w.storeMany s (.operand true) (treadWrites c dst rows) with
  | (.ok _, w) =>
    let sat := ((es.map EpiElem.sat).zip (rows.flatMap RowOut.sats)).countP fun x => x.1 || x.2
    let flush := ((es.map EpiElem.flush).zip (rows.flatMap RowOut.flushes)).countP fun x => x.1 || x.2
    let w := if es.any EpiElem.tileSat then w.flagSlot cl c.slot 2 else w
    let w := if es.any EpiElem.gateSat then w.flagSlot cl e.gslot 2 else w
    let w := if e.hint then w.raiseHint s e.hidx (hintMax 0 (es.map fun x => relaxIn t.mode.relaxed (e.source dst ints) x.v)) else w
    let w := (w.addCounts s sat flush).raiseIssuer t.who (Flags.all (es.map EpiElem.flags))
    let (won, w) : Bool × W := match (List.range 1024).find? fun i => (es.getD i ⟨.nan false, 0, false, false, false, false, false, .none⟩).made with
      | some i => w.fillTrap t.who 2 (cl % 128) c.slot i 0xFFFFFFFF (128 ≤ cl)
      | none => (false, w)
    w.treadEnds cl t c (if won then 0x10 else 0) sat flush
  | (.error g, w) => let (st, w) := w.failStatus s g
                     (w.treadFails cl t c st).afterFail s g

/-- A tread with its epilogue (R78, R79, R460). -/
def W.treadEpilogue (w : W) (cl : Nat) (t : TqEntry) (c : TCmd) (ecc : Ecc) : W :=
  let s := t.who.sag
  let e := epiOf (t.cmd.drop 64)
  let dst := (Fmt.ofCode e.dfmt).getD .b32
  let ints := (epiInts e).getD []
  let asked := epiVectors e
  let reads := asked.filterMap fun a => a.map fun a => (a, 128)
  let ts := t.tablesIn w.dev cl
  w.gated s (treadAccesses c e) fun w =>
    let w : W := match reads with
      | r :: _ => w.eccRead (srcOf 1 cl) s r.1 (.operand false) ecc
      | [] => match ecc with | .corrected n => w.corrected (srcOf 1 cl) n | _ => w
    if e.act ∧ w.dev.tablesFail cl ts then
      ((w.lastFault s 0x0F 0).reloadCopies cl ts).treadFails cl t c 0x11
    else
      match w.fetchMany s (.operand false) reads [] with
      | (.ok ls, w) => w.treadRun cl t c e dst ints (fillVecs asked ls)
      | (.error g, w) => let (st, w) := w.failStatus s g
                         (w.treadFails cl t c st).afterFail s g

/-- TREAD_DONE (R72, R75, R78–R80, R82, R83, R459): the tread at the head of the queue, once its SFU batches have left
the SFUs. -/
def execTreadDone (cl : Fin 256) (ecc : Ecc) : State → Res := actMem fun w =>
  match w.dev.tqHead cl 2 with
  | none => w
  | some (t, c) =>
    let s := t.who.sag
    let e := epiOf (t.cmd.drop 64)
    let w := { w with op := 2, die := some (dieOf cl) }
    w.afterReports [.record (.tensor cl)] fun w =>
    match t.fail with
    | some st => w.treadUnread cl t c st
    | none =>
    if w.dev.batchesLeft cl true t.id then w
    else
      let gateBad := !c.raw && e.gate && ((w.dev.cl cl).slot e.gslot).bad
      if ecc = .badSlot ∨ ((w.dev.cl cl).slot c.slot).bad ∨ gateBad then
        w.gated s [(.record, c.recA, 16)] fun w =>
          let w := if ecc = .badSlot then w.modCl cl fun x => { x with slots := Tab.put x.slots c.slot { x.slot c.slot with bad := true } } else w
          let w := w.event 0x0301 (srcOf 1 cl) (some s) [(8, 0), (4, 2), (4, 2)]
          (w.lastFault s 0x0F 0).treadFails cl t c 0x11
      else
        if c.raw then w.treadRaw cl t c ecc else w.treadEpilogue cl t c ecc

/-- TCLR_DONE (R64, R75, R459): the tclr at the head frees its slot. -/
def execTclrDone (cl : Fin 256) : State → Res := actMem fun w =>
  match w.dev.tqHead cl 3 with
  | none => w
  | some (t, c) =>
    let w := { w with op := 3, die := some (dieOf cl) }
    w.gated t.who.sag [(.record, c.recA, 16)] fun w =>
      ((w.modCl cl fun x => { x with slots := Tab.del x.slots c.slot }).tensorRecord t.who c 0 0 0).popTq cl

end Sys2Proof.Machine
end

