-- ==== Sys2Proof/Machine/SfuCmds.lean ====
section
/-!
DEFINITION. The special-function units (R87–R105, R123): sfx, grants, completion, the switch to the shadow bank.
-/
namespace Sys2Proof.Machine

/-- An sfx instruction word (R87). -/
structure SfxWord where
  opcode : Nat
  func : Nat
  ofmt : Nat
  ifmt : Nat
  rm : Nat
  scale : Nat
  dst : Nat
  src : Nat
  gsrc : Nat
  hint : Bool
  hidx : Nat
  zero : Nat
  deriving DecidableEq, Repr

def sfxOf (x : Nat) : SfxWord :=
  { opcode := bits x 63 56, func := bits x 55 48, ofmt := bits x 47 44, ifmt := bits x 43 40, rm := bits x 39 38
    scale := bits x 37 30, dst := bits x 29 24, src := bits x 23 18, gsrc := bits x 17 12, hint := bit x 11
    hidx := bits x 10 7, zero := bits x 6 0 }

/-- The issue checks of R89 on an sfx in the order of R513: a status, or 0. -/
def sfxStatus (d : Dev) (k : Bank) (m : IssueMode) (w : SfxWord) : Nat :=
  match Fmt.ofCode w.ifmt, Fmt.ofCode w.ofmt with
  | some i, some o =>
    if !i.isLong || !(o.isLong || o.isShort) then 0x02
    else if o.isShort ∧ w.scale = 0xFF then 0x08
    else d.funcStatus k m w.func o
  | _, _ => 0x01

/-- Whether an sfx word is a defined instruction (R87, R171). -/
def SfxWord.ok (w : SfxWord) : Bool := w.opcode == 0x3A && w.zero == 0

/-- SFX (R87–R89, R100): checked, then a request that holds its operands as they stand at issue. The issue is a release, which reports
failed stores (R184, R191 step 1). -/
def execSfx (at_ : At) (word : DWord) : State → Res := act fun w =>
  let i := sfxOf word.toNat
  w.instrR at_ [i.dst, i.src, i.gsrc] fun w b act =>
    let m := w.dev.modeOf b.sag
    let bank := (w.dev.cl at_.cl).bank
    let ts := w.dev.tables bank (selOf i.func)
    if !i.ok then w.faultAt at_ act 1 0 0
    else if b.storePoison then w.reportStores at_ act
    else
      let st := sfxStatus w.dev bank m i
      if st ≠ 0 then w.faultAt at_ act 2 st 0
      else
        let f := (Fmt.ofCode i.ifmt).getD .b32
        let get (r : Nat) : List Nat := (List.range 64).map fun e => narrow f (b.elem r e)
        let req : SfuReq := ⟨.sfx word act (get i.src) (get i.gsrc), issuerOf at_ b act, m, ts, w.dev.now⟩
        (w.pushSfu at_.cl at_.vu req).asyncIssued at_

/-- One of a cluster's two SFUs. -/
def Cluster.sfu (c : Cluster) (u : Nat) : Sfu := if u = 0 then c.sfu0 else c.sfu1

def Cluster.setSfu (c : Cluster) (u : Nat) (x : Sfu) : Cluster := if u = 0 then { c with sfu0 := x } else { c with sfu1 := x }

/-- Whether a vector unit's front request may be granted: any, but while a switch waits only a queue that holds batches
of work that the switch waits for (R76, R104, R154). -/
def Dev.grantable (d : Dev) (cl v : Nat) : Bool :=
  let q := (d.vu cl v).sfuQ
  q ≠ [] && ((d.cl cl).switching.isNone || q.any fun r => match r.job with | .batch _ _ _ => true | _ => false)

/-- The oldest of the front requests of some vector units, the lower unit first (R100). -/
def Dev.oldest (d : Dev) (cl : Nat) (vs : List Nat) : Option Nat :=
  vs.foldl (fun best v =>
    match best with
    | none => some v
    | some b =>
      match (d.vu cl b).sfuQ, (d.vu cl v).sfuQ with
      | x :: _, y :: _ => if y.at_ < x.at_ then some v else some b
      | _, _ => some b) none

/-- The vector unit that an SFU grants, and whether by the lost-grant override (R100). -/
def Dev.grantee (d : Dev) (cl u : Nat) : Option (Nat × Bool) :=
  let waiting := (List.range 4).filter (d.grantable cl)
  match d.oldest cl (waiting.filter fun v => 8 ≤ (d.vu cl v).lost) with
  | some v => some (v, true)
  | none => (((List.range 4).map fun k => (((d.cl cl).sfu u).last + 1 + k) % 4).find? waiting.contains).map fun v => (v, false)

/-- The tables of a grant (R103): those that the cluster's bank binds now, or those of the issue check where it no longer binds
the function (DEDUCED, log entry 38); an epilogue keeps the tables of its first batch. -/
def Dev.grantTables (d : Dev) (cl : Nat) (r : SfuReq) : Tables :=
  let bank := (d.cl cl).bank
  let bound (func : Nat) : Tables := if (d.cl cl).owner = some r.who.sag ∧ d.funcBound bank (selOf func) then d.tables bank (selOf func) else r.tables
  match r.job with
  | .sfx w _ _ _ => bound (sfxOf w.toNat).func
  | .batch true id _ => match (d.cl cl).tq.find? fun t => t.id == id with
    | some t => t.tables.getD (bound (epiOf (t.cmd.drop 64)).func)
    | none => r.tables
  | .batch false _ _ => r.tables

/-- Whether an SFU may grant now (R100): it is free, and SFU 1 only while SFU 0 is not, which grants first. -/
def Dev.mayGrant (d : Dev) (cl u : Nat) : Bool :=
  ((d.cl cl).sfu u).job.isNone && (u = 0 || (d.cl cl).sfu0.job.isSome) && decide ((d.dom cl).cur = .active)

/-- A request queue after a grant of its front: one batch fewer. -/
def afterGrant : List SfuReq → List SfuReq
  | r :: t => match r.job with
    | .batch tq id n => if n ≤ 1 then t else { r with job := .batch tq id (n - 1) } :: t
    | _ => t
  | [] => []

/-- The lost-grant counts of a grant (R100): a request that a waiting switch holds back loses none (DESIGN CHOICE, log entry 43). -/
def W.countLost (w : W) (cl v : Nat) : W :=
  (List.range 4).foldl (fun w k =>
    if k = v then w.modVu cl k fun x => { x with lost := 0 }
    else if w.dev.grantable cl k then
      let n := (w.dev.vu cl k).lost + 1
      (w.modVu cl k fun x => { x with lost := n }).modCl cl fun c =>
        { c with maxwait := BitVec.ofNat 4 (min 15 (max c.maxwait.toNat n)) }
    else w) w

/-- SFU_GRANT (R100, R103, R106). -/
def execSfuGrant (cl : Fin 256) (u : Fin 2) : State → Res := act fun w =>
  let d := w.dev
  if !d.mayGrant cl u then w
  else
    match d.grantee cl u with
    | none => w
    | some (v, override) =>
      match (d.vu cl v).sfuQ with
      | [] => w
      | r :: _ =>
        let ts := d.grantTables cl r
        let w := w.countLost cl v
        let w := w.modVu cl v fun x => { x with sfuQ := afterGrant x.sfuQ }
        w.modCl cl fun c =>
          let c := c.setSfu u ⟨some (v, r, ts), v⟩
          let tq := match r.job with
            | .batch true id _ => c.tq.map fun t => if t.id = id then { t with tables := some ts } else t
            | _ => c.tq
          { c with tq, grants := satBv c.grants 1, ovr := if override then satBv c.ovr 1 else c.ovr }

/-- The results of an sfx (R88, R91–R99): element, and what it delivers, for each element of an active lane. -/
def sfxResults (env : SfuEnv) (i : SfxWord) (act : BitVec 16) (x g : List Nat) : List (Nat × SfuElem) :=
  let f := (Fmt.ofCode i.ifmt).getD .b32
  let o := (Fmt.ofCode i.ofmt).getD .b32
  (activeElems act).map fun e =>
    let xv := f.decode (x.getD e 0)
    (e, sfuElem env (selOf i.func) o i.scale i.rm (code32 xv) f xv (f.decode (g.getD e 0)))

/-- Write the results of an sfx to its bundle (R88, R96). -/
def sfxWrite (i : SfxWord) (rs : List (Nat × SfuElem)) (b : Bundle) : Bundle :=
  rs.foldl (fun b r => (b.setElem i.dst r.1 (BitVec.ofNat 32 r.2.code)).raise (r.1 / 4) r.2.flags) b

/-- The end of an sfx (R58, R96, R102, R105). -/
def W.sfxEnd (w : W) (cl : Nat) (req : SfuReq) (ts : Tables) (word : DWord) (act : BitVec 16) (x g : List Nat) : W :=
  let i := sfxOf word.toNat
  let s := req.who.sag
  let w := w.asyncDone req.who
  if w.dev.tablesFail cl ts then
    (w.faultBundle req.who.cl req.who.vu 3 0x0F req.who.pc 0 act).reloadCopies cl ts
  else
    let f := (Fmt.ofCode i.ifmt).getD .b32
    let rs := sfxResults (ts.env req.mode) i act x g
    let w := w.modIssuer req.who (sfxWrite i rs)
    let w := w.addCounts s (rs.countP fun r => r.2.sat) (rs.countP fun r => r.2.flush)
    let w := if i.hint then
        w.raiseHint s i.hidx (hintMax 0 ((activeElems act).map fun e => relaxIn req.mode.relaxed f (f.decode (x.getD e 0))))
      else w
    match rs.find? fun r => r.2.made with
    | some r => (w.fillTrap req.who 0x10 (cl % 128) 0 r.1 i.func (128 ≤ cl)).2
    | none => w

/-- SFX_DONE (R102): the request in an SFU ends; a batch only frees the SFU. -/
def execSfxDone (cl : Fin 256) (u : Fin 2) : State → Res := act fun w =>
  match ((w.dev.cl cl).sfu u).job with
  | none => w
  | some (_, req, ts) =>
    let w := w.modCl cl fun c => c.setSfu u { c.sfu u with job := none }
    match req.job with
    | .sfx word act x g => w.sfxEnd cl req ts word act x g
    | .batch _ _ _ => w

/-- SFU_BANK_SWITCH (R123): the cluster's SFUs use the committed set from the next grant on. -/
def execSfuBankSwitch (cl : Fin 256) : State → Res := act fun w =>
  let c := w.dev.cl cl
  match c.bankPend, c.owner with
  | true, some s => w.modCl cl fun c => { c with bank := (w.dev.cpage s).inForce, bankPend := false }
  | _, _ => w

end Sys2Proof.Machine
end

