-- ==== Sys2Proof/Machine/Row.lean ====
section
/-!
DEFINITION. Row operations (R129–R156): issue with its checks, acquiring the row engines of a span group, and completion.
-/
namespace Sys2Proof.Machine

/-- A row command (R129). -/
structure RCmd where
  op : Nat
  ifmt : Nat
  ofmt : Nat
  span : Nat
  nanmax : Bool
  sig16 : Bool
  block : Bool
  hint : Bool
  hidx : Nat
  gain : Bool
  bias : Bool
  n : Nat
  k : Nat
  rows : Nat
  gscale : Nat
  eps : Nat
  src : Nat
  dst : Nat
  par : Nat
  srcStride : Nat
  dstStride : Nat
  recA : Nat
  tag : Nat
  deriving DecidableEq, Repr

def rcmdOf (l : List Byte) : RCmd :=
  let w0 := leAt l 0 4
  let w1 := leAt l 4 4
  let w2 := leAt l 8 4
  { op := bits w0 31 24, ifmt := bits w0 23 20, ofmt := bits w0 19 16, span := bits w0 15 13, nanmax := bit w0 12
    sig16 := bit w0 11, block := bit w0 10, hint := bit w0 9, hidx := bits w0 8 5, gain := bit w0 4, bias := bit w0 3
    n := bits w1 20 0, k := bits w1 28 24, rows := bits w2 15 0, gscale := bits w2 23 16, eps := leAt l 12 4
    src := leAt l 16 8, dst := leAt l 24 8, par := leAt l 32 8, srcStride := leAt l 40 4, dstStride := leAt l 44 4
    recA := leAt l 48 8, tag := leAt l 56 4 }

/-- A parameter block (R129). -/
structure RPar where
  gain : Nat
  bias : Nat
  stats : Nat
  dscale : Nat
  dsStride : Nat
  deriving DecidableEq, Repr

def rparOf (l : List Byte) : RPar := ⟨leAt l 0 8, leAt l 8 8, leAt l 16 8, leAt l 24 8, leAt l 32 4⟩

/-- Which operations write elements, write a partial, use gains, biases and statistics (R130). -/
def RCmd.elements (c : RCmd) : Bool := c.op == 0x20 || c.op == 0x22 || c.op == 0x23 || c.op == 0x25
def RCmd.partials (c : RCmd) : Bool := c.op == 0x21 || c.op == 0x24
def RCmd.useGain (c : RCmd) : Bool := c.gain && (c.op == 0x23 || c.op == 0x25)
def RCmd.useBias (c : RCmd) : Bool := c.bias && c.op == 0x25
def RCmd.useStats (c : RCmd) : Bool := c.op == 0x22 || c.op == 0x25
def RCmd.short (c : RCmd) : Bool := c.elements && (match Fmt.ofCode c.ofmt with | some f => f.isShort | none => false)
def RCmd.usePar (c : RCmd) : Bool := c.useGain || c.useBias || c.useStats || c.short

/-- The span group of a row operation and its lead (R132). -/
def spanLead (cl span : Nat) : Nat := cl / 2 ^ span * 2 ^ span
def spanGroup (cl span : Nat) : List Nat := rangeFrom (spanLead cl span) (2 ^ span)

/-- A range with its rows: start, rows, stride, bytes of one row (after R131). -/
structure RRange where
  a : Nat
  rows : Nat
  stride : Nat
  len : Nat
  deriving DecidableEq, Repr

def RRange.bytes (r : RRange) : Nat := (r.rows - 1) * r.stride + r.len
def RRange.meets (x y : RRange) : Bool := rangesMeet x.a x.bytes y.a y.bytes

/-- Whether two ranges are identical (R131): here also row by row, where they have several rows (DESIGN CHOICE, log entry 42). -/
def RRange.same (x y : RRange) : Bool := x.a == y.a && x.bytes == y.bytes && (x.rows ≤ 1 || x.stride == y.stride) && x.len == y.len

def RCmd.srcRange (c : RCmd) : RRange :=
  ⟨c.src, c.rows, c.srcStride, match Fmt.ofCode c.ifmt with | some f => f.packedBytes c.n | none => 0⟩

def RCmd.dstRange (c : RCmd) : RRange :=
  if c.partials then ⟨c.dst, c.rows, 16, 16⟩
  else if c.op = 0x26 then ⟨c.dst, c.rows, c.dstStride, 8 * c.k⟩
  else ⟨c.dst, c.rows, c.dstStride, match Fmt.ofCode c.ofmt with | some f => f.packedBytes c.n | none => 0⟩

/-- Every range an operation writes, and every range of statistics, gains and biases it reads. -/
def RCmd.outRanges (c : RCmd) (p : RPar) : List RRange :=
  c.dstRange :: (if c.short then [⟨p.dscale, c.rows, p.dsStride, c.n / sigSize c.sig16⟩] else [])

def RCmd.parRanges (c : RCmd) (p : RPar) : List RRange :=
  (if c.useStats then [⟨p.stats, c.rows, 16, 16⟩] else []) ++ (if c.useGain then [⟨p.gain, 1, 0, 4 * c.n⟩] else []) ++
  (if c.useBias then [⟨p.bias, 1, 0, 4 * c.n⟩] else [])

/-- ROW_OVERLAP (R131). -/
def RCmd.overlaps (c : RCmd) (p : RPar) : Bool :=
  (c.dstRange.meets c.srcRange && !c.dstRange.same c.srcRange) ||
  (1 < c.dstRange.rows && c.dstRange.stride < c.dstRange.len) ||
  (c.outRanges p).any fun r => (c.parRanges p).any r.meets

/-- The addresses and strides that an operation names (R131): those of its command, its rows, its record, and of the parameter
block the words that it uses. -/
def RCmd.named (c : RCmd) (a : Nat) (p : RPar) : List Nat :=
  [a, c.src, c.dst, c.srcStride, c.recA] ++ (if c.partials then [] else [c.dstStride]) ++ (if c.usePar then [c.par] else []) ++
  (if c.useGain then [p.gain] else []) ++ (if c.useBias then [p.bias] else []) ++ (if c.useStats then [p.stats] else []) ++
  (if c.short then [p.dscale, p.dsStride] else [])

/-- ROW_SPAN (R131). -/
def Dev.spanOk (d : Dev) (s cl : Nat) (c : RCmd) : Bool :=
  c.span ≤ 4 && (spanGroup cl c.span).all fun n => (d.cl n).online && (d.cl n).owner == some s

/-- The issue checks of R131 in their order: a status, or 0. -/
def rowStatus (d : Dev) (s cl a : Nat) (c : RCmd) (p : RPar) : Nat :=
  if !(0x20 ≤ c.op ∧ c.op ≤ 0x26) then 0x02
  else
    match Fmt.ofCode c.ifmt, (if c.elements then Fmt.ofCode c.ofmt else some .b32) with
    | some fi, some fo =>
      let e := b32Val c.eps
      if !fi.isLong || fo = .i8 || fo = .i32 then 0x02
      else if c.short ∧ c.n % sigSize c.sig16 ≠ 0 then 0x05
      else if (c.named a p).any (fun x => x % 64 ≠ 0) then 0x06
      else if c.short ∧ !c.block ∧ c.gscale = 0xFF then 0x08
      else if c.n = 0 ∨ 1048576 < c.n ∨ c.rows = 0 ∨ (c.op = 0x26 ∧ (c.k = 0 ∨ 16 < c.k)) then 0x40
      else if !d.spanOk s cl c then 0x41
      else if (c.op = 0x23 ∨ c.op = 0x25) ∧ (!e.isFin ∨ (e.sign ∧ !e.isZero)) then 0x42
      else if c.overlaps p then 0x43
      else 0
    | _, _ => 0x01

/-- The bytes of a row operation's completion record (R80, R151). -/
def rowRecBytes (who : Issuer) (c : RCmd) (status sat flush : Nat) : List Byte :=
  recordBytes status c.op 0 (spanLead who.cl c.span) sat flush c.tag 0

/-- Write the completion record of a row operation rejected at issue (R80, R151). -/
def W.rowRecord (w : W) (who : Issuer) (c : RCmd) (status sat flush : Nat) : W :=
  w.record who.sag c.recA (rowRecBytes who c status sat flush)

/-- The order that the records of a bundle's row operations keep (R133). -/
def Issuer.rows (i : Issuer) : RecQueue := .rows i.sag i.launch i.bix

/-- Reject a row operation at issue, or let it wait for its engines (R38, R133). The command is kept with its parameter
block. -/
def W.rowChecked (w : W) (x : At) (b : Bundle) (act : BitVec 16) (c : RCmd) (l : List Byte) (status : Nat) : W :=
  if status ≠ 0 then w.gated b.sag [(.record, c.recA, 16)] fun w => w.rowRecord (issuerOf x b act) c status 0 0
  else
    let (id, w) := w.newId
    let op : RowOp := ⟨id, issuerOf x b act, l, w.dev.modeOf b.sag, false⟩
    (w.modCmp fun d => { d with rowOps := d.rowOps ++ [op] }).asyncIssued x

/-- Issue of the row command at an address (R129–R131, R513). A parameter block that cannot be read ends the operation
with MEM_FAULT unless a check decides first (DEDUCED, log entry 14). -/
def W.issueRow (w : W) (x : At) (a : DWord) : W :=
  w.instr x fun w b act =>
    w.withCmd x b act a.toNat 64 fun w l =>
      let c := rcmdOf l
      let known := 0x20 ≤ c.op ∧ c.op ≤ 0x26
      if known ∧ c.usePar ∧ c.par % 64 = 0 then
        w.gated b.sag [(.operand false, c.par, 64), (.record, c.recA, 16)] fun w =>
          match w.fetchVa b.sag c.par 64 (.operand false) with
          | (.bytes p, w) => w.rowChecked x b act c (l ++ p) (rowStatus w.dev b.sag x.cl a.toNat c (rparOf p))
          | (g, w) =>
            let zero : RPar := ⟨0, 0, 0, 0, 64⟩
            let st := rowStatus w.dev b.sag x.cl a.toNat c zero
            if st ≠ 0 ∧ st ≠ 0x43 then w.rowChecked x b act c l st
            else
              let (st, w) := w.failStatus b.sag g
              (w.rowRecord (issuerOf x b act) c st 0 0).afterFail b.sag g
      else w.rowChecked x b act c l (rowStatus w.dev b.sag x.cl a.toNat c ⟨0, 0, 0, 0, 64⟩)

/-- SMAX (R131, R136): one instruction issues every row command; its op field says which (log entry 16). -/
def execSmax (at_ : At) (cmd : DWord) : State → Res := actMem fun w => w.issueRow at_ cmd

/-- SMAXP (R131, R139). -/
def execSmaxp (at_ : At) (cmd : DWord) : State → Res := actMem fun w => w.issueRow at_ cmd

/-- SMAXF (R131, R139). -/
def execSmaxf (at_ : At) (cmd : DWord) : State → Res := actMem fun w => w.issueRow at_ cmd

/-- RMSN (R131, R141). -/
def execRmsn (at_ : At) (cmd : DWord) : State → Res := actMem fun w => w.issueRow at_ cmd

/-- MOM (R131, R144). -/
def execMom (at_ : At) (cmd : DWord) : State → Res := actMem fun w => w.issueRow at_ cmd

/-- MNORM (R131, R147). -/
def execMnorm (at_ : At) (cmd : DWord) : State → Res := actMem fun w => w.issueRow at_ cmd

/-- TOPK (R131, R148). -/
def execTopk (at_ : At) (cmd : DWord) : State → Res := actMem fun w => w.issueRow at_ cmd

/-- Whether an operation is the oldest unfinished one of its bundle (R133). -/
def Dev.rowFirst (d : Dev) (o : RowOp) : Bool :=
  match d.cmp.rowOps.find? fun x => x.who.sag == o.who.sag && x.who.launch == o.who.launch && x.who.bix == o.who.bix with
  | some x => x.id == o.id
  | none => false

/-- Whether an operation could acquire its engines now: all free, on clusters that its saggar still owns and no switch
holds. An operation of a saggar that is being killed, whose bundle a switch had saved, completes before the kill does, on whatever
saggar's clusters its span lies now (R166, log entry 40). -/
def Dev.rowReady (d : Dev) (o : RowOp) : Bool :=
  !o.started && d.rowFirst o && !d.recWaits (some o.who.rows) && (spanGroup o.who.cl (rcmdOf o.cmd).span).all fun n =>
    (d.cl n).engine.isNone && ((d.cl n).owner == some o.who.sag || (d.sag o.who.sag).st == .killing) && (d.cl n).switching.isNone

/-- The order of preference of R133; a bundle's number in its cluster is that of its vector unit, as in a record's thread field (R84, R171;
DEDUCED, log entry 43). -/
def rowBefore (x y : RowOp) : Bool :=
  let l (o : RowOp) : Nat := spanLead o.who.cl (rcmdOf o.cmd).span
  l x < l y || (l x == l y && (x.who.cl < y.who.cl || (x.who.cl == y.who.cl && x.who.vu < y.who.vu)))

/-- SFU batches of a row operation at the cluster of part `j` (R132, R136, R141, R147): 64 exponentials a batch for the
soft maxima, those of a part above 4,096 elements once more for pass 3; one batch a row at the lead for rsqrt. -/
def rowBatches (c : RCmd) (j : Nat) : Nat :=
  let p := partLen c.n c.span
  let mine := min p (c.n - j * p)
  if c.op = 0x20 ∨ c.op = 0x21 ∨ c.op = 0x22 then
    c.rows * cdiv mine 64 * (if 4096 < mine ∧ c.op ≠ 0x21 then 2 else 1)
  else if (c.op = 0x23 ∨ c.op = 0x25) ∧ j = 0 then c.rows
  else 0

/-- Start a row operation: engines held, SFU work raised. -/
def W.rowStart (w : W) (o : RowOp) : W :=
  let c := rcmdOf o.cmd
  let lead := spanLead o.who.cl c.span
  let w := w.modCmp fun d => { d with rowOps := d.rowOps.map fun x => if x.id = o.id then { x with started := true } else x }
  (spanGroup o.who.cl c.span).foldl (fun w n =>
    let w := (w.touch n).modCl n fun x => { x with engine := some o.id, engLead := n = lead }
    let left := rowBatches c (n - lead)
    if left = 0 then w
    else w.pushSfu n o.who.vu ⟨.batch false o.id left, o.who, o.mode, .none, w.dev.now⟩) w

/-- The sleeping clusters of an operation's span group. -/
def Dev.rowAsleep (d : Dev) (o : RowOp) : List Nat := (spanGroup o.who.cl (rcmdOf o.cmd).span).filter fun n => !d.admits n

/-- The preferred of some operations (R133). -/
def rowBest (l : List RowOp) : Option RowOp :=
  l.foldl (fun b o =>
    match b with
    | none => some o
    | some x => if rowBefore o x then some o else b) none

/-- ROW_ENGINE_ACQUIRE (R133): of the operations that could start on clusters that are awake, the preferred one acquires every engine
of its span group. The sleeping clusters of the others are woken (R28). -/
def execRowEngineAcquire : State → Res := act fun w =>
  let ready := w.dev.cmp.rowOps.filter w.dev.rowReady
  let best := rowBest (ready.filter fun o => w.dev.rowAsleep o == [])
  let w := (ready.flatMap w.dev.rowAsleep).foldl (fun w n => w.raiseWake n true) w
  match best with
  | none => w
  | some o => w.rowStart o

/-- What one row delivers: the bytes of its destination and of its scales, the elements counted, the NaN it produced
(element, or 0xFFFF_FFFF for a per-row value), whether it is degenerate, NaN elements excluded, the flags its SFU results raise. -/
structure RowDone where
  bytes : List Byte
  scales : List Byte
  sat : Nat
  flush : Nat
  made : Option Nat
  degenerate : Bool
  excluded : Nat
  flags : Flags
  deriving DecidableEq, Repr

/-- The NaN that a row produced (R152). -/
def rowMade (r : RowRes) : Option Nat :=
  if r.madeRow then some 0xFFFFFFFF
  else ((r.elems.zip (List.range r.elems.length)).find? fun x => x.1.made).map Prod.snd

/-- The flags that the SFU's results for a row raise (R96); its output conversions raise none (R515). -/
def rowFlags (r : RowRes) : Flags := r.flags.or (Flags.all (r.elems.map RowElem.flags))

/-- The output of a row of elements (R150, R151). -/
def rowElements (rx : Bool) (c : RCmd) (r : RowRes) : RowDone :=
  let f := (Fmt.ofCode c.ofmt).getD .b32
  let vs := r.elems.map RowElem.v
  let sc := if f.isShort then rowScales f c.block c.gscale (sigSize c.sig16) vs else []
  let cs := (r.elems.zip (List.range vs.length)).map fun x =>
    (x.1, convert rx .i32 [] f (sc.getD (x.2 / sigSize c.sig16) 127) .rne x.1.v)
  { bytes := f.pack (cs.map fun x => x.2.code), scales := sc.map (BitVec.ofNat 8)
    sat := cs.countP fun x => x.1.sat || x.2.sat, flush := cs.countP fun x => x.1.flush || x.2.flush
    made := rowMade r, degenerate := r.degenerate, excluded := 0, flags := rowFlags r }

/-- The output of a row that is a partial (R139, R144). -/
def rowPartial (words : List Nat) (r : RowRes) : RowDone :=
  { bytes := words.flatMap (leBytes 4), scales := [], sat := r.elems.countP RowElem.sat
    flush := r.elems.countP RowElem.flush, made := rowMade r, degenerate := r.degenerate, excluded := 0, flags := rowFlags r }

/-- One row of an operation (R136–R150): its elements, its statistics, gains and biases. -/
def rowRun (rx : Bool) (c : RCmd) (raw : List Val) (st : List Byte) (gs bs : List Val) :
    RowDone × List Val :=
  let fi := (Fmt.ofCode c.ifmt).getD .b32
  let fo := (Fmt.ofCode c.ofmt).getD .b32
  let xs := raw.map (relaxIn rx fi)
  let eps := relaxIn rx .b32 (b32Val c.eps)
  let word (i : Nat) : Nat := leAt st (4 * i) 4
  let elems (r : RowRes) : RowDone × List Val := (rowElements rx c r, r.elems.map RowElem.v)
  match c.op with
  | 0x20 => elems (rowSmax rx (fo = .b32) c.span xs)
  | 0x21 => let r := rowSmaxp rx c.span xs
            (rowPartial [r.1.1, r.1.2.1, r.1.2.2, 0] r.2, xs)
  | 0x22 => elems (rowSmaxf rx (fo = .b32) (word 0) (word 1) (word 2) xs)
  | 0x23 => elems (rowRmsn rx c.span eps xs gs)
  | 0x24 => let r := rowMom rx c.span xs
            (rowPartial [c.n, 0, r.1.1, r.1.2] r.2, xs)
  | 0x25 => elems (rowMnorm rx eps (leAt st 0 8) (word 2) (word 3) xs gs bs)
  | _ => let r := rowTopk c.nanmax c.k raw
         (⟨r.1.flatMap fun e => leBytes 4 e.1 ++ leBytes 4 e.2, [], 0, r.2, none, false, r.2, .none⟩, raw)

/-- The ranges that a row operation reads: its rows, statistics, gains, biases. -/
def rowReads (c : RCmd) (p : RPar) : List (Nat × Nat) :=
  ((List.range c.rows).map fun i => (c.src + i * c.srcStride, c.srcRange.len)) ++
  (c.parRanges p).map fun r => (r.a, r.bytes)

/-- The ranges that a row operation writes. -/
def rowWrites (c : RCmd) (p : RPar) : List (Nat × Nat) :=
  (c.outRanges p).flatMap fun r => (List.range r.rows).map fun i => (r.a + i * r.stride, r.len)

/-- What a row operation accesses: its record, what it reads, what it writes. -/
def rowRanges (c : RCmd) (p : RPar) : List (Use × Nat × Nat) :=
  (.record, c.recA, 16) :: ((rowReads c p).map fun r => (.operand false, r.1, r.2)) ++
    (rowWrites c p).map fun r => (.operand true, r.1, r.2)

/-- A row operation ends with its record (R80, R151): its engines are free (R133, R154), and the idle timers of their clusters
restart (R391). -/
def W.rowEnds (w : W) (o : RowOp) (status sat flush : Nat) : W :=
  let c := rcmdOf o.cmd
  let group := spanGroup o.who.cl c.span
  let w := w.writeRec ⟨o.who.sag, c.recA, rowRecBytes o.who c status sat flush, some o.who.rows, some o.who, group, []⟩
  let w := if o.started then group.foldl W.touch w else w
  let w := w.modCmp fun d => { d with rowOps := d.rowOps.filter fun x => x.id ≠ o.id }
  w.modCmp fun d =>
    { d with clusters := Tab.mapV (fun _ x => if x.engine = some o.id then { x with engine := none, engLead := false } else x) d.clusters }

/-- Binary32 vectors as values. -/
def vec32 (rx : Bool) (l : List Byte) (n : Nat) : List Val := (List.range n).map fun i => relaxIn rx .b32 (b32Val (leAt l (4 * i) 4))

/-- The parameter ranges that were read, in the order of `RCmd.parRanges`: statistics, gains, biases. -/
def splitPar (c : RCmd) (rx : Bool) (ls : List (List Byte)) : List Byte × List Val × List Val :=
  let st := if c.useStats then ls.headD [] else []
  let ls := if c.useStats then ls.tail else ls
  let gs := if c.useGain then vec32 rx (ls.headD []) c.n else List.replicate c.n Val.one
  let ls := if c.useGain then ls.tail else ls
  (st, gs, if c.useBias then vec32 rx (ls.headD []) c.n else List.replicate c.n (Val.zero false))

/-- What each row of an operation delivers (R136–R150). -/
def rowResults (rx : Bool) (c : RCmd) (ls : List (List Byte)) : List (RowDone × List Val) :=
  let fi := (Fmt.ofCode c.ifmt).getD .b32
  let (st, gs, bs) := splitPar c rx (ls.drop c.rows)
  (List.range c.rows).map fun i =>
    rowRun rx c ((List.range c.n).map fun j => fi.decode (fi.unpack (ls.getD i []) j)) ((st.drop (16 * i)).take 16) gs bs

/-- Where a row operation writes what: its rows, then the scale bytes of a short format. -/
def rowStores (c : RCmd) (p : RPar) (rs : List (RowDone × List Val)) : List (Nat × List Byte) :=
  ((List.range c.rows).zip rs).map (fun x => (c.dstRange.a + x.1 * c.dstRange.stride, x.2.1.bytes)) ++
  (if c.short then ((List.range c.rows).zip rs).map fun x => (p.dscale + x.1 * p.dsStride, x.2.1.scales) else [])

/-- A row operation whose inputs have been read (R136–R152); the SFU's results, which are binary32, raise their IEEE flags in the
issuing thread (R96, R135). -/
def W.rowFinish (w : W) (o : RowOp) (c : RCmd) (p : RPar) (ls : List (List Byte)) : W :=
  let s := o.who.sag
  let rs := rowResults o.mode.relaxed c ls
  match w.storeMany s (.operand true) (rowStores c p rs) with
  | (.ok _, w) =>
    let sum (f : RowDone → Nat) : Nat := (rs.map fun r => f r.1).sum
    let w := if c.hint ∧ c.elements then w.raiseHint s c.hidx (hintMax 0 (rs.flatMap Prod.snd)) else w
    let w := w.addCounts s (sum RowDone.sat) (if c.op = 0x26 then 0 else sum RowDone.flush)
    let w := w.modSag s fun g =>
      { g with degen := satBv g.degen (sum fun r => b2n r.degenerate), nanx := satBv g.nanx (sum RowDone.excluded) }
    let w := w.raiseIssuer o.who (Flags.all (rs.map fun r => r.1.flags))
    let first := ((List.range c.rows).zip rs).findSome? fun x => x.2.1.made.map fun e => (x.1, e)
    let (won, w) : Bool × W := match first with
      | some (i, e) => w.fillTrap o.who c.op (spanLead o.who.cl c.span % 128) 0 e i (128 ≤ o.who.cl)
      | none => (false, w)
    w.rowEnds o (if won then 0x10 else 0) (sum RowDone.sat) (sum RowDone.flush)
  | (.error g, w) => let (st, w) := w.failStatus s g
                     (w.rowEnds o st 0 0).afterFail s g

/-- ROW_DONE (R133–R153): the row operation that a vector unit's bundle has running, once its SFU batches have left the
SFUs. -/
def execRowDone (cl : Fin 256) (vu : Fin 4) (ecc : Ecc) : State → Res := actMem fun w =>
  match w.dev.cmp.rowOps.find? fun o => o.started && o.who.cl == cl.val && o.who.vu == vu.val with
  | none => w
  | some o =>
    let c := rcmdOf o.cmd
    let p := rparOf (o.cmd.drop 64)
    let s := o.who.sag
    let w := { w with op := c.op, die := some (dieOf cl) }
    w.afterReports [.record o.who.rows] fun w =>
    if (spanGroup cl c.span).any fun n => w.dev.batchesLeft n false o.id then w
    else
      w.gated s (rowRanges c p) fun w =>
        let w := w.eccRead (srcOf 1 cl) s c.src (.operand false) ecc
        match w.fetchMany s (.operand false) (rowReads c p) [] with
        | (.ok ls, w) => w.rowFinish o c p ls
        | (.error g, w) => let (st, w) := w.failStatus s g
                           (w.rowEnds o st 0 0).afterFail s g

end Sys2Proof.Machine
end

