-- ==== Sys2Proof/Machine/Hub.lean ====
section
/-!
DEFINITION. The array clock (R26, R406, R410, R422).
-/
namespace Sys2Proof.Machine

/-- The throttle is on, from the first raise of an episode to its release (R420, R421). -/
def Dev.throttled (d : Dev) : Bool := d.sup.episode.isSome

/-- The VCORE setpoint of a DVFS point, in mV (R410). -/
def vcoreSet (p : Nat) : Nat := min 850 (710 + 5 * p + Config.trim.val)

/-- Change the VCORE setpoint: the rail, where it is on, follows it (R410, R433). -/
def W.setVcore (w : W) (mv : Nat) : W :=
  w.modSup fun s => { s with vset := mv, mv := if s.good.getLsbD 3 then Tab.put s.mv 3 mv else s.mv }

/-- Whether a transition to a point may start now (R406, R422). -/
def Dev.dvfsOpen (d : Dev) (v : BitVec 4) : Bool :=
  d.admits hubDom && (d.dom hubDom).entry.isNone && !(d.throttled && d.hub.cur < v)

def W.modHub (w : W) (f : Hub → Hub) : W := w.modDev fun d => { d with hub := f d.hub }

/-- Whether a transition is in progress, or waits to start (R26, R406, R422). -/
def Hub.changing (h : Hub) : Bool := h.dvfs.isSome || h.again || h.tgt ≠ h.cur

/-- Start the transition to the target, where it may start now; before a raise VCORE goes up (R26, R406, R422). -/
def W.dvfsGo (w : W) : W :=
  let h := w.dev.hub
  if w.dev.dvfsOpen h.tgt then
    let w := w.modHub fun h => { h with dvfs := some h.tgt, again := false }
    if h.cur < h.tgt then w.setVcore (vcoreSet h.tgt.toNat) else w
  else w

/-- Start the transition that has waited for the hub or the throttle (R406, R422). -/
def W.dvfsStart (w : W) : W := if w.dev.hub.dvfs.isNone ∧ w.dev.hub.changing then w.dvfsGo else w

/-- A write to HUB.ACLK.target (R26): a transition that may not start yet waits with its target set; one that replaces a transition in
progress starts from the point in force, and toward it too, so that VCORE follows. -/
def W.aclk (w : W) (v : BitVec 4) : W :=
  let h := w.dev.hub
  if 8 < v then w
  else if h.dvfs = some v ∨ (h.dvfs = none ∧ h.tgt = v) then w
  else if h.dvfs = none ∧ !h.again ∧ v = h.cur then w.modHub fun h => { h with tgt := v }
  else (w.modHub fun h => { h with tgt := v, dvfs := none, again := h.again || h.dvfs.isSome }).dvfsGo

/-- ACLK_TARGET_WRITE (R26, R34, R406, R410, R422). -/
def execAclkTargetWrite (ag : Agent) (v : Word) : State → Res := act fun w =>
  w.regAccess ag .glob (.write (.blk 0x0 0x50) v) fun w => w.aclk (v.truncate 4)

/-- DVFS_TRANSITION_DONE (R26, R410): the point in force becomes that of the transition in progress, and VCORE follows it. -/
def execDvfsTransitionDone : State → Res := act fun w =>
  match w.dev.hub.dvfs with
  | some p => (w.modHub fun h => { h with cur := p, dvfs := none }).setVcore (vcoreSet p.toNat)
  | none => w

end Sys2Proof.Machine
end

