-- ==== Sys2Proof/Machine/LogOps.lean ====
section
/-!
DEFINITION. The event log: entries, the ring, coalescing windows, retrieval (R470–R476, R485).
-/
namespace Sys2Proof.Machine

/-- Bytes padded with zeros to a length. -/
def zeroPad (n : Nat) (l : List Byte) : List Byte := l.take n ++ List.replicate (n - l.length) 0

/-- An entry in its 128 bytes (R470). -/
def LogEntry.bytes (e : LogEntry) : List Byte :=
  let w18 := (match e.chip with | some c => 2 ^ 28 + c.toNat * 2 ^ 16 | none => 0) +
    (match e.sag with | some s => 2 ^ 7 + s % 128 | none => 0)
  let body := leBytes 4 (e.cls.val * 2 ^ 24 + 0x00014C45) ++ leBytes 4 e.seq.toNat ++ leBytes 8 e.time.toNat ++
    leBytes 4 (e.rep.toNat * 65536 + e.code.toNat) ++ leBytes 4 e.src.toNat ++ leBytes 4 w18 ++ leBytes 4 0 ++
    zeroPad 64 e.data ++ List.replicate 28 0
  body ++ leBytes 4 (crc32 body)

/-- Whether 128 bytes hold an entry: its mark and CRC (R436, R470). -/
def isEntry (b : List Byte) : Bool := leAt b 0 2 == 0x4C45 && crc32 (b.take 0x7C) == leAt b 0x7C 4

/-- Whether bytes begin with a closing or brown record: its magic and CRC (R427, R436). -/
def isRecord (b : List Byte) : Bool := leAt b 0 2 == 0x4252 && crc32 (b.take 0x3C) == leAt b 0x3C 4

/-- The log area of flash (R438): where it begins, its pages and sectors. -/
def logArea : Nat := 0x800000

/-- The numbers of the log area's 128-byte slots that hold any programmed byte, rising. -/
def logSlots (m : Mem) : List Nat :=
  let l := (m.flash.filter fun c => decide (logArea ≤ c.1)).map fun c => (c.1 - logArea) / 128
  (l.foldl (fun acc s => match acc with | t :: _ => if t = s then acc else s :: acc | [] => [s]) []).reverse

def slotBytes (m : Mem) (s : Nat) : List Byte := m.bytes .flash (logArea + 128 * s) 128

/-- Valid slots (R436), from a slot on and around. -/
def validSlots (m : Mem) (from_ : Nat) : List Nat :=
  let l := (logSlots m).filter fun s => isEntry (slotBytes m s) || isRecord (slotBytes m s)
  (l.filter fun s => decide (from_ ≤ s)) ++ l.filter fun s => decide (s < from_)

/-- Whether the mirror holds a sequence number: from LOG.OLDM up to LOG.UNM (R475, R481). -/
def Log.inMirror (l : Log) (seq : Word) : Bool := decide ((seq - l.oldm).toNat < (l.unm - l.oldm).toNat)

/-- The entry of a sequence number in the mirror: the newest that carries it (R476, R485). -/
def mirrorEntry (m : Mem) (l : Log) (seq : Word) : Option (List Byte) :=
  if !l.inMirror seq then none
  else (((validSlots m (2 * l.mpage)).reverse.map (slotBytes m)).find? fun b => isEntry b && leAt b 4 4 == seq.toNat)

/-- A console notice of an entry, on each session whose level it reaches (R295). -/
def W.logNotices (w : W) (e : LogEntry) : W :=
  let body := txt "log seq=" ++ decText e.seq.toNat ++ txt " class=" ++ txt (className e.cls) ++ txt " src=" ++
    srcName e.src.toNat ++ txt " text=\"" ++ eventText e.code.toNat e.data ++ txt "\""
  [0, 1].foldl (fun w n =>
    let lev := (w.dev.sess n).notice
    if lev ≠ 0 ∧ lev ≤ e.cls.val + 1 ∧ w.dev.sessUp n then w.notice n body else w) w

/-- Write an event as the next entry (R472, R474): the ring, the count of entries lost unmirrored, then vector 257 (R228) and
the vectors of the same fault (R466), the notices (R295). -/
def W.writeEntry (w : W) (x : LogEvent) : W :=
  let l := w.dev.log
  let e : LogEntry := ⟨codeClass x.code, l.next, x.time, BitVec.ofNat 16 (min x.rep 65535), BitVec.ofNat 16 x.code,
    BitVec.ofNat 32 x.src, w.dev.fab.chip, x.sag, x.data⟩
  let full : Bool := 4096 ≤ l.ring.length
  let lost : Bool := full && (match l.ring with | o :: _ => o.seq == l.unm | [] => false)
  let empty := l.oldm = l.unm
  let due : Bool := match l.ovfAt with | some t => decide (t + 1000000000 ≤ w.dev.now) | none => true
  let w := w.modLog fun l =>
    { l with
      ring := (if full then l.ring.drop 1 else l.ring) ++ [e]
      next := l.next + 1
      unm := if lost then l.unm + 1 else l.unm
      oldm := if lost && empty then l.oldm + 1 else l.oldm
      ovf := if lost then satBv l.ovf 1 else l.ovf
      ovfAt := if lost && due then some w.dev.now else l.ovfAt
      lostNote := l.lostNote || (lost && due) }
  let w := if 2 ≤ e.cls.val then w.fire 0 257 else w
  (x.vecs.foldl (fun w v => w.fire v.1 v.2) w).logNotices e

/-- When the queue has room, the first overflow entry becomes an event; after the last of them, the note of a loss (R474,
R485). -/
def W.refillQueue (w : W) : W :=
  let l := w.dev.log
  if queueMax ≤ l.queue.length then w
  else match l.overd with
    | o :: t => w.modLog fun l => { l with queue := l.queue ++ [o], overd := t }
    | [] =>
      if l.lostNote then
        (w.modLog fun l => { l with lostNote := false }).event 0x0900 (srcOf 14 0) none [(4, l.ovf.toNat), (4, l.qdrop.toNat)]
      else w

/-- Whether an entry may start: none has within 100 µs (R485). -/
def Log.mayStart (l : Log) (now : Nat) : Bool := match l.lastStart with | some t => decide (t + 100000 ≤ now) | none => true

/-- Write the event that stands first, where its entry may start (R474, R485). -/
def W.writeFirst (w : W) : W :=
  let l := w.dev.log
  match l.queue with
  | e :: t =>
    if l.mayStart w.dev.now ∧ w.dev.aon.powered then
      ((w.modLog fun l => { l with queue := t, lastStart := some w.dev.now }).writeEntry e).refillQueue
    else w
  | [] => w

/-- Events of which the first is complete before what follows it (R428, R479): it is written at once where its entry may start now, no
other waiting before it. -/
def W.eventsFirst (w : W) (f : W → W) : W :=
  if w.dev.log.queue.isEmpty && w.dev.log.overd.isEmpty then (w.inOrder f).writeFirst else w.inOrder f

/-- An event whose entry is complete before what follows it. -/
def W.eventFirst (w : W) (code src : Nat) (data : List (Nat × Nat)) : W := w.eventsFirst fun w => w.event code src none data

/-- Whether a report is out (R466): the descriptor has left its queue, no record of the order waits. -/
def Dev.reportOut (d : Dev) : Report → Bool
  | .desc q index => (d.q q).descs.all fun x => x.index ≠ index
  | .record q => d.cmp.recs.all fun r => r.queue ≠ some q

/-- The always-on domain receives the events whose operations have reported (R466, R472). -/
def W.receiveHeld (w : W) : W :=
  let out (e : LogEvent) : Bool := e.after.all w.dev.reportOut
  let l := w.dev.log.hold.filter out
  l.foldl W.received (w.modLog fun g => { g with hold := g.hold.filter fun e => !out e })

/-- LOG_ENTRY_WRITE (R466, R472, R474, R485): no entry starts less than 100 µs after the one before it. -/
def execLogEntryWrite : State → Res := act fun w => w.receiveHeld.writeFirst

/-- COALESCE_WINDOW_END (R473): the further entry carries the data and time of the last occurrence, and represents all. -/
def execCoalesceWindowEnd (code : BitVec 16) (src : Word) : State → Res := act fun w =>
  match w.dev.log.windows.find? fun x => x.code == code.toNat && x.src == src.toNat with
  | none => w
  | some x =>
    if w.dev.now < x.since + 100000000 then w
    else
      let w := w.modLog fun l => { l with windows := l.windows.filter fun y => !(y.code == code.toNat && y.src == src.toNat) }
      match x.last with
      | some e => w.modLog fun l => l.enqueue w.dev.now { e with rep := x.n, occ := x.n }
      | none => w

/-- Whether events of some codes have still to be written. -/
def Log.waits (l : Log) (codes : List Nat) : Bool := (l.queue ++ l.overd).any fun e => codes.contains e.code

/-- A write to LOG.SEL (R476). -/
def W.logSel (w : W) (v : Word) : W := w.modLog fun l => if l.busy then l else { l with sel := v, busy := true }

/-- LOG_FETCH (R476, R481). -/
def execLogFetch (ag : Agent) (v : Word) : State → Res := act fun w => w.regAccess ag .aon (.write (.blk 0x5000 0x10) v) fun w => w.logSel v

/-- The entry of a sequence number in the ring. -/
def Log.ringEntry (l : Log) (seq : Word) : Option LogEntry := l.ring.reverse.find? fun e => e.seq == seq

/-- LOG_FETCH_DONE (R476): ring, mirror (once no flash operation runs), or not held. -/
def execLogFetchDone : State → Res := act fun w =>
  let l := w.dev.log
  if !l.busy then w
  else match l.ringEntry l.sel with
    | some e => w.modLog fun l => { l with busy := false, ssrc := 0, ent := e.bytes }
    | none =>
      if l.inMirror l.sel ∧ l.ops ≠ [] then w
      else match mirrorEntry w.mem l l.sel with
        | some b => w.modLog fun l => { l with busy := false, ssrc := 1, ent := b }
        | none => w.modLog fun l => { l with busy := false, ssrc := 2, ent := [] }

end Sys2Proof.Machine
end

