-- ==== Sys2Proof/Machine/SupplyBase.lean ====
section
/-!
DEFINITION. What the loss of the main rails does, and their order (R388, R409, R412, R413).
-/
namespace Sys2Proof.Machine

/-- The first main rail and the last, in the order of R412: VIO, VCORE, VSRAM, HBM3E, numbered as R409 lists them. -/
def firstRail : Nat := 2
def lastRail : Nat := 5

/-- Warning and reset levels of a rail in mV (R409); none for a rail that has none, zero for the HBM3E rails' loss of
HBM_PG. -/
def warnLevel (k : Nat) : Option Nat := [none, none, some 1140, some 690, some 760, none].getD k none
def resetLevel (k : Nat) : Option Nat := [none, none, some 1080, some 620, some 720, some 0].getD k none

/-- Whether a rail stands below its reset level at a voltage. -/
def belowReset (k mv : Nat) : Bool := match resetLevel k with | some 0 => true | some l => decide (mv < l) | none => false

/-- The throttle with its episode is gone (R413, R422). -/
def Sup.calm (s : Sup) : Sup :=
  { s with warn := false, current := false, cap := false, warnNow := 0, holdUntil := none, episode := none }

/-- Disable a rail; its fall below its reset level is awaited (R412). -/
def W.railOff (w : W) (k : Nat) : W :=
  w.modSup fun s => { s with seq := .down k w.dev.now, good := s.good &&& ~~~(BitVec.ofNat 6 (2 ^ k)) }

/-- Begin the power-down order from the rail enabled last (R412). -/
def W.dropRails (w : W) : W :=
  let w := w.modSup fun s => { s.calm with down := false }
  match w.dev.sup.seq with
  | .on => w.railOff lastRail
  | .up k _ => w.railOff k
  | .down _ _ | .off => w

/-- The rail that was disabled last is down: disable the next of the power-down order (R412). -/
def W.railFallen (w : W) (k : Nat) : W :=
  if k ≤ firstRail then w.modSup fun s => { s with seq := .off } else w.railOff (k - 1)

/-- All state outside the always-on domain is lost (R388, R413). The always-on domain's continuation of fabric time goes on
(R472). -/
def W.loseMain (w : W) : W :=
  let w := (((w.put (.clear .near)).put (.clear .hbm)).ringReset).freeClaims 3
  w.modDev fun d =>
    { d with
      hub := .reset, cmp := .reset, pci := { Pci.reset with perst := d.pci.perst }, dma := ⟨[], 255⟩
      ports := [], reprobe := 1000, fab := { Fab.reset with time := d.fab.time }, coll := .reset, pwr := .reset
      temps := .reset, stage := .reset
      sup := { d.sup with orderly := none }
      start := { d.start with state := .none, step := 0 } }

/-- A main-rail reset (R413): every main rail drops, without an entry. The fourth restart within 60 s does not come. -/
def W.railReset (w : W) (again : Bool) : W :=
  let now := w.dev.now
  let recent := w.dev.sup.restarts.filter fun t => decide (now < t + 60000000000)
  let w := w.modSup fun s => { s with cnt := cntAdd s.cnt 5 1, restarts := recent }
  let w := w.dropRails.loseMain
  if !again then w.modSup fun s => { s with stay := true, restartAt := none }
  else if !w.dev.sup.pwron then w
  else if 3 ≤ recent.length then
    (w.modSup fun s => { s with stay := true, restartAt := none }).event 0x0204 (srcOf 14 0)
  else w.modSup fun s => { s with restartAt := some (now + 10000000) }

/-- The hub stands BANKED at the end of an orderly entry (R413, R417): after a fall of PWRON the main rails go down. -/
def W.orderlyEnd (w : W) : W :=
  let w := w.modSup fun s => { s with orderly := none }
  if w.dev.sup.down then w.dropRails.loseMain else w

end Sys2Proof.Machine
end

