-- ==== Sys2Proof/Machine/Power.lean ====
section
/-!
DEFINITION. Power domains: entries by timer, request, cascade and force, refusers, wakes (R385–R408).
-/
namespace Sys2Proof.Machine

/-- The code of a state in PWR.STATE (R408). -/
def PSt.code : PSt → Nat
  | .active => 0
  | .idle => 1
  | .banked => 2
  | .off => 3
  | .offline => 4

def Way.code : Way → Nat
  | .timer => 0
  | .request => 1
  | .cascade => 2
  | .forced => 3

/-- Whether a state is at least as deep as a target (R393, R395). -/
def PSt.reaches (s t : PSt) : Bool := t.code ≤ s.code && (t ≠ .active || s = .active)

/-- A domain that takes no part in a cascade any more: BANKED, OFF or OFFLINE (R394). -/
def PSt.down (s : PSt) : Bool := 2 ≤ s.code

/-- A domain that is down, with no wake under way (R27, R399). -/
def Dom.still (x : Dom) : Bool := x.cur.down && (match x.wake with | some k => !k.started | none => true)

/-- A domain that is down, and no wake of it has to end first (R393, R394). -/
def Dom.settled (x : Dom) : Bool := x.cur.down && x.wake.isNone

/-- The dependents of the hub by kind: clusters, ports, stacks (R27, R394). -/
def dependents : List (List Nat) := [List.range 256, rangeFrom 257 12, rangeFrom 269 8]

/-- The kinds of power port that a domain has (R397). -/
def domPorts (d : Nat) : List Nat :=
  if d < 256 then [1, 2, 3, 4, 5, 6, 7, 0x12]
  else if d = 256 then [7, 0xA, 0xB, 0xC, 0xD, 0xE, 0xF, 0x10, 0x11, 0x12, 0x13, 0x14]
  else if d < 269 then [8, 0x12]
  else [7, 9, 0x12]

/-- The instance that a port kind's name carries in a domain. -/
def portInst (d k : Nat) : Nat :=
  if k ≤ 6 then d else if k = 8 then d - 257 else if k = 9 then d - 269 else 0

def refCode (k i : Nat) : Nat := k * 2 ^ 24 + i

/-- Whether a descriptor in progress touches a domain: the hub, or one that an end of it lies in (R243). -/
def Desc.touches (x : Desc) (d : Nat) : Bool := x.started && x.ended.isNone && (d == 256 || x.doms.contains d)

def Dev.queuesTouching (d : Dev) (n : Nat) : List Nat :=
  (List.range 256).filter fun q => (d.q q).descs.any fun x => x.touches n

/-- The domains that the running console command needs (R282). -/
def Dev.cmdDoms (d : Dev) : List Nat := match d.con.run with | some r => r.doms | none => []

/-- The codes with which a power port refuses now (R33, R77, R104, R124, R154, R196, R218, R243, R282, R332, R360, R383,
R397). The two deferring kinds, 0x06 and 0x09, depend on what the model holds no state of. -/
def Dev.refusers (d : Dev) (n k : Nat) : List Nat :=
  let one (b : Bool) : List Nat := if b then [refCode k (portInst n k)] else []
  let cl := d.cl n
  match k with
  | 1 => one cl.switching.isSome
  | 2 => one (cl.tq ≠ [])
  | 3 => one (cl.sfu0.job.isSome || cl.sfu1.job.isSome)
  | 4 => one cl.engine.isSome
  | 5 => one ((List.range 4).any fun v => match d.bundle n v with
      | some b => !b.faulted && b.trap ≠ .halted &&
          (b.memOut ≠ 0 || (match b.waiting with | .cbar | .sbar _ _ | .access => true | _ => false))
      | none => false)
  | 7 => (d.queuesTouching n).map (refCode 7)
  | 8 => one (match (d.port (n - 257)).state with | .train | .up | .retrain => true | _ => false)
  | 0xA => one d.cmp.crv.busy.isSome
  | 0xB => one (d.cmp.crv.pages.any fun p => p.2.pend)
  | 0xC => one (d.cmp.mem.any fun p => p.2.mv.isSome || p.2.mvWait)
  | 0xD => one (d.cmp.mem.any fun p => p.2.inv.isSome)
  | 0xE => one (d.cmp.mem.any fun p => p.2.pend)
  | 0xF => one (d.fab.sends.any fun s => s.unacked ≠ [])
  | 0x10 => one d.fab.master
  | 0x11 => one (d.coll.quires.any fun q => q.2.run.isSome || q.2.unacked ≠ [])
  | 0x12 => one (d.cmdDoms.contains n)
  | 0x13 => one d.hub.dvfs.isSome
  | 0x14 => one (d.log.ops ≠ [])
  | _ => []

/-- Count in the refuser table: an entry of the name, a free entry, or PWR.REFOVF (R398). -/
def W.refTable (w : W) (code : Nat) : W :=
  w.modPwr fun p =>
    let c := BitVec.ofNat 32 code
    if p.reftab.any fun x => x.1 == c then
      { p with reftab := p.reftab.map fun x => if x.1 = c then (x.1, satBv x.2 1) else x }
    else if p.reftab.length < 128 then { p with reftab := p.reftab ++ [(c, 1)] }
    else { p with refovf := satBv p.refovf 1 }

/-- Count a refusal against its domain and its name, and a DMA queue's own counter (R243, R398). -/
def W.countRefusal (w : W) (n code : Nat) : W :=
  let w := (w.modDom n fun x => { x with refs := satBv x.refs 1 }).refTable code
  if code / 2 ^ 24 = 7 then w.modQ (code % 65536) fun q => { q with refs := satBv q.refs 1 } else w

/-- Count an abort (R398). -/
def W.countAbort (w : W) (n code : Nat) : W := (w.modDom n fun x => { x with aborts := satBv x.aborts 1 }).refTable code

/-- A request for a domain has ended (R395): what PWR.RSTAT and the console show. -/
def W.reqDone (w : W) (n outcome : Nat) (codes : List Nat) : W :=
  let x := w.dev.dom n
  let w := w.modDom n fun x => { x with fromReg := false, fromCon := false, outcome := outcome, lastRefs := codes }
  if x.fromReg then
    let low := codes.foldl (fun a c => if a = 0 ∨ c < a then c else a) 0
    w.modPwr fun p => { p with busy := false, outcome := Fin.ofNat 3 (if outcome = 3 then 2 else outcome), rstatr := BitVec.ofNat 32 low }
  else w

/-- Begin the handshake of an entry (R392, R394). -/
def W.startEntry (w : W) (n : Nat) (way : Way) (tgt : PSt) : W :=
  w.modDom n fun x =>
    { x with entry := some ⟨way, tgt, domPorts n, [], n = hubDom, false, w.dev.now, []⟩, tgt := tgt, retryAt := none }

/-- Request BANKED of the next kind of dependents (R394); when all are down and no commit is being applied (R493), record
them and let the hub's own handshake run. -/
def W.cascadeStep (w : W) : W :=
  match (w.dev.dom hubDom).entry with
  | some e =>
    if !e.cascading ∨ e.committed then w
    else match dependents.find? fun l => l.any fun n => !(w.dev.dom n).settled with
      | some kind => kind.foldl (fun w n =>
          let x := w.dev.dom n
          if x.cur.down ∨ x.entry.isSome ∨ x.wake.isSome then w
          else (w.startEntry n .cascade .banked).modDom hubDom fun h =>
            { h with entry := h.entry.map fun e => { e with took := (e.took.filter fun y => y.1 ≠ n) ++ [(n, x.cur)] } }) w
      | none =>
        if w.dev.stage.pend then w
        else (w.modPwr fun p => e.took.foldl (fun p y =>
          if p.casc.getLsbD y.1 then p
          else { p with casc := p.casc ||| BitVec.ofNat 278 (2 ^ y.1), cascp := Tab.put p.cascp y.1 y.2 }) p).modDom hubDom
          fun h => { h with entry := h.entry.map fun e => { e with cascading := false } }
  | none => w

/-- A request or timer entry for a domain (R390, R393, R395). `reg` and `con` say who waits for the outcome. -/
def W.requestNow (w : W) (n : Nat) (tgt : PSt) (reg con : Bool) : W :=
  let x := w.dev.dom n
  let tgt := if 257 ≤ n ∧ n < 269 ∧ tgt = .idle then .banked else tgt
  let w := w.modDom n fun x => { x with fromReg := reg, fromCon := con, reqTgt := tgt }
  let refused (w : W) : W := (w.countRefusal n (refCode 0x15 0)).reqDone n 1 [refCode 0x15 0]
  if x.cur = .off ∨ x.cur = .offline then refused w
  else if tgt = .active then
    if x.cur = .active then w.reqDone n 0 [] else w.raiseWake n false
  else if tgt = .idle ∧ x.cur = .banked then refused w
  else if x.cur.reaches tgt then w.reqDone n 0 []
  else
    let w := w.startEntry n .request tgt
    if n = hubDom then w.cascadeStep else w

/-- A request that meets a transition waits for its end; one for ACTIVE is a wake event of its own (R393, R399). -/
def W.request (w : W) (n : Nat) (tgt : PSt) (reg con : Bool) : W :=
  let x := w.dev.dom n
  if x.entry.isSome ∨ x.wake.isSome then
    let w := if tgt = .active then w.raiseWake n false else w
    w.modDom n fun x => { x with queued := x.queued ++ [⟨tgt, false, reg, con⟩] }
  else w.requestNow n tgt reg con

/-- Serve a request that has waited for a transition to end (R393). -/
def W.nextReq (w : W) (n : Nat) : W :=
  let x := w.dev.dom n
  match x.queued with
  | r :: t =>
    if x.entry.isSome ∨ x.wake.isSome then w
    else (w.modDom n fun x => { x with queued := t }).requestNow n r.tgt r.reg r.con
  | [] => w

/-- Wakes that an entry of the hub has held (R399). -/
def W.releaseHeld (w : W) : W :=
  let l := w.dev.pwr.heldWakes
  l.foldl (fun w y => w.wakeAfter y.1 y.2) (w.modPwr fun p => { p with heldWakes := [] })

/-- How an entry that has not entered leaves the domain (R390, R394, R395): wakes that it has held or latched start, and under an
ACTIVE hub a DVFS transition that waited for it (R406). -/
def W.dropEntry (w : W) (n outcome : Nat) (codes : List Nat) : W :=
  let x := w.dev.dom n
  match x.entry with
  | none => w
  | some e =>
    let w := w.modDom n fun x => { x with entry := none, tgt := x.cur }
    let w := if e.way = .timer ∨ (n = hubDom ∧ w.dev.sup.orderly.isSome) then
        w.modDom n fun x => { x with retryAt := some (w.dev.now + 1000 * max 10 w.dev.pwr.retry.toNat) } else w
    let w := if e.way = .request then w.reqDone n outcome codes else w
    let w := if n = hubDom then
        (if e.cascading then w else w.modPwr fun p => { p with casc := 0, cascp := [] }).releaseHeld.dvfsStart
      else w
    w.wakeLate n

/-- An entry ends without entering; a dependent's refusal or abort ends the entry of the hub that asked for it, short of the hub's commit
point. -/
def W.endEntry (w : W) (n outcome : Nat) (codes : List Nat) : W :=
  match (w.dev.dom n).entry with
  | none => w
  | some e =>
    let w := (w.dropEntry n outcome codes).nextReq n
    if e.way = .cascade ∧ (w.dev.dom hubDom).entry.any fun h => !h.committed then
      let w := w.modDom hubDom fun h => { h with aborts := satBv h.aborts 1 }
      ((w.dropEntry hubDom outcome codes).nextReq hubDom)
    else w.cascadeStep

/-- Ports that have not given their answer. -/
def Entry.open_ (e : Entry) : List Nat := e.ports ++ e.defer.map Prod.fst

/-- HANDSHAKE_ANSWER (R353, R392, R397, R398): port kind `k` of domain `d` answers; `busy` is the condition of the two deferring
kinds. -/
def execHandshakeAnswer (d : Fin 278) (k : Fin 32) (busy : Bool) : State → Res := act fun w =>
  match (w.dev.dom d).entry with
  | none => w
  | some e =>
    if e.committed ∨ e.cascading ∨ !e.open_.contains k.val then w
    else if (k.val = 6 ∨ k.val = 9) ∧ busy ∧ e.ports.contains k.val then
      w.modDom d fun x => { x with entry := some { e with ports := e.ports.erase k.val, defer := e.defer ++ [(k.val, w.dev.now)] } }
    else
      let mine := if k.val = 6 ∨ k.val = 9 then (if busy then [refCode k (portInst d k)] else []) else w.dev.refusers d k
      if mine ≠ [] then
        let all := mine ++ (e.open_.filter fun j => j ≠ k.val).flatMap fun j => w.dev.refusers d j
        (all.foldl (fun w c => w.countRefusal d c) w).endEntry d 1 all
      else
        let e' := { e with ports := e.ports.erase k.val, defer := e.defer.filter fun y => y.1 ≠ k.val }
        let w := if e'.open_ = [] ∧ d.val = hubDom then w.leaveSlice else w
        w.modDom d fun x => { x with entry := some (if e'.open_ = [] then { e' with committed := true, since := w.dev.now } else e') }

/-- DEFER_TIMEOUT (R392, R398). -/
def execDeferTimeout (d : Fin 278) : State → Res := act fun w =>
  match (w.dev.dom d).entry with
  | some e =>
    match e.defer.find? fun y => decide (y.2 + 100000 ≤ w.dev.now) with
    | some y =>
      let c := refCode y.1 (portInst d y.1)
      (w.countAbort d c).endEntry d 2 [c]
    | none => w
  | none => w

/-- Whether something restarts a domain's idle timer now (R391). -/
def Dev.keepsAwake (d : Dev) (n : Nat) : Bool :=
  if n < 256 then
    (List.range 4).any (fun v => (d.bundle n v).isSome || (d.vu n v).sfuQ ≠ []) || (d.cl n).tq ≠ [] || (d.cl n).engine.isSome ||
      (d.cl n).sfu0.job.isSome || (d.cl n).sfu1.job.isSome
  else if 257 ≤ n ∧ n < 269 then
    match (d.port (n - 257)).state with | .train | .up | .retrain => true | _ => false
  else false

/-- The idle limit of a domain in ns (R297, R391); none where the timer is disabled. -/
def Dev.idleLimit (d : Dev) (n : Nat) : Option Nat :=
  let ms := d.setting (if n < 256 then 0 else if n < 269 then 2 else 1) n
  if n = 256 ∨ n = 277 ∨ ms = 0 then none else some (ms * 1000000)

/-- Whether a domain has been idle for its limit. -/
def Dev.idleDue (d : Dev) (n : Nat) : Bool :=
  match d.idleLimit n with
  | some l => (d.dom n).cur == .active && (d.dom n).entry.isNone && (d.dom n).wake.isNone && !d.keepsAwake n
      && decide ((d.dom n).idleAt + l ≤ d.now)
  | none => false

/-- IDLE_TIMER_EXPIRY (R390, R391): the first attempt; a retry waits for its interval. -/
def execIdleTimerExpiry (d : Fin 278) : State → Res := act fun w =>
  if w.dev.idleDue d ∧ (w.dev.dom d).retryAt = none then w.startEntry d .timer .banked else w

/-- An orderly entry of the hub (R417): BANKED of the hub is requested, with its cascade. -/
def W.orderlyStart (w : W) : W :=
  if (w.dev.dom hubDom).cur.down ∧ (w.dev.dom hubDom).wake.isNone then w.orderlyEnd
  else if w.dev.sup.orderly.isSome then w
  else (w.modSup fun s => { s with orderly := some w.dev.now }).request hubDom .banked false false

/-- ENTRY_RETRY (R390, R417). -/
def execEntryRetry (d : Fin 278) : State → Res := act fun w =>
  match (w.dev.dom d).retryAt with
  | some t =>
    if w.dev.now < t then w
    else if d.val = 256 ∧ w.dev.sup.orderly.isSome then
      (w.modDom d fun x => { x with retryAt := none }).request d .banked false false
    else if w.dev.idleDue d then w.startEntry d .timer .banked
    else w.modDom d fun x => { x with retryAt := none }
  | none => w

/-- A write to PWR.REQ (R395). -/
def W.pwrReq (w : W) (v : Word) : W :=
  let dom := bits v.toNat 8 0
  let st := bits v.toNat 10 9
  if w.dev.pwr.busy then w.modPwr fun p => { p with lost := true }
  else if st = 3 then w
  else
    let w := if bit v.toNat 11 then w.modPwr fun p => { p with denied := true } else w
    if 277 ≤ dom then w.modPwr fun p => { p with outcome := 1, rstatr := BitVec.ofNat 32 (refCode 0x15 0) }
    else
      (w.modPwr fun p => { p with busy := true, rstatr := 0 }).request dom
        (match st with | 0 => .active | 1 => .idle | _ => .banked) true false

/-- A PWR.REQ row acts on a write whose state field is its own. -/
def W.pwrReqRow (w : W) (ag : Agent) (v : Word) (st : Nat) : W :=
  if bits v.toNat 10 9 = st then w.regAccess ag .glob (.write (.blk 0x40000 0x1000) v) fun w => w.pwrReq v else w

/-- PWR_REQ_ACTIVE (R395). -/
def execPwrReqActive (ag : Agent) (v : Word) : State → Res := act fun w => w.pwrReqRow ag v 0

/-- PWR_REQ_IDLE (R395). -/
def execPwrReqIdle (ag : Agent) (v : Word) : State → Res := act fun w => w.pwrReqRow ag v 1

/-- PWR_REQ_BANKED (R395). -/
def execPwrReqBanked (ag : Agent) (v : Word) : State → Res := act fun w => w.pwrReqRow ag v 2

/-- End the tensor operations of a cluster with a status, in queue order (R82, R396). -/
def W.abortTensorN : Nat → W → Nat → Nat → W
  | 0, w, _, _ => w
  | n + 1, w, cl, status =>
    match (w.dev.cl cl).tq with
    | [] => w
    | t :: _ =>
      let c := tcmdOf t.cmd
      W.abortTensorN n (if c.op = 1 then w.tmmaFails cl t c status else w.treadFails cl t c status) cl status

/-- Drop the SFU batches of a cluster's tensor operations. -/
def W.dropBatches (w : W) (cl : Nat) (p : SfuJob → Bool) : W :=
  let w := (List.range 4).foldl (fun w v => w.modVu cl v fun x => { x with sfuQ := x.sfuQ.filter fun r => !p r.job }) w
  let clear (s : Sfu) : Sfu := match s.job with | some j => if p j.2.1.job then { s with job := none } else s | none => s
  w.modCl cl fun c => { c with sfu0 := clear c.sfu0, sfu1 := clear c.sfu1 }

/-- End a row operation short of its end with a status; its SFU batches are dropped. -/
def W.endRow (w : W) (o : RowOp) (status : Nat) : W :=
  let w := (spanGroup o.who.cl (rcmdOf o.cmd).span).foldl (fun w n =>
    w.dropBatches n fun j => match j with | .batch tq id _ => !tq && id == o.id | _ => false) w
  w.rowEnds o status 0 0

/-- End the row operations whose span group holds a cluster with a status (R153, R396). -/
def W.abortRows (w : W) (cl status : Nat) : W :=
  (w.dev.cmp.rowOps.filter fun o => (spanGroup o.who.cl (rcmdOf o.cmd).span).contains cl).foldl (fun w o => w.endRow o status) w

/-- End the descriptors in progress that touch a domain with a status (R244, R396). -/
def W.abortDescs (w : W) (n status : Nat) : W :=
  (List.range 256).foldl (fun w q =>
    if (w.dev.q q).descs.any fun x => x.touches n then
      let cut (d : Desc) : Desc := if d.touches n then { d with ended := some (BitVec.ofNat 8 status, 0) } else d
      w.modQ q fun x => { x with descs := x.descs.map cut }
    else w) w

/-- Whether the page of a leaf lies in a domain. -/
def leafIn (level e n : Nat) : Bool :=
  if n < 256 then pteTgt e == 1 && pteAddr e / 2 ^ 20 == n
  else pteTgt e == 0 && 269 ≤ n &&
    (if pageBits level = 12 then hbmStack (pteAddr e) == n - 269 else hbmStack (pteAddr e) / 4 == (n - 269) / 4)

/-- Whether a move reads a domain: its source page, or the leaf's slot. -/
def Move.readsIn (m : Move) (n : Nat) : Bool := leafIn m.level m.old.toNat n || (269 ≤ n && hbmStack m.slotAddr == n - 269)

/-- Whether a move reads or writes a domain. -/
def Move.usesDom (m : Move) (n : Nat) : Bool := m.readsIn n || leafIn m.level m.new.toNat n

/-- End the page moves of a domain: with ABORTED at a forced entry, else with the status of the end that has failed (R214, R396,
R469). -/
def W.abortMoves (w : W) (n : Nat) (forced : Bool) : W :=
  (List.range 128).foldl (fun w s =>
    match (w.dev.mpage s).mv with
    | some m => if n = 256 ∨ m.usesDom n then w.moveEnd s (if forced then 0x55 else if m.readsIn n then 0x53 else 0x54) else w
    | none => if n = 256 ∧ (w.dev.mpage s).mvWait then w.moveEnd s 0x55 else w) w

/-- End the asynchronous work of a domain with a status (R396 step 2). -/
def W.abortWork (w : W) (n status : Nat) : W :=
  let w :=
    if n < 256 then
      let w := (w.abortTensorN (w.dev.cl n).tq.length n status).dropBatches n fun j =>
        match j with | .batch tq _ _ => tq | _ => false
      w.abortRows n status
    else w
  let w := (w.abortDescs n status).abortMoves n (status = 0x13)
  if n = 256 then
    (List.range 256).foldl (fun w i =>
      if (w.dev.quire i).run.isSome then w.collBreak i status 0 true else w) w
  else w

/-- The links of a port domain go down with cause POWER, an UP one after its DOWN flit and without waiting; an attempt is given up
(R330, R332, R396). -/
def W.powerDownPort (w : W) (p : Nat) : W :=
  match (w.dev.port p).state with
  | .up => (w.sendFlit p 4 0 0 []).linkDown p 0x10
  | .retrain => w.linkDown p 0x10
  | .train => ((w.lnkCause p 0x10).modPort p fun x => { x with lastEnd := some w.dev.now }).enterDetect p
  | _ => w

/-- Put one domain past its commit point by force (R396, R407): what a request was waiting for is kept. -/
def W.forceOne (w : W) (n : Nat) (tgt : PSt) : W :=
  let w := w.abortWork n 0x13
  let w := if 257 ≤ n ∧ n < 269 then w.powerDownPort (n - 257) else w
  w.modDom n fun x =>
    { x with entry := some ⟨.forced, tgt, [], [], false, true, w.dev.now, []⟩, tgt := tgt, forceReq := none, retryAt := none }

/-- Steps 1 and 2 of a forced entry of the hub (R396): it admits no new work, and the operations of the hub and of the dependents that it
takes with it end with ABORTED; their bundles stop. -/
def W.forceHub (w : W) (tgt : PSt) : W :=
  let up := (List.range 256).filter fun n => !(w.dev.dom n).cur.down
  let w := up.foldl (fun w n => w.abortWork n 0x13) (w.abortWork hubDom 0x13)
  w.modDom hubDom fun x =>
    { x with entry := some ⟨.forced, tgt, [], [], true, true, w.dev.now, []⟩, tgt := tgt, forceReq := none, retryAt := none }

/-- Steps 4 and 5 (R27, R394, R396; log entry 26): LEAVE, links down, and every dependent goes down with the hub. -/
def W.takeDown (w : W) : W :=
  let w := w.leaveSlice
  let took := (dependents.flatMap id).filterMap fun n =>
    if (w.dev.dom n).cur.down then none else some (n, (w.dev.dom n).cur)
  let w := took.foldl (fun w y => w.forceOne y.1 .banked) w
  w.modDom hubDom fun x => { x with entry := x.entry.map fun e => { e with cascading := false, took } }

/-- Whether a wake of a dependent of the hub is under way: it runs to its end first (R27, R399). -/
def Dev.waking (d : Dev) : Bool :=
  (dependents.flatMap id).any fun n => match (d.dom n).wake with | some k => k.started | none => false

/-- Whether the hub waits for what a forced entry of it waits for (R396 step 4, R493): a commit of either kind, a table load, an
invalidation; and for a wake of a dependent (R399). -/
def Dev.hubWaits (d : Dev) : Bool :=
  d.stage.pend || d.waking || d.cmp.crv.busy.isSome || (d.cmp.crv.pages.any fun p => p.2.pend) ||
    d.cmp.mem.any fun p => p.2.inv.isSome || p.2.pend

/-- A forced entry finds its domain in the target state or deeper (R407): an entry short of its commit point ends uncounted, its
request aborted unless the domain stands where it asked. -/
def W.forceEnds (w : W) (n : Nat) : W :=
  let x := w.dev.dom n
  let w := w.modDom n fun x => { x with forceReq := none, forceCon := false }
  match x.entry with
  | some e =>
    if e.committed then w else ((w.dropEntry n (if x.cur.reaches x.reqTgt then 0 else 3) []).nextReq n).cascadeStep
  | none => w

/-- The address that a held access gives first. -/
def Held.addr (h : Held) : Nat :=
  match h.load, h.store, h.amo with
  | some a, _, _ => (a.1.addrs.headD 0).toNat
  | _, some a, _ => (a.addrs.headD 0).toNat
  | _, _, some a => (a.2.addrs.headD 0).toNat
  | _, _, _ => 0

/-- The held accesses and host loads of some bundles cannot be performed: they end POISONED, a store when its bundle reports it
(R191 step 1, R396 step 3, R462). -/
def W.poisonHeld (w : W) (here : At → Bool) : W :=
  let held := w.dev.cmp.held.filter fun h => here h.at_
  let w := w.modCmp fun c => { c with held := c.held.filter fun h => !here h.at_ }
  let w := held.foldl (fun w h =>
    if h.store.isSome then (w.memDone h.at_).modBundle h.at_.cl h.at_.vu fun b => { b with storePoison := true }
    else w.poisonAccess h.at_ h.addr) w
  let mine (r : HostRead) : Bool := match r.use with | .load x _ _ _ => here x | _ => false
  let reads := w.dev.pci.reads.filter mine
  let w := w.modPci fun p => { p with reads := p.reads.filter fun r => !mine r }
  reads.foldl (fun w r => match r.use with | .load x _ _ _ => w.poisonAccess x r.addr | _ => w) w

/-- FORCED_ENTRY_DRAIN_TIMEOUT (R396 step 3): memory operations not performed within 1 ms fail, on the hub those of every bundle. -/
def execForcedEntryDrainTimeout (d : Fin 278) : State → Res := actMem fun w =>
  match (w.dev.dom d).entry with
  | some e =>
    if e.way ≠ .forced ∨ w.dev.now < e.since + 1000000 then w
    else
      let here (x : At) : Bool := x.cl.val == d.val
      let here (x : At) : Bool := here x || (d.val == hubDom && e.cascading)
      let remote := w.dev.fab.sends.filter fun s => w.dev.fab.ops.any fun o => o.stream == s.key &&
        match o.use with | .load x _ _ _ => here x | .amo x _ _ => here x | .store x => here x | .record | .move _ _ _ _ => false
      (remote.foldl W.failStream w).poisonHeld here
  | none => w

/-- Whether the bundles of a cluster have no memory operation out (R396 step 3). -/
def Dev.clusterDrained (d : Dev) (n : Nat) : Bool :=
  (List.range 4).all fun v => match d.bundle n v with | some b => b.memOut == 0 || b.faulted | none => true

/-- Whether a forced entry of the hub still waits (R396 steps 3 and 4): for memory operations of the bundles that it stops, or for what
Dev.hubWaits names. -/
def Dev.hubHolds (d : Dev) : Bool :=
  d.hubWaits || (List.range 256).any fun n => !(d.dom n).cur.down && !d.clusterDrained n

/-- Whether the hub's entry into BANKED waits for the log: that of a package fault comes after the fault's own entry, SERVICE or TEMP_BANK
(R416, R463, R479). -/
def Dev.bankWaits (d : Dev) (e : Entry) : Bool := e.tgt == .banked && d.sup.orderly.isSome && d.log.waits [0x0202, 0x0208]

/-- Whether an entry past its commit point may reach its state (R27, R396). -/
def Dev.mayEnter (d : Dev) (n : Nat) (e : Entry) : Bool :=
  if n < 256 then e.way ≠ .forced || d.clusterDrained n
  else if n = 256 then
    !e.cascading && !d.bankWaits e && ((dependents.flatMap id).all fun k => (d.dom k).still) &&
    (e.way ≠ .forced || (d.cmp.crv.busy.isNone && (d.cmp.crv.pages.all fun p => !p.2.pend) &&
      d.cmp.mem.all fun p => p.2.inv.isNone && !p.2.pend))
  else true

/-- Whether a wake of a dependent of the hub is set. -/
def Dev.wakeSet (d : Dev) : Bool := (dependents.flatMap id).any fun n => (d.dom n).wake.isSome

/-- The hub has entered its state (R394, R396, R399, R403, R406, R410): what a forced entry has taken down is recorded, the wakes it
has held wait behind a wake of its own, and a DVFS transition starts anew after that. -/
def W.hubEntered (w : W) (e : Entry) : W :=
  let w := if e.way = .forced then
      w.modPwr fun p => e.took.foldl (fun p y =>
        if p.casc.getLsbD y.1 then p
        else { p with casc := p.casc ||| BitVec.ofNat 278 (2 ^ y.1), cascp := Tab.put p.cascp y.1 y.2 }) p
    else w
  let w := w.modHub fun h => { h with dvfs := none }
  let w := if e.tgt = .banked then (w.modTemps fun t => { t with t := [], hot110 := [], hot125 := [] }).setVcore 650 else w
  let held := w.dev.pwr.heldWakes
  let w := w.modPwr fun p => { p with heldWakes := [], returning := [], linksDown := p.linksDown || e.tgt = .banked }
  let w := held.foldl (fun w y => w.beginWake y.1 .active) w
  if w.dev.wakeSet then w.lateWake hubDom (held.any Prod.snd) true else w

/-- ENTRY_COMPLETE (R395, R399, R401, R407, R410, R413, R417): the domain reaches its state; a wake latched on the way starts at once. -/
def execEntryComplete (d : Fin 278) : State → Res := act fun w =>
  match (w.dev.dom d).entry with
  | none => w
  | some e =>
    if !e.committed ∨ !w.dev.mayEnter d e then w
    else
      let n := d.val
      let forced : Bool := e.way == .forced
      let w := w.modDom n fun x =>
        { x with cur := e.tgt, tgt := e.tgt, way := e.way, entry := none, entries := satBv x.entries 1, retryAt := none
                 forceCon := x.forceCon && !forced }
      let x := w.dev.dom n
      let w := if (x.fromReg ∨ x.fromCon) ∧ x.reqTgt ≠ .active then
          w.reqDone n (if forced ∧ !x.cur.reaches x.reqTgt then 3 else 0) []
        else w
      let w := if n = hubDom then w.hubEntered e else w.cascadeStep
      if n = hubDom ∧ e.tgt = .banked ∧ w.dev.sup.orderly.isSome ∧ w.dev.sup.down then w.orderlyEnd
      else
        let w := if n = hubDom ∧ e.tgt = .banked then w.modSup fun s => { s with orderly := none } else w
        (w.wakeLate n).nextReq n

/-- The wake events that wait are discarded (R418): those that have not started, those latched, those that an entry of the hub holds; a
request that asked for one is refused (log entry 42). -/
def W.discardWakes (w : W) : W :=
  let waits (x : Dom) : Bool := x.late || match x.wake with | some k => !k.started | none => false
  let held := w.dev.pwr.heldWakes
  let idle := (List.range 277).filter fun n => waits (w.dev.dom n) || held.any fun y => y.1 == n
  let w := w.modPwr fun p => { p with heldWakes := [], returning := p.returning.filter fun n => !idle.contains n }
  idle.foldl (fun w n =>
    let w := w.modDom n fun x =>
      { x with late := false, lateAcc := false, wake := x.wake.filter Wake.started, tgt := if (x.wake.filter Wake.started).isNone ∧ x.entry.isNone then x.cur else x.tgt }
    let x := w.dev.dom n
    if (x.fromReg ∨ x.fromCon) ∧ x.reqTgt = .active ∧ x.wake.isNone then w.reqDone n 1 [refCode 0x15 0] else w) w

/-- WAKE_STEP_READY (R402): regulator, oscillator, memory, logic. -/
def execWakeStepReady (d : Fin 278) : State → Res := act fun w =>
  match (w.dev.dom d).wake with
  | some k =>
    if k.started ∧ 1 ≤ k.step ∧ k.step < 5 then w.modDom d fun x => { x with wake := some { k with step := k.step + 1 } } else w
  | none => w

/-- WAKE_WAVE (R402, R403): under an ACTIVE hub the die-to-die links are up, and cluster wakes that wait for a wave start, as many as
the limit allows. -/
def execWakeWave : State → Res := act fun w =>
  let w := if w.dev.hubCarries then w.modPwr fun p => { p with linksDown := false } else w
  (List.range 256).foldl W.tryStart w

/-- Empty the refuser table (R398). -/
def W.refClear (w : W) : W := w.modPwr fun p => { p with reftab := [] }

/-- REFUSER_TABLE_CLEAR (R398). -/
def execRefuserTableClear (ag : Agent) : State → Res := act fun w => w.regAccess ag .glob (.write (.blk 0x40000 0x3FF0) 0) fun w => w.refClear

end Sys2Proof.Machine
end

