-- ==== Sys2Proof/Machine/ConRun.lean ====
section
/-!
DEFINITION. How the management core takes a line, checks it and answers (R252, R255, R262–R265, R279–R283); what every
command's handler is written over: its arguments, its answer, paging.
-/
namespace Sys2Proof.Machine

/-- A command about to run: its session, its line, the mode and tag of its request, the parsed line. -/
structure CmdCtx where
  sess : Nat
  line : List Byte
  machine : Bool
  tag : List Byte
  cmd : CmdLine

/-- How a command's handler ends: a response with its data lines, or a wait. -/
inductive CmdOut where
  | done (code : Nat) (lines : List (List Byte))
  | wait (x : CmdWait)
  deriving DecidableEq, Repr

def ok0 : CmdOut := .done 0 []
def okLine (l : List Byte) : CmdOut := .done 0 [l]
def er (code : Nat) : CmdOut := .done code []

/-- A command's handler. -/
abbrev Handler := W → CmdCtx → CmdOut × W

/-- The text of a response's lines (R265): status line, data lines. -/
def responseText (tag : Option (List Byte)) (code : Nat) (lines : List (List Byte)) : List (List Byte) :=
  let status := (if code < 100 then txt "ok " else txt "er ") ++ padText 3 code ++ txt " " ++ decText lines.length
  (status :: lines.map fun l => txt ". " ++ l).map (frameLine tag)

/-- Place a response in the session's output, framed as the mode of its line asks: on a fresh line, with the prompt after it, where the
session is in interactive mode (R256, R260, R265); `keep` is the request whose response this is, which R263 stores. -/
def W.respond (w : W) (n : Nat) (machine : Bool) (tag : List Byte) (code : Nat) (lines : List (List Byte)) (keep : Option (List Byte)) : W :=
  let s := w.dev.sess n
  let w := if !s.machine && (s.prompt || s.partl ≠ []) then w.conPut n crlf false else w
  let text := responseText (if machine then some tag else none) code lines
  let w := text.foldl (fun w l => w.conPut n l true) w
  let w := match keep with
    | some r => w.modSess n fun s => { s with lastReq := r, lastResp := text.flatten }
    | none => w
  w.putPrompt n

/-- The name of a refuser (R397). -/
def refuserName (code : Nat) : List Byte :=
  let i := code % 65536
  let clu (s : String) : List Byte := txt "clu." ++ padText 3 i ++ txt s
  match code / 2 ^ 24 with
  | 1 => clu ".switch"
  | 2 => clu ".ta"
  | 3 => clu ".sfu"
  | 4 => clu ".row"
  | 5 => clu ".thr"
  | 6 => clu ".net"
  | 7 => txt "dma.q" ++ decText i
  | 8 => txt "port." ++ padText 2 i ++ txt ".lnk"
  | 9 => txt "hbm." ++ decText i ++ txt ".cal"
  | 0xA => txt "crv.load"
  | 0xB => txt "crv.commit"
  | 0xC => txt "mem.move"
  | 0xD => txt "mem.inv"
  | 0xE => txt "mem.commit"
  | 0xF => txt "fab.e2e"
  | 0x10 => txt "fab.master"
  | 0x11 => txt "col.run"
  | 0x12 => txt "con.cmd"
  | 0x13 => txt "hub.aclk"
  | 0x14 => txt "hub.flash"
  | _ => txt "pwr.state"

/-- The names of the claimable resources, in the order of R271. -/
def resourceNames : List String :=
  ["aclk", "crv", "pwr", "sup", "lnk", "fab", "col", "log", "stage", "time", "test", "key", "sag", "flash"]

def holderNames : List String := ["none", "s0", "s1", "drv"]

/-- A number argument within a range: er 300 outside it or for another form, er 301 for a word (R284). -/
def argNum (t : Option Tok) (lo hi : Nat) : Except Nat Nat :=
  match t with
  | some (.val (.num n)) => if lo ≤ n ∧ n ≤ hi then .ok n else .error 300
  | some (.val (.word _)) => .error 301
  | _ => .error 300

/-- A word among choices (R284): its place. -/
def argWord (t : Option Tok) (choices : List String) : Except Nat Nat :=
  match t with
  | some (.val (.word w)) => match (choices.map txt).findIdx? (· == w) with | some i => .ok i | none => .error 301
  | _ => .error 301

/-- Put a number into a rising list. -/
def insertNum (x : Nat) : List Nat → List Nat
  | [] => [x]
  | y :: t => if x < y then x :: y :: t else if x = y then y :: t else y :: insertNum x t

/-- The numbers of a number, range or list within a bound, rising. -/
def valNums (v : TokVal) (hi : Nat) : Except Nat (List Nat) :=
  let items : Except Nat (List (Nat × Nat)) := match v with
    | .num n => .ok [(n, n)]
    | .range a b => .ok [(a, b)]
    | .list l => .ok l
    | .word _ => .error 301
    | .str _ => .error 300
  match items with
  | .error e => .error e
  | .ok l =>
    if l.any fun x => hi < x.2 then .error 300
    else .ok ((l.flatMap fun x => rangeFrom x.1 (x.2 + 1 - x.1)).foldl (fun acc x => insertNum x acc) [])

def argNums (t : Option Tok) (hi : Nat) : Except Nat (List Nat) :=
  match t with
  | some (.val v) => valNums v hi
  | _ => .error 300

def CmdCtx.arg (c : CmdCtx) (k : Nat) : Option Tok := c.cmd.pos[k]?

/-- A parameter's number, or what stands for it when it is left out. -/
def CmdCtx.num (c : CmdCtx) (k : String) (lo hi : Nat) : Except Nat (Option Nat) :=
  match c.cmd.param k with
  | some v => match argNum (some (.val v)) lo hi with | .ok n => .ok (some n) | .error e => .error e
  | none => .ok none

/-- A parameter that is 0 or 1, absent as 0. -/
def CmdCtx.flag (c : CmdCtx) (k : String) : Except Nat Bool :=
  match c.num k 0 1 with
  | .ok (some 1) => .ok true
  | .ok _ => .ok false
  | .error e => .error e

/-- A page of a listing (R281). -/
def CmdCtx.page (c : CmdCtx) (items : List (List Byte)) : CmdOut :=
  match c.num "from" 0 (2 ^ 64 - 1), c.num "max" 2 128 with
  | .ok f, .ok m =>
    let from_ := f.getD 0
    let max_ := m.getD 128
    let rest := items.drop from_
    if rest.length ≤ max_ then .done 0 rest
    else .done 0 (rest.take (max_ - 1) ++ [kvText "more" (decText (from_ + max_ - 1))])
  | .error e, _ => er e
  | _, .error e => er e

/-- Numbers as a list token, runs of three or more as ranges; `none` for no number. -/
def runsFrom : Nat → List Nat → List (List Byte)
  | 0, _ => []
  | _, [] => []
  | f + 1, a :: t =>
    let run := (a :: t).zipIdx.takeWhile fun x => x.1 == a + x.2
    let n := run.length
    if 3 ≤ n then (decText a ++ txt ".." ++ decText (a + n - 1)) :: runsFrom f ((a :: t).drop n)
    else decText a :: runsFrom f t

/-- Gather items into list tokens of at most 32 items (R254) and about 100 bytes. -/
def packItems : List (List Byte) → List (List Byte) → List (List Byte)
  | cur, [] => if cur = [] then [] else [joinText (txt ",") cur]
  | cur, x :: t =>
    if 32 ≤ cur.length ∨ 100 < (joinText (txt ",") (cur ++ [x])).length then joinText (txt ",") cur :: packItems [x] t
    else packItems (cur ++ [x]) t

/-- Numbers as list tokens, `none` for no number. -/
def listTexts (l : List Nat) : List (List Byte) := if l = [] then [txt "none"] else packItems [] (runsFrom l.length l)

def runsText (l : List Nat) : List Byte := if l = [] then txt "none" else joinText (txt ",") (runsFrom l.length l)

/-- What a handler answers when an argument is in error. -/
def withArg {α : Type} (x : Except Nat α) (w : W) (k : α → CmdOut × W) : CmdOut × W :=
  match x with
  | .ok a => k a
  | .error e => (er e, w)

/-- Whether the command of a line is cancellable now (R277, R282, R283). -/
def Running.mayCancel (r : Running) (c : CmdLine) : Bool := c.spec.cancel || r.wait == .drain

/-- What becomes of a taken line: an error under a tag, a stored response sent again, or a command to run. -/
inductive Taken where
  | fail (code : Nat) (tag : List Byte) (keep : Bool)
  | again
  | run (c : CmdCtx)

def noTag : List Byte := txt "----"

/-- Privilege and claims, the last checks of R255. -/
def W.admitCmd (w : W) (n : Nat) (c : CmdLine) : Option Nat :=
  if (w.dev.sess n).priv.val < c.level then some 200
  else if c.claims.any fun k => claimHolder w.dev.con k ≠ 0 && claimHolder w.dev.con k ≠ BitVec.ofNat 2 (n + 1) then some 203
  else none

/-- Check a command's text (R255). -/
def W.checkCmd (w : W) (n : Nat) (q : QLine) (tag text : List Byte) : Taken :=
  match tokensOf text with
  | .error e => .fail e tag true
  | .ok ts =>
    match parseCmd ts with
    | .error e => .fail e tag true
    | .ok c =>
      match w.admitCmd n c with
      | some e => .fail e tag true
      | none => .run ⟨n, q.bytes, q.machine, tag, c⟩

/-- Check a line that has been received whole (R252, R256, R262, R263); the answer says whether its CRC failed. -/
def W.checkLine (w : W) (n : Nat) (q : QLine) : Taken × Bool :=
  let tag0 := if q.machine then noTag else []
  match q.err with
  | some e =>
    let tag := if q.machine ∧ e = 108 then (match unframe q.bytes with | .ok (t, _) => t | .error _ => noTag) else tag0
    (.fail e tag false, false)
  | none =>
    if q.machine then
      match unframe q.bytes with
      | .error e => (.fail e tag0 false, e == 105)
      | .ok (tag, text) =>
        let s := w.dev.sess n
        if (s.lastReq.drop 1).take 4 = tag then
          if s.lastReq = q.bytes then (.again, false) else (.fail 107 tag false, false)
        else (w.checkCmd n q tag text, false)
    else if q.bytes.headD 0 = 0x40 then (.fail 106 tag0 false, false)
    else (w.checkCmd n q tag0 q.bytes, false)

/-- The text of a line's command, without its framing. -/
def lineText (machine : Bool) (l : List Byte) : List Byte :=
  if machine then (match unframe l with | .ok (_, t) => t | .error _ => []) else l

/-- The line of the running command, parsed again: it is the line that R255 admitted. -/
def Running.ctx (r : Running) : Option CmdCtx :=
  match tokensOf (lineText r.machine r.line) with
  | .ok ts => match parseCmd ts with
    | .ok c => some ⟨r.sess, r.line, r.machine, if r.machine then (r.line.drop 1).take 4 else [], c⟩
    | .error _ => none
  | .error _ => none

/-- A line that ran enters the history (R258, R299). -/
def W.remember (w : W) (c : CmdCtx) : W :=
  let l := lineText c.machine c.line
  let first := ((splitLine l).headD [])
  w.modSess c.sess fun s =>
    if first = txt "priv" ∨ first = txt "key" ∨ s.history.getLast? = some l then s
    else { s with history := (s.history ++ [l]).drop (s.history.length + 1 - 8) }

/-- A command ends with its response (R264, R265, R275, R295, R302): a device failure is logged. -/
def W.finishCmd (w : W) (c : CmdCtx) (wanted : Bool) (code : Nat) (lines : List (List Byte)) : W :=
  let w := if 500 ≤ code ∧ code ≤ 502 then w.event 0x0805 (srcOf 0x0A c.sess) none [(4, code)] else w
  if !wanted then (if c.sess = 0 then w.remember c else w)
  else
    let w := (w.remember c).respond c.sess c.machine c.tag code lines (some (if c.machine then c.line else []))
    let w := w.modeApply c.sess
    w.modSess c.sess fun s => match s.noticeNext with
      | some l => { s with notice := l, noticeNext := none }
      | none => s

/-- The running command ends. -/
def W.endRun (w : W) (code : Nat) (lines : List (List Byte)) : W :=
  match w.dev.con.run with
  | none => w
  | some r =>
    let w := w.modCon fun c => { c with run := none }
    let w := match r.ctx with
      | some c => w.finishCmd c r.wanted code lines
      | none => w
    w.dropImplicit r

/-- The running command waits for something else. -/
def W.rewait (w : W) (x : CmdWait) : W := w.modCon fun c => { c with run := c.run.map fun r => { r with wait := x } }

/-- Whether a session has a line that can be taken: its output is placed (R252, R274). -/
def Dev.lineReady (d : Dev) (n : Nat) : Bool := d.sessUp n && (d.sess n).out == [] && (d.sess n).queue.any fun q => !q.ignored

/-- Whether it is a session's turn: no command runs, it has a line that can be taken, and the other has none or went last
(R252, R274). -/
def Dev.conTurn (d : Dev) (n : Nat) : Bool :=
  d.aon.powered && d.con.run.isNone && d.con.resetCmd.isNone && d.lineReady n && (!d.lineReady (1 - n) || d.con.lastSess ≠ n)

/-- Lines that are ignored draw only the prompt (R253, R256). -/
def W.skipIgnoredN : Nat → W → Nat → W
  | 0, w, _ => w
  | f + 1, w, n =>
    match (w.dev.sess n).queue with
    | q :: t =>
      if q.ignored ∧ !w.dev.con.busyWith n then
        W.skipIgnoredN f ((w.modSess n fun s => { s with queue := t }).putPrompt n) n
      else w
    | [] => w

def W.skipIgnored (w : W) (n : Nat) : W := W.skipIgnoredN (w.dev.sess n).queue.length w n

/-- Take the front line of a session. -/
def W.popLine (w : W) (n : Nat) : W :=
  (w.modSess n fun s => { s with queue := s.queue.drop 1 }).modCon fun c => { c with lastSess := n }

/-- Whether a domain is powered for a command: OFF, OFFLINE and STANDBY are not (R30, R389), and under the phase lock and in FAILED
the hub is not served (R418, R444). -/
def Dev.poweredFor (d : Dev) (n : Nat) : Bool :=
  !d.lockedOut && (d.dom hubDom).cur ≠ .off && (d.dom n).cur ≠ .off && (d.dom n).cur ≠ .offline

/-- The domains that a command needs (R279). -/
def CmdCtx.needs (c : CmdCtx) : List Nat :=
  match c.cmd.spec.dom with
  | .aon => []
  | .hub =>
    if c.cmd.spec.cmd = .pwrReq ∧ (match c.arg 0, c.arg 1 with | some a, some b => a.isWordTok "hub" && b.isWordTok "active" | _, _ => false) = true
    then [] else [hubDom]
  | .port => hubDom :: (match argNum (c.arg 0) 0 11 with | .ok p => [portDom p] | .error _ => [])

/-- Kinds of domain in power commands (11): first domain and how many. -/
def domKinds : List (String × Nat × Nat) := [("clu", 0, 256), ("hub", 256, 1), ("port", 257, 12), ("hbm", 269, 8), ("aon", 277, 1)]

/-- The domains that a power command names (R287): er 302 where `n=` is missing or may not stand. -/
def CmdCtx.domains (c : CmdCtx) (kind : Nat) : Except Nat (List Nat) :=
  match domKinds[kind]? with
  | none => if (c.cmd.param "n").isSome then .error 302 else .ok (List.range 278)
  | some (_, base, n) =>
    match c.cmd.param "n" with
    | none => if n ≠ 1 then .error 302 else .ok [base]
    | some v =>
      if n = 1 then .error 302
      else match valNums v (n - 1) with
        | .ok l => .ok (l.map (base + ·))
        | .error e => .error e

/-- The domains that a command keeps awake while it runs (R282): not those it asks to change. -/
def CmdCtx.keeps (c : CmdCtx) : List Nat :=
  let asked := if c.cmd.spec.cmd = .pwrReq then
      match argWord (c.arg 0) ["clu", "hub", "port", "hbm"] with
      | .ok k => (match c.domains k with | .ok l => l | .error _ => [])
      | .error _ => []
    else []
  c.needs.filter fun d => !asked.contains d

/-- The chip is at load (R283). -/
def Dev.atLoad (d : Dev) : Bool :=
  (d.cmp.sags.any fun s => s.2.st = .running || s.2.st = .draining) ||
  (d.coll.quires.any fun q => q.2.run.isSome) ||
  d.dma.qs.any fun q => q.2.busy

end Sys2Proof.Machine
end

