-- ==== Sys2Proof/Machine/CrvCmds.lean ====
section
/-!
DEFINITION. The table store (R107–R128): loads, their checks and stamps, unloads, commits of bindings.
-/
namespace Sys2Proof.Machine

def TSlot.loaded (x : TSlot) : Bool := x.state == 2

def Dev.storeSlot (d : Dev) (recipe : Bool) (n : Nat) : TSlot := if recipe then d.rslot n else d.tslot n

def W.modStore (w : W) (recipe : Bool) (n : Nat) (f : TSlot → TSlot) : W :=
  w.modCrv fun c =>
    if recipe then { c with recipes := Tab.put c.recipes n (f (Tab.look .empty c.recipes n)) }
    else { c with tables := Tab.put c.tables n (f (Tab.look .empty c.tables n)) }

/-- The binding that a staged register names (R128). -/
def bindOf (v : Word) : Option Nat := if v.getLsbD 31 then some (bits v.toNat 5 0) else none

/-- The staged set of a saggar as a bank (R123). -/
def CrvPage.stagedBank (p : CrvPage) : Bank := ⟨(List.range 8).map fun b => bindOf (Tab.look 0 p.binds b), p.rperm⟩

/-- Whether a bank names a slot. -/
def Bank.names (k : Bank) (recipe : Bool) (n : Nat) : Bool :=
  if recipe then k.rperm.getLsbD n else k.binds.contains (some n)

/-- Whether any saggar's bindings or permissions, staged or in force, name a slot (R121). -/
def Dev.slotNamed (d : Dev) (recipe : Bool) (n : Nat) : Bool :=
  (d.cmp.crv.pages.any fun p => p.2.stagedBank.names recipe n || p.2.inForce.names recipe n) ||
  d.cmp.clusters.any fun c => c.2.owner.isSome && c.2.bank.names recipe n

/-- A request to the table store has ended with a code (R121). -/
def W.crvEnd (w : W) (code : Nat) : W := w.modCrv fun c => { c with busy := none, code := BitVec.ofNat 8 code }

/-- The image area of flash (R438). -/
def inImageArea (a n : Nat) : Bool := 0x2000 ≤ a && a + n ≤ 0x800000

/-- The length of an image from its first 64 bytes (R110, R113): 64 where they are no header. -/
def imageLen (h : List Byte) : Nat :=
  let w0 := leAt h 0 4
  let w4 := leAt h 4 4
  if bits w0 31 16 ≠ 0x4354 ∨ bits w0 15 8 ≠ 1 then 64
  else if bits w0 7 0 = 2 then 256
  else
    let k := bits w4 11 8
    let n := if bits w4 31 30 = 1 then bits w4 7 0 * 2 ^ k else 2 ^ k
    if n ≤ 256 then 0x80 + 16 * n else 64

/-- Cut a host range at 4 KiB boundaries and at the read request size (R236). -/
def hostPieces (maxLen : Nat) : Nat → Nat → Nat → List (Nat × Nat)
  | 0, _, _ => []
  | f + 1, a, n =>
    if n = 0 then []
    else
      let k := min n (min maxLen (4096 - a % 4096))
      (a, k) :: hostPieces maxLen f (a + k) (n - k)

/-- Ask the host for a part of an image, as far as requests may be outstanding (R122, R221): untranslated, with the physical function's
identity. -/
def W.crvAsk (w : W) (l : CrvLoad) (from_ upto : Nat) : W :=
  let all := hostPieces w.dev.pci.maxRead (upto - from_) (l.src.toNat + from_) (upto - from_)
  let now := all.take (1024 - w.dev.pci.outstanding)
  let w := w.modCrv fun c => { c with busy := some { l with asked := from_ + (now.map Prod.snd).sum } }
  now.foldl (fun w p => w.hostRead 0 p.1 p.2 (.crv (p.1 - l.src.toNat) p.2) false) w

/-- Start a load (R121 step 2, R122). A source that may not be read refuses with SOURCE_FAULT. -/
def W.crvStart (w : W) (recipe flash : Bool) (slot : Nat) (boot : Option Nat) (src : DWord) : W :=
  let was := (w.dev.storeSlot recipe slot).loaded
  let l : CrvLoad := ⟨recipe, flash, slot, src, was, 0, boot, none⟩
  let refused := if flash then !inImageArea src.toNat 64 else w.dev.pci.slow || !w.dev.pci.up
  if refused then (w.modStore recipe slot fun _ => .empty).crvEnd 0x35
  else
    let w := w.modStore recipe slot fun x => { x with state := 1 }
    if flash then w.modCrv fun c => { c with busy := some { l with asked := 64 } } else w.crvAsk l 0 64

/-- A write to CRV.LCTL (R121, R128). An unload that succeeds leaves the code LOAD_OK (DESIGN CHOICE, log entry 42). -/
def W.lctl (w : W) (v : Nat) (src : DWord) : W :=
  let op := bits v 31 30
  let slot := bits v 6 0
  let recipe := if op = 3 then bit v 28 else op = 2
  if w.dev.cmp.crv.busy.isSome then w.modCrv fun c => { c with lost := true }
  else if op = 0 then w
  else if !recipe ∧ 63 < slot then w.crvEnd 0x33
  else
    let x := w.dev.storeSlot recipe slot
    if x.state = 1 ∨ ((op = 3 ∨ x.loaded) ∧ w.dev.slotNamed recipe slot) then w.crvEnd 0x34
    else if op = 3 then (w.modStore recipe slot fun _ => .empty).crvEnd 0x30
    else w.crvStart recipe (bit v 29) slot none src

/-- The stamp of an image (R117, R118): certified, bound; or a status. What its reserved fields hold refuses nothing (DESIGN CHOICE, log
entry 42). -/
def stampCheck (cfg : Cfg) (body stamp : List Byte) (ident : Nat) : Except Nat (Bool × Nat) :=
  let w0 := leAt stamp 0 4
  match bits w0 31 24 with
  | 0 => .ok (false, 0xFFFF)
  | 1 =>
    if cfg.kid ≠ 0 ∧ leAt stamp 4 4 = cfg.kid.toNat ∧ leAt stamp 8 4 = ident ∧
       hmac cfg.key (body ++ stamp.take 32) = stamp.drop 32 then .ok (bit w0 16, bits w0 15 0)
    else .error 0x36
  | _ => .error 0x33

/-- The checks on a whole image (R110, R111, R113, R115, R118): a loaded slot, or a status. -/
def checkImage (cfg : Cfg) (recipe : Bool) (img : List Byte) : Except Nat TSlot :=
  let w0 := leAt img 0 4
  if bits w0 31 16 ≠ 0x4354 then .error 0x31
  else if bits w0 15 8 ≠ 1 then .error 0x32
  else
    let body := img.take (img.length - 64)
    let found : Option SlotBody := if recipe then (decodeRecipe img).map .recipe else (decodeTable img).map .table
    match found with
    | none => .error 0x33
    | some b =>
      let ident := bodyIdentity body
      match stampCheck cfg body (img.drop (img.length - 64)) ident with
      | .error c => .error c
      | .ok (cert, bound) =>
        .ok ⟨2, cert, BitVec.ofNat 16 bound, BitVec.ofNat 32 ident, (img.drop (if recipe then 0x30 else 0x20)).take 16, some b, false⟩

/-- A load fails with a status: a refused stamp leaves the slot as it was (R118), anything else leaves it EMPTY (R121;
log entry 19). A load of the console, answered with er 402, leaves the slot and CRV.LSRC as they were (R302). -/
def W.crvFail (w : W) (l : CrvLoad) (code : Nat) : W :=
  let w := match l.undo with | some v => w.modCrv fun k => { k with lsrc := v } | none => w
  (w.modStore l.recipe l.slot fun x =>
    if code = 0x36 ∨ l.undo.isSome then { x with state := if l.wasLoaded then 2 else 0 } else .empty).crvEnd code

/-- Forget the reads of a load. -/
def W.dropCrvReads (w : W) : W :=
  w.modPci fun p => { p with reads := p.reads.filter fun r => match r.use with | .crv _ _ => false | _ => true }

/-- A host-side error on a load's read (R122, R242): SOURCE_FAULT, reported to the host, poisoning nothing. -/
def W.crvSourceFault (w : W) : W :=
  match w.dev.cmp.crv.busy with
  | some l => (w.dropCrvReads.nonfatal 0).crvFail l 0x35
  | none => w

/-- A load has its whole image: check it and end (R121 steps 3 and 4). -/
def W.crvFinish (w : W) (l : CrvLoad) (img : List Byte) : W :=
  match checkImage w.dev.start.cfg l.recipe img with
  | .ok s => (w.modStore l.recipe l.slot fun _ => s).crvEnd 0x30
  | .error c => w.crvFail l c

/-- Where a load reads (R122). -/
def CrvLoad.space (l : CrvLoad) : Space := if l.flash then .flash else .host

def crvOutstanding (d : Dev) : Bool := d.pci.reads.any fun r => match r.use with | .crv _ _ => true | _ => false

/-- End a load that has read everything it needs. -/
def W.crvDone (w : W) (res : HostEnd) : W :=
  match w.dev.cmp.crv.busy with
  | none => w
  | some l =>
    let n := imageLen (w.mem.bytes l.space l.src.toNat 64)
    if l.flash then
      if inImageArea l.src.toNat n then w.crvFinish l (w.mem.bytes .flash l.src.toNat n) else w.crvFail l 0x35
    else if res ≠ .ok then w.crvSourceFault
    else if crvOutstanding w.dev then w
    else if l.asked < n then w.crvAsk l l.asked (if l.asked < 64 then 64 else n)
    else w.crvFinish l (w.mem.bytes .host l.src.toNat n)

/-- CRV_LOAD_TABLE (R108, R121, R122). -/
def execCrvLoadTable (ag : Agent) (v : Word) : State → Res := act fun w =>
  w.regAccess ag .glob (.write (.blk 0x1C000 0) v) fun w => w.lctl v.toNat w.dev.cmp.crv.lsrc

/-- CRV_LOAD_RECIPE (R108, R121, R122). -/
def execCrvLoadRecipe (ag : Agent) (v : Word) : State → Res := act fun w =>
  w.regAccess ag .glob (.write (.blk 0x1C000 0) v) fun w => w.lctl v.toNat w.dev.cmp.crv.lsrc

/-- CRV_UNLOAD (R108, R121). -/
def execCrvUnload (ag : Agent) (v : Word) : State → Res := act fun w =>
  w.regAccess ag .glob (.write (.blk 0x1C000 0) v) fun w => w.lctl v.toNat w.dev.cmp.crv.lsrc

/-- Whether every slot that a bank names is LOADED (R123). -/
def Dev.bankLoaded (d : Dev) (k : Bank) : Bool :=
  (k.binds.all fun b => match b with | some t => (d.tslot t).loaded | none => true) &&
  (List.range 128).all fun r => !k.rperm.getLsbD r || (d.rslot r).loaded

/-- Commit the staged bindings of a saggar (R123). -/
def W.crvCommit (w : W) (s : Nat) : W :=
  let p := w.dev.cpage s
  let k := p.stagedBank
  if p.pend ∨ !w.dev.bankLoaded k then w.modCpage s fun p => { p with refused := true }
  else
    let w := w.modCpage s fun p => { p with pend := true, inForce := k }
    w.modCmp fun c => { c with clusters := Tab.mapV (fun _ x => if x.owner = some s then { x with bankPend := true } else x) c.clusters }

/-- CRV_COMMIT_WRITE (R123). -/
def execCrvCommitWrite (ag : Agent) (s : Fin 128) : State → Res := act fun w =>
  w.regAccess ag (.view s false) (.write (.blk 0x1C000 (0x1000 + 0x40 * s + 0x34)) 0) fun w => w.crvCommit s

/-- Whether a cluster of a saggar still has to switch banks. -/
def Dev.bankPending (d : Dev) (s : Nat) : Bool := d.cmp.clusters.any fun c => c.2.owner == some s && c.2.bankPend

/-- CRV_COMMIT_DONE (R123, R483). -/
def execCrvCommitDone (s : Fin 128) : State → Res := act fun w =>
  if (w.dev.cpage s).pend ∧ !w.dev.bankPending s ∧ w.dev.genOpen w.dev.cmp.crvGenAt then
    (w.modCpage s fun p => { p with pend := false, gen := p.gen + 1 }).modCmp fun c => { c with crvGenAt := some w.dev.now }
  else w

end Sys2Proof.Machine
end

