-- ==== Sys2Proof/Machine/Launch.lean ====
section
/-!
DEFINITION. Launches (R160–R166): rings, descriptors, dispatch, exits and launch records; enabling, disabling and killing
a saggar.
-/
namespace Sys2Proof.Machine

/-- Entries of a ring (R197: a log2 outside 4–8 acts as 4). -/
def Ring.entries (r : Ring) : Nat := 2 ^ (if 4 ≤ r.size.toNat ∧ r.size.toNat ≤ 8 then r.size.toNat else 4)

/-- Where entry `i` of a ring stands (R162, R197). -/
def Ring.entryAddr (r : Ring) (i : Nat) : Nat := (r.base.toNat / 64 * 64 + 64 * (i % r.entries)) % 2 ^ 64

/-- Descriptors posted and not yet taken (R162). -/
def Ring.held (r : Ring) : Nat := (r.prod - r.cons).toNat

def Thr.ring (t : Thr) (n : Nat) : Ring := if n = 0 then t.r0 else t.r1

def Thr.setRing (t : Thr) (n : Nat) (r : Ring) : Thr := if n = 0 then { t with r0 := r } else { t with r1 := r }

def W.modRing (w : W) (s n : Nat) (f : Ring → Ring) : W := w.modThr s fun t => t.setRing n (f (t.ring n))

/-- A launch record (R164). -/
def launchRecord (status : Nat) (fflags : BitVec 5) (done : Nat) (tag : Nat) : List Byte :=
  leBytes 4 (status * 2 ^ 24 + fflags.toNat) ++ leBytes 4 done ++ leBytes 4 tag ++ leBytes 4 (2 ^ 31)

/-- Whether a descriptor runs nothing (R161). -/
def descBad (l : List Byte) : Bool :=
  let w0 := leAt l 0 4
  let n := leAt l 4 4
  bits w0 31 24 ≠ 1 || bits w0 21 0 ≠ 0 || n == 0 || 268435456 < n || leAt l 8 8 % 8 ≠ 0 ||
  ((l.drop 0x18).take 24).any (fun b => b ≠ 0) || (l.drop 0x3C).any fun b => b ≠ 0

/-- The launch of a descriptor (R160), `after` the launch taken last from its ring. -/
def launchOf (id ring : Nat) (after : Option Nat) (l : List Byte) : Launch :=
  let w0 := leAt l 0 4
  { id, ring, wait := bit w0 23, after, pack := bit w0 22, nthr := leAt l 4 4, entry := BitVec.ofNat 64 (leAt l 8 8)
    arg := BitVec.ofNat 64 (leAt l 16 8), record := BitVec.ofNat 64 (leAt l 0x30 8)
    tag := BitVec.ofNat 32 (leAt l 0x38 4), next := 0, running := 0, done := 0, fflags := 0, faulted := false
    nanHalted := false, killed := false }

/-- Bundles of a launch (R160). -/
def Launch.bundles (l : Launch) : Nat := cdiv l.nthr 16

/-- A ring halts at an entry that cannot be read (R161). -/
def W.haltRing (w : W) (s ring cause va : Nat) : W :=
  (w.modRing s ring fun r => { r with halt := true }).lastFault s cause va

/-- Post an lnch's descriptor into ring 1 (R162): a ring base takes no target that R204 refuses it. `act` are the lanes that its fault
names. -/
def W.lnchPost (w : W) (s cl vu : Nat) (b : Bundle) (act : BitVec 16) (desc : List Byte) : W :=
  let r := (w.dev.thr s).r1
  let a := r.entryAddr r.prod.toNat
  match ({ w with die := some (dieOf cl) } : W).access s a 64 .post with
  | (.ok p, w) =>
    ((w.putPlace p desc).modRing s 1 fun r => { r with prod := r.prod + 1 }).modBundle cl vu resumeBundle
  | (.fault f, w) => w.faultBundle cl vu f.code.1 f.code.2 b.pc a act
  | (.cut, w) => (w.poison s 2 0 0 2 1).faultBundle cl vu 4 0 b.pc a act
  | (.asleep d, w) => w.raiseWake d true
  | (.moving _, w) => w

/-- Stalled lnchs of a saggar proceed while ring 1 has room (R162). -/
def W.unstall (w : W) (s : Nat) : W :=
  w.dev.cmp.vus.foldl (fun w v =>
    match v.2.bundle with
    | some b =>
      match b.waiting with
      | .ring desc act =>
        if b.sag = s ∧ (w.dev.thr s).r1.held < (w.dev.thr s).r1.entries then w.lnchPost s (v.1 / 4) (v.1 % 4) b act desc else w
      | _ => w
    | none => w) w

/-- The hub consumes the entry at a ring's consumer index (R161, R162). No launch is the ring's last one then, unless the descriptor
makes one: a descriptor that runs nothing leaves no launch to wait for (R160). -/
def W.consume (w : W) (s ring : Nat) : W :=
  let w := (w.modRing s ring fun r => { r with cons := r.cons + 1, last := none }).modThr s fun t => { t with lastRing := ring }
  if ring = 1 then w.unstall s else w

/-- A descriptor has been read: taken, rejected, or completed under a kill (R161, R166); one that comes to a saggar that takes no
more stays in its ring (R165). -/
def W.descTaken (w : W) (s ring : Nat) (l : List Byte) : W :=
  let a := leAt l 0x30 8
  if (w.dev.sag s).st = .draining ∨ (w.dev.sag s).st = .off then w
  else if a % 16 ≠ 0 then (w.consume s ring).modThr s fun t => { t with norec := true }
  else if descBad l ∨ (w.dev.sag s).st = .killing then
    w.gated s [(.record, a, 16)] fun w =>
      (w.consume s ring).record s a (launchRecord (if descBad l then 1 else 3) 0 0 (leAt l 0x38 4))
  else
    let (id, w) := w.newId
    let after := ((w.dev.thr s).ring ring).last
    ((w.consume s ring).modRing s ring fun r => { r with last := some id }).modThr s fun t =>
      { t with launches := t.launches ++ [launchOf id ring after l] }

/-- Read the descriptor at a ring's consumer index through the saggar's translation (R161, R204), from the host where it
lies there (R225). While the host link is down, or no tag is free, the hub takes nothing and tries again (DESIGN CHOICE, log entry
40). -/
def W.takeAt (w : W) (s ring : Nat) : W :=
  let r := (w.dev.thr s).ring ring
  let a := r.entryAddr r.cons.toNat
  match w.access s a 64 .ring with
  | (.ok (.host t h), w) =>
    if w.dev.pci.up ∧ w.dev.tagFree then w.hostRead (w.dev.fnOf t) h 64 (.launch s ring) true
    else w
  | (.ok p, w) => w.descTaken s ring (w.getPlace p 64)
  | (.fault f, w) => w.haltRing s ring f.memCause a
  | (.asleep d, w) => w.raiseWake d true
  | (_, w) => w

/-- Whether a descriptor read of a saggar is on the host link. -/
def Dev.launchReading (d : Dev) (s : Nat) : Bool :=
  d.pci.reads.any fun r => match r.use with | .launch x _ => x == s | _ => false

def Ring.ready (r : Ring) : Bool := r.held ≠ 0 && !r.halt

/-- The ring that the hub takes from next (R161). -/
def Thr.pick (t : Thr) : Option Nat :=
  if t.r0.ready && t.r1.ready then some (1 - t.lastRing)
  else if t.r0.ready then some 0 else if t.r1.ready then some 1 else none

/-- LAUNCH_TAKE (R161). -/
def execLaunchTake (k : Found (Fin 128)) : State → Res := actMem fun w =>
  let s := k.of.val
  let w := w.bring k.ecc
  if (w.dev.sag s).st = .running ∧ !w.dev.launchReading s then
    match (w.dev.thr s).pick with
    | some r => w.takeAt s r
    | none => w
  else w

/-- A write to THR.L0PROD (R162). -/
def W.l0prod (w : W) (s : Nat) (v : BitVec 16) : W :=
  let r := (w.dev.thr s).r0
  let lead := (v - r.cons).toNat
  if v = r.prod then w
  else if r.entries < lead ∨ lead < r.held then w.modThr s fun t => { t with overd := true }
  else w.modRing s 0 fun r => { r with prod := v }

/-- L0PROD_WRITE (R162). -/
def execL0prodWrite (ag : Agent) (s : Fin 128) (v : Word) : State → Res := act fun w =>
  w.regAccess ag (.view s false) (.write (.blk 0xA000 (0x40 * s + 0xC)) v) fun w => w.l0prod s (v.truncate 16)

/-- A write to THR.LERR (R197): ones clear. -/
def W.lerr (w : W) (s : Nat) (v : Word) : W :=
  w.modThr s fun t =>
    { t with r0 := { t.r0 with halt := t.r0.halt && !v.getLsbD 2 }, r1 := { t.r1 with halt := t.r1.halt && !v.getLsbD 3 }
             norec := t.norec && !v.getLsbD 1, overd := t.overd && !v.getLsbD 0 }

/-- LAUNCH_RING_UNHALT (R161, R197). -/
def execLaunchRingUnhalt (ag : Agent) (s : Fin 128) (v : Word) : State → Res := act fun w =>
  w.regAccess ag (.view s false) (.write (.blk 0xA000 (0x40 * s + 0x2C)) v) fun w => w.lerr s v

/-- The descriptor of an lnch: elements 0–15 of the source register, an open word for each element of an inactive lane, which is
not read (R157, log entry 21). -/
def lnchDesc (b : Bundle) (src : Nat) (act : BitVec 16) (seed : Nat) : List Byte :=
  (List.range 16).flatMap fun i => leBytes 4 (if act.getLsbD (i / 4) then b.elem src i else Config.openWord (seed + i)).toNat

/-- LNCH (R162, R181, R184): a release, which reports failed stores (R191 step 1). -/
def execLnch (at_ : At) (src : Fin 64) : State → Res := actMem fun w =>
  if w.dev.memWaits at_ then w
  else w.instrR at_ [src] fun w b act =>
    if b.storePoison then w.reportStores at_ act else
    let desc := lnchDesc b src act w.dev.free
    let w := w.modDev fun d => { d with free := d.free + 16 }
    let r := (w.dev.thr b.sag).r1
    if r.held < r.entries then w.lnchPost b.sag at_.cl at_.vu { b with pc := at_.pc } act desc
    else w.modBundle at_.cl at_.vu fun b => { b with waiting := .ring desc act }

/-- Free vector units of a cluster. -/
def Dev.freeVus (d : Dev) (cl : Nat) : List Nat := (List.range 4).filter fun v => (d.bundle cl v).isNone

/-- Where the next bundle of a saggar goes (R163). -/
def Dev.placeFor (d : Dev) (s : Nat) (pack : Bool) : Option (Nat × Nat) :=
  let best := (List.range 256).foldl (fun b cl =>
    let n := (d.freeVus cl).length
    if (d.cl cl).owner = some s ∧ (d.cl cl).switching.isNone ∧ 0 < n then
      match b with
      | none => some (cl, n)
      | some x => if !pack ∧ x.2 < n then some (cl, n) else some x
    else b) (none : Option (Nat × Nat))
  best.bind fun x => (d.freeVus x.1).head?.map fun v => (x.1, v)

/-- Whether a launch waits for the previous one of its ring, among the launches without a launch record yet (R160). -/
def launchWaits (l : Launch) (ls : List Launch) : Bool :=
  l.wait && match l.after with | some id => ls.any fun x => x.id == id | none => false

/-- Whether a launch has bundles left to dispatch (R163, R166, R171). -/
def Launch.unfinished (l : Launch) : Bool := l.next < l.bundles && !l.faulted && !l.killed

/-- The launch whose bundles are dispatched now (R163). -/
def Thr.current (t : Thr) : Option Launch :=
  match t.launches.find? Launch.unfinished with
  | some l => if launchWaits l t.launches then none else some l
  | none => none

/-- A bundle at its dispatch (R157–R160): its registers hold open values (log entry 20). -/
def newBundle (s : Nat) (l : Launch) (seed : Nat) : Bundle :=
  { sag := s, launch := l.id, bix := l.next, pc := l.entry
    live := (List.range 16).foldl (fun m i => if 16 * l.next + i < l.nthr then m ||| (1#16 <<< i) else m) 0
    vr := [], mr := [], fflags := [], waiting := .no, faulted := false, trap := .no, storePoison := false
    owes := [], memOut := 0, asyncOut := 0, term := false, seed }

/-- Put a bundle on a vector unit; its cluster wakes if it sleeps (R391, R400). -/
def W.place (w : W) (cl vu : Nat) (b : Bundle) : W :=
  (((w.modVu cl vu fun v => { v with bundle := some b }).raiseWake cl false).touch cl).unstall b.sag

/-- Release the cluster barriers of a cluster that every bundle of their launch has reached or left (R174). -/
def W.cbarCheck (w : W) (cl : Nat) : W :=
  let bs := (List.range 4).filterMap (w.dev.bundle cl)
  let held (b : Bundle) : Bool := bs.any fun x => x.sag == b.sag && x.launch == b.launch && x.live ≠ 0 && x.waiting ≠ .cbar
  (List.range 4).foldl (fun w v => w.modBundle cl v fun b => if b.waiting = .cbar ∧ !held b then resumeBundle b else b) w

/-- The first saved bundle that no switch is about to restore (R168 rules 1 and 4). -/
def Dev.toResume (d : Dev) (s : Nat) : Option Saved :=
  (d.sag s).saved.find? fun x => match (d.cl x.cl).switching with | some k => k.into ≠ some s | none => true

/-- Requests of a bundle that has moved to another vector unit. -/
def SfuReq.moved (cl vu : Nat) (r : SfuReq) : SfuReq := { r with who := { r.who with cl, vu } }

/-- A row operation not yet started follows its bundle to another vector unit (R133, R168). -/
def RowOp.moved (b : Bundle) (cl vu : Nat) (o : RowOp) : RowOp :=
  if o.who.owns b && !o.started then { o with who := { o.who with cl, vu } } else o

/-- BUNDLE_DISPATCH (R163, R168): a bundle that a switch displaced resumes, or the next bundle of the current launch is
dispatched. The displaced bundles go first (DESIGN CHOICE, log entry 42). -/
def execBundleDispatch (s : Fin 128) : State → Res := actMem fun w =>
  let g := w.dev.sag s
  match (if g.st = .running ∨ g.st = .draining then w.dev.toResume s else none) with
  | some x =>
    let pack := match w.dev.launchOf s x.bundle.launch with | some l => l.pack | none => false
    match w.dev.placeFor s pack with
    | some (cl, vu) =>
      let w := w.modSag s fun g => { g with saved := g.saved.filter fun y => !(y.cl == x.cl && y.vu == x.vu) }
      let w := w.modVu cl vu fun v => { v with sfuQ := v.sfuQ ++ x.sfuQ.map (SfuReq.moved cl vu), lost := x.lost }
      let w := w.modCmp fun c => { c with rowOps := c.rowOps.map (RowOp.moved x.bundle cl vu) }
      (w.place cl vu x.bundle).cbarCheck cl
    | none => w
  | none =>
    if g.st = .running then
      match (w.dev.thr s).current with
      | some l =>
        match w.dev.placeFor s l.pack with
        | some (cl, vu) =>
          let seed := w.dev.free
          let w := w.modDev fun d => { d with free := d.free + 4112 }
          (w.modLaunch s l.id fun l => { l with next := l.next + 1, running := l.running + 1 }).place cl vu (newBundle s l seed)
        | none => w
      | none => w
    else w

/-- A bundle of a saggar that runs or is saved. -/
def Dev.sagBusy (d : Dev) (s : Nat) : Bool :=
  (d.cmp.vus.any fun v => match v.2.bundle with | some b => b.sag == s | none => false) || (d.sag s).saved ≠ []

/-- A DRAINING saggar without bundles becomes OFF (R165). -/
def W.drainCheck (w : W) (s : Nat) : W :=
  if (w.dev.sag s).st = .draining ∧ !w.dev.sagBusy s then w.modSag s fun g => { g with st := .off } else w

/-- The status a launch ends with (R164). -/
def Launch.status (l : Launch) : Nat := if l.killed then 3 else if l.faulted then 2 else if l.nanHalted then 4 else 0

/-- Whether a launch has ended (R164, R171). -/
def Launch.ended (l : Launch) : Bool := l.running == 0 && (l.bundles ≤ l.next || l.faulted || l.killed)

def W.launchEnd (w : W) (s : Nat) (l : Launch) : W :=
  (w.modThr s fun t => { t with launches := t.launches.filter fun x => x.id ≠ l.id }).record s l.record.toNat
    (launchRecord l.status l.fflags l.done l.tag.toNat)

/-- BUNDLE_EXIT (R164): a bundle whose lanes have ended and whose operations are complete frees its vector unit; the last
one of a launch writes the launch record. A remote store that has failed since its lanes ended is reported (R191). The flags of a
terminated bundle's threads enter neither the record nor SAG.FLAGS (DESIGN CHOICE, log entry 42). -/
def execBundleExit (cl : Fin 256) (vu : Fin 4) : State → Res := actMem fun w =>
  match w.dev.bundle cl vu with
  | none => w
  | some b =>
    match w.dev.launchOf b.sag b.launch with
    | none => w
    | some l =>
      if b.live ≠ 0 ∨ b.memOut ≠ 0 ∨ b.asyncOut ≠ 0 ∨ b.trap ≠ .no ∨ b.faulted ∨ (w.dev.cl cl).switching.isSome
        ∨ (!w.dev.admits cl ∧ (w.dev.dom cl).cur ≠ .offline) then w
      else if b.storePoison ∧ !b.term then (w.storesTold cl vu).faultBundle cl vu 4 0 b.pc 0 0
      else
        let l := { l with running := l.running - 1, done := if b.term then l.done else satAdd 32 l.done 1
                          fflags := if b.term then l.fflags else l.fflags ||| b.allFlags }
        w.gated b.sag (if l.ended then [(.record, l.record.toNat, 16)] else []) fun w =>
          let w := ((w.touch cl).storesTold cl vu).modVu cl vu fun v => { v with bundle := none }
          let w := if b.term then w else w.modSag b.sag fun g => { g with flags := g.flags ||| b.allFlags }
          let w := w.modLaunch b.sag l.id fun _ => l
          ((if l.ended then w.launchEnd b.sag l else w).cbarCheck cl).drainCheck b.sag

/-- EXIT (R164, R191): the active lanes end. -/
def execExit (at_ : At) : State → Res := actMem fun w =>
  w.instr at_ fun w b act =>
    if b.storePoison then w.reportStores at_ act
    else (w.modBundle at_.cl at_.vu fun b => { b with live := b.live &&& ~~~act }).cbarCheck at_.cl

/-- Writing en = 1 (R165). -/
def W.sagEnable (w : W) (s : Nat) : W :=
  match (w.dev.sag s).st with
  | .off => (w.modSag s fun g => { g with st := .running, en := true }).modThr s fun t => { t with lastRing := 1 }
  | .draining => w.modSag s fun g => { g with st := .running, en := true }
  | _ => w

/-- Writing en = 0 (R165). -/
def W.sagDisable (w : W) (s : Nat) : W :=
  match (w.dev.sag s).st with
  | .running => (w.modSag s fun g => { g with st := .draining, en := false }).drainCheck s
  | _ => w

/-- The function requests that a switch has saved with a bundle complete before the kill discards it (R104, R166): they wait at the
vector unit that issued them; at an offline cluster they are lost. -/
def W.killSaved (w : W) (x : Saved) : W :=
  if x.sfuQ = [] then w
  else if (w.dev.cl x.cl).online then
    (w.modVu x.cl x.vu fun v => { v with sfuQ := v.sfuQ ++ x.sfuQ }).raiseWake x.cl false
  else x.sfuQ.foldl (fun w r => w.asyncDone r.who) w

/-- Writing kill = 1 (R166, R194). -/
def W.sagKill (w : W) (s : Nat) : W :=
  let w := (w.dev.sag s).saved.foldl W.killSaved w
  (w.modSag s fun g => { g with st := .killing, saved := g.saved.map fun x => { x with sfuQ := [] } }).modThr s fun t =>
    { t with launches := t.launches.map fun l => { l with killed := true } }

/-- A write to SAG.CTL (R198). Of one that sets kill, en is not taken: it reads as before until the kill ends (DESIGN CHOICE, log entry
43). -/
def W.sagCtl (w : W) (s : Nat) (v : Word) : W :=
  if (w.dev.sag s).st = .killing then w
  else if v.getLsbD 1 then w.sagKill s
  else if v.getLsbD 0 then w.sagEnable s
  else w.sagDisable s

/-- SAGGAR_ENABLE (R165). -/
def execSaggarEnable (ag : Agent) (s : Fin 128) : State → Res := act fun w =>
  w.regAccess ag (.view s true) (.write (.blk 0x30000 (0x100 * s)) 1) fun w => w.sagCtl s 1

/-- SAGGAR_DISABLE (R165). -/
def execSaggarDisable (ag : Agent) (s : Fin 128) : State → Res := act fun w =>
  w.regAccess ag (.view s true) (.write (.blk 0x30000 (0x100 * s)) 0) fun w => w.sagCtl s 0

/-- SAGGAR_KILL (R166). -/
def execSaggarKill (ag : Agent) (s : Fin 128) : State → Res := act fun w =>
  w.regAccess ag (.view s true) (.write (.blk 0x30000 (0x100 * s)) 2) fun w => w.sagCtl s 2

/-- Whether operations that a saggar's bundles have issued, resident and saved, are complete (R166). -/
def Dev.sagQuiet (d : Dev) (s : Nat) : Bool :=
  (d.cmp.vus.all fun v => match v.2.bundle with
    | some b => b.sag ≠ s || (b.memOut == 0 && b.asyncOut == 0 && b.waiting ≠ .access)
    | none => true) &&
  (d.sag s).saved.all fun x => x.bundle.memOut == 0 && x.bundle.asyncOut == 0

/-- Discard every bundle of a saggar, saved ones included (R166); a resident one has kept its cluster's idle timer back (R391). The
saggar's 16 barriers begin new rounds (DESIGN CHOICE, log entry 43). -/
def W.discardBundles (w : W) (s : Nat) : W :=
  let w := ((List.range 256).filter fun n => (List.range 4).any fun v => (w.dev.bundle n v).any fun b => b.sag == s).foldl W.touch w
  let w := w.modCmp fun c =>
    { c with
      vus := Tab.mapV (fun _ v => match v.bundle with
        | some b => if b.sag = s then { v with bundle := none } else v
        | none => v) c.vus }
  let w := (w.modSag s fun g => { g with saved := [] }).modThr s fun t => { t with bars := [] }
  w.showPoison s ((w.dev.sag s).owed.map Poison.word)

/-- One step of a kill's completions: a launch record, or a descriptor still posted. `none` when nothing is left to
complete; what cannot be done now leaves the state unchanged. -/
def W.killNext (w : W) (s : Nat) : Option W :=
  let t := w.dev.thr s
  match t.launches with
  | l :: _ => some (w.gated s [(.record, l.record.toNat, 16)] fun w => w.launchEnd s l)
  | [] =>
    if w.dev.launchReading s then some w
    else if t.r0.ready then some (w.takeAt s 0)
    else if t.r1.ready then some (w.takeAt s 1)
    else none

/-- What is left to complete of a kill. -/
def Dev.killLeft (d : Dev) (s : Nat) : Nat :=
  let t := d.thr s
  t.launches.length + (if t.r0.ready then t.r0.held else 0) + (if t.r1.ready then t.r1.held else 0)

/-- Complete launches and descriptors while that goes on (R166). -/
def W.killRun : Nat → W → Nat → W
  | 0, w, _ => w
  | n + 1, w, s =>
    match w.killNext s with
    | none => w
    | some w' => if w'.dev.killLeft s < w.dev.killLeft s then W.killRun n w' s else w'

/-- SAGGAR_KILL_DONE (R166). -/
def execSaggarKillDone (s : Fin 128) : State → Res := actMem fun w =>
  if (w.dev.sag s).st = .killing ∧ w.dev.sagQuiet s then
    let w := w.discardBundles s
    let w := W.killRun (w.dev.killLeft s + 1) w s
    if (w.killNext s).isNone then w.modSag s fun g => { g with st := .off, en := false } else w
  else w

end Sys2Proof.Machine
end

