-- ==== Sys2Proof/Machine/FabMgmt.lean ====
section
/-!
DEFINITION. Discovery, the master, admission, commits and fabric time (R337, R338, R348, R350–R359).
-/
namespace Sys2Proof.Machine

/-- A management packet other than HELLO comes by a port (R307, R337, R340, R348): one of another slice is discarded and counted. -/
def W.onMgmt (w : W) (p : Nat) (slice : BitVec 16) (k : W → W) : W :=
  if !w.dev.portUsable p then w else if slice ≠ w.dev.fab.sliceid then w.fabCnt 2 1 else k w

/-- Pass a message of the neighbour `src` on toward a chip, along the path by which its request came (R350). -/
def W.passBack (w : W) (src dst : BitVec 12) (m : Mgmt) : W :=
  match w.dev.fab.back.find? fun x => x.1 == dst.toNat with
  | some (_, v) => if v = src then w else w.mgmtTo v m
  | none => w

/-- Pass a request of the neighbour `src` on along the path toward the master: back to that neighbour only where this chip has just
ceased to be the master (R361). -/
def W.passUp (w : W) (src : BitVec 12) (m : Mgmt) : W :=
  match w.dev.fab.path with
  | some (v, _) => if v = src ∧ w.dev.fab.masterChip ≠ w.dev.fab.chip then w else w.mgmtTo v m
  | none => w

/-- Remember the neighbour by which a chip's requests come. -/
def W.noteBack (w : W) (src chip : BitVec 12) : W :=
  if w.dev.fab.chip = some chip then w else w.modFab fun f => { f with back := Tab.put f.back chip.toNat src }

/-- The neighbour toward a chip: the one by which its requests come, or itself. -/
def Dev.viaOf (d : Dev) (chip : BitVec 12) : Option (BitVec 12) :=
  match d.fab.back.find? fun x => x.1 == chip.toNat with
  | some (_, v) => some v
  | none => if (d.wayTo chip).isSome then some chip else none

def W.sawEpoch (w : W) (e : Word) : W :=
  w.modFab fun f => { f with highEpoch := if f.highEpoch.toNat < e.toNat then e else f.highEpoch }

/-- The path toward the master by a HELLO (R350): the neighbour with the fewest hops, then the lower chip number. -/
def betterPath (old : Option (BitVec 12 × Nat)) (c : BitVec 12) (h : Nat) : Option (BitVec 12 × Nat) :=
  match old with
  | none => some (c, h)
  | some (co, ho) => if c = co ∨ h < ho ∨ (h = ho ∧ c.toNat < co.toNat) then some (c, h) else some (co, ho)

/-- The path toward a master by a neighbour's HELLO: one that does not know its own distance yet, and so reports none, gives no path,
unless it is the master (DEDUCED, log entry 25). -/
def pathBy (old : Option (BitVec 12 × Nat)) (c : BitVec 12) (hops : Nat) (master : BitVec 12) : Option (BitVec 12 × Nat) :=
  if hops = 0 ∧ c ≠ master then old else betterPath old c hops

/-- Follow a master that the neighbour `c` reports, and ask to join (R350, R352, R356): at once, then at most every 100 ms. -/
def W.follow (w : W) (c : BitVec 12) (m : HelloMsg) (master : BitVec 12) : W :=
  let f := w.dev.fab
  let new := f.masterChip ≠ some master
  let w := w.modFab fun f =>
    { f with masterChip := some master, path := pathBy (if new then none else f.path) c m.hops master
             lastMaster := some w.dev.now }
  match f.state with
  | .alone | .joining =>
    let w := w.modFab fun f => { f with state := .joining, election := none }
    if new ∨ f.state = .alone ∨ f.lastJoin + 100000000 ≤ w.dev.now then w.sendJoin else w
  | _ => w

/-- A member's hash as the master learns it (R353). -/
def noteHash (now : Nat) (own h : Word) (m : Member) : Member :=
  { m with hash := h, differSince := if h = own then none else match m.differSince with | some t => some t | none => some now }

/-- Change a member's record. -/
def W.modMember (w : W) (chip : BitVec 12) (g : Member → Member) : W :=
  w.modFab fun f => { f with members := f.members.map fun m => if m.chip = chip then g m else m }

/-- Note a neighbour by its HELLO (R348, R350): one a cube port, one a position of the rack. -/
def noteNear (p : Nat) (m : HelloMsg) (l : List Near) : List Near :=
  if 6 ≤ p then (l.filter fun x => x.port ≠ p) ++ [⟨p, m.chip, m.slice⟩]
  else if m.chip = none then l
  else (l.filter fun x => decide (6 ≤ x.port) || x.chip ≠ m.chip) ++ [⟨p, m.chip, m.slice⟩]

/-- Whether a HELLO of an admitted chip shows the own slice to be stale (R356): a higher epoch, or an equal one under a lower master. -/
def helloStale (f : Fab) (m : HelloMsg) (master : BitVec 12) : Bool :=
  m.state == 2 && (decide (f.epoch.toNat < m.epoch.toNat) ||
    (f.epoch == m.epoch && f.masterChip.any fun x => decide (master.toNat < x.toNat)))

/-- A member learns its path toward the master it follows (R350); with the first one it tells the master of its ports (R353). -/
def W.learnPath (w : W) (c : BitVec 12) (hops : Nat) (master : BitVec 12) : W :=
  let new := w.dev.fab.path.isNone
  let w := w.modFab fun f => { f with path := pathBy f.path c hops master }
  if new ∧ w.dev.fab.path.isSome then w.sendUpdate else w

/-- HELLO (R337, R348, R350, R353, R356). Requests of a neighbour of another slice identity come no more. -/
def execHello (p : Fin 12) (m : HelloMsg) : State → Res := actMem fun w =>
  if !w.dev.isUp p then w
  else
    let w := w.modFab fun f => { f with near := noteNear p m f.near }
    let w := if 6 ≤ p.val then w.judgePorts else w
    if m.slice ≠ w.dev.fab.sliceid then w.modFab fun f => { f with back := f.back.filter fun x => m.chip ≠ some x.2 }
    else if !w.dev.portUsable p then w
    else
      let w := w.sawEpoch m.epoch
      match w.dev.fab.chip, m.chip, m.master with
      | some own, some c, some mc =>
        if c = own then w
        else
          let w := if w.dev.fab.master then w.modMember c (noteHash w.dev.now w.dev.chash m.hash) else w
          let f := w.dev.fab
          if f.state = .admitted then
            if helloStale f m mc then
              let w := w.staleReset m.epoch
              if mc = own then w else w.follow c m mc
            else if f.masterChip = some mc ∧ !f.master then w.learnPath c m.hops mc
            else w
          else if mc = own then w
          else w.follow c m mc
      | _, _, _ => w

/-- HELLO_TIMER (R350). -/
def execHelloTimer : State → Res := actMem fun w =>
  if w.dev.fab.lastHello + 100000000 ≤ w.dev.now then w.sayHello else w

/-- The best candidate of the round that runs (R351). The round of another candidate is over 5 ms after it was last heard of, in which
time it has become master or is gone (DESIGN CHOICE, log entry 25). -/
def Dev.leading (d : Dev) : Option (BitVec 12) :=
  match d.fab.election with
  | some e => if e.own || decide (d.now < e.since + 5000000) then some e.best else none
  | none => none

/-- ELECT (R351, R361): the lower candidate wins; each chip passes on only one lower than any before in the round. -/
def execElect (p : Fin 12) (src : BitVec 12) (slice : BitVec 16) (cand : BitVec 12) (epoch : Word) : State → Res := actMem fun w =>
  w.onMgmt p slice fun w =>
    if w.dev.fab.chip = none then w
    else
      let w := w.sawEpoch epoch
      let better : Bool := match w.dev.leading with | some b => decide (cand.toNat < b.toNat) | none => true
      if better then
        (w.modFab fun f => { f with election := some ⟨cand, false, w.dev.now⟩ }).mgmtAll
          (w.dev.mates.filter fun c => c ≠ src) (.elect cand slice epoch)
      else w

/-- Stand as candidate (R351). -/
def W.standElection (w : W) : W :=
  match w.dev.fab.chip with
  | none => w
  | some c =>
    let beaten : Bool := match w.dev.leading with | some b => decide (b.toNat ≤ c.toNat) | none => false
    if !w.dev.eligible || beaten then w
    else
      (w.modFab fun f => { f with election := some ⟨c, true, w.dev.now⟩ }).mgmtAll w.dev.mates
        (.elect c w.dev.fab.sliceid w.dev.fab.highEpoch)

/-- ELECTION_START (R351, R353): also by an admitted chip whose master is lost, once a round that it did not win has ended. -/
def execElectionStart : State → Res := actMem fun w =>
  let f := w.dev.fab
  match f.firstUp with
  | some t =>
    if (f.state = .alone ∨ f.state = .joining ∨ f.state = .admitted) ∧ f.masterChip = none ∧ t + 5000000 ≤ w.dev.now then
      w.standElection
    else w
  | none => w

/-- BECOME_MASTER (R351, R353): its epoch is one more than the highest it has seen; the other members are those of the last commit, but
for the master that was lost. -/
def execBecomeMaster : State → Res := actMem fun w =>
  let f := w.dev.fab
  match f.election, f.chip with
  | some e, some c =>
    if e.own ∧ e.best = c ∧ e.since + 5000000 ≤ w.dev.now ∧ f.masterChip = none ∧ w.dev.commitOpen then
      let me : Member := ⟨c, some Config.serial, w.dev.chash, w.dev.eligible, none, none, w.dev.portReport, none⟩
      let others : List Member := if f.state = .admitted then
          (f.members.filter fun m => m.chip ≠ c && f.memberChips.contains m.chip && f.lostMaster ≠ some m.chip).map fun m =>
            { m with via := w.dev.viaOf m.chip, differSince := none, table := none }
        else []
      let w := w.modFab fun f =>
        { f with epoch := if f.epoch.toNat < f.highEpoch.toNat then f.highEpoch else f.epoch, election := none }
      w.commitSlice (me :: others)
    else w
  | _, _ => w

/-- Send a member's or newcomer's request away (R352). -/
def refusal (chip : BitVec 12) (cause : Nat) : Mgmt := if cause = 1 then .refuse chip 1 else .quar chip (BitVec.ofNat 8 cause)

/-- Note a refusal or a quarantine (R352). -/
def W.noteAway (w : W) (serial cause : Nat) : W :=
  (w.fabCnt (if cause = 1 then 7 else 8) 1).event (if cause = 1 then 0x0601 else 0x0602) (srcOf 0xB 0) none [(4, cause), (8, serial)]

/-- The checks of R352 in their order: 0, or the cause. -/
def joinCause (d : Dev) (m : JoinMsg) : Nat :=
  if m.version.toNat / 2 ^ 8 ≠ 0x0200 then 1
  else if d.fab.members.any fun x => x.chip == m.chip && x.serial != some m.serial then 2
  else if m.hash ≠ d.chash then 3
  else 0

/-- JOIN (R350, R352, R354, R361): the answer goes back to the neighbour it came from. -/
def execJoin (p : Fin 12) (src : BitVec 12) (slice : BitVec 16) (m : JoinMsg) : State → Res := checkedMem m.wf fun w =>
  w.onMgmt p slice fun w =>
    let w := w.noteBack src m.chip
    if !w.dev.fab.master then w.passUp src (.join m)
    else
      let c := joinCause w.dev m
      if c ≠ 0 then (w.mgmt p (some src) (refusal m.chip c)).noteAway m.serial.toNat c
      else
        let w := w.mgmt p (some src) (.admission m.chip (w.dev.fab.epoch + 1))
        let ms := w.dev.fab.members.filter fun x => x.chip ≠ m.chip
        w.commitSlice (ms ++ [⟨m.chip, some m.serial, m.hash, m.eligible, some src, none, List.replicate 6 none ++ m.partners, none⟩])

/-- ADMIT (R352): the newcomer tells the master of its ports; its membership begins with the COMMIT. -/
def execAdmission (p : Fin 12) (src : BitVec 12) (slice : BitVec 16) (dst : BitVec 12) (epoch : Word) : State → Res := actMem fun w =>
  w.onMgmt p slice fun w =>
    if w.dev.fab.chip = some dst then
      (w.sawEpoch epoch).alongPath (.update ⟨dst, w.dev.portReport, w.dev.chash⟩)
    else w.passBack src dst (.admission dst epoch)

/-- QUAR (R348, R352, R353): the slice has lost this chip, and its quires with it a member (R377). -/
def execQuar (p : Fin 12) (src : BitVec 12) (slice : BitVec 16) (dst : BitVec 12) (cause : Byte) : State → Res := actMem fun w =>
  w.onMgmt p slice fun w =>
    if w.dev.fab.chip = some dst then
      let w := if w.dev.fab.state = .admitted then (w.breakQuires (fun _ => true) 0x89).dropSlice true else w
      ((w.modFab fun f => { f with state := .quarantine, cause := cause }).fabCnt 8 1).event 0x0602 (srcOf 0xB 0) none
        [(4, cause.toNat), (8, Config.serial.toNat)]
    else w.passBack src dst (.quar dst cause)

/-- REFUSE (R352). -/
def execRefuse (p : Fin 12) (src : BitVec 12) (slice : BitVec 16) (dst : BitVec 12) (cause : Byte) : State → Res := actMem fun w =>
  w.onMgmt p slice fun w =>
    if w.dev.fab.chip = some dst then
      ((w.modFab fun f => { f with state := .refused, cause := cause, refusedAs := f.chip }).fabCnt 7 1).event 0x0601 (srcOf 0xB 0) none
        [(4, cause.toNat), (8, Config.serial.toNat)]
    else w.passBack src dst (.refuse dst cause)

/-- TABLE (R347, R354): staged until the COMMIT, segment by segment. -/
def execTable (p : Fin 12) (src : BitVec 12) (slice : BitVec 16) (m : TableMsg) : State → Res := actMem fun w =>
  w.onMgmt p slice fun w =>
    if w.dev.fab.chip = some m.dst then
      w.modFab fun f => { f with staged := match f.staged with
        | some t => some (t.1 ++ (tableParts m).1, t.2 ++ (tableParts m).2)
        | none => some (tableParts m) }
    else w.passBack src m.dst (.table m)

/-- SLICE_COMMIT_MSG (R347, R353, R354, R356, R361): applied once and passed on, by a chip that it admits too; an epoch never decreases. A chip that the commit of
its own master leaves out has left; one that finds another master's slice ahead of its own is stale. -/
def execSliceCommitMsg (p : Fin 12) (src : BitVec 12) (slice : BitVec 16) (epoch : Word) (master : BitVec 12) (members : List HandMember) :
    State → Res := checkedMem (members.all HandMember.wf) fun w =>
  w.onMgmt p slice fun w =>
    let f := w.dev.fab
    let seen := f.highEpoch
    let w := w.sawEpoch epoch
    match f.chip with
    | none => w
    | some c =>
      let chips := members.map HandMember.chip
      let fresh := f.epoch.toNat < epoch.toNat ∨ (f.epoch = epoch ∧ (epoch = 0xFFFFFFFF ∨ f.state ≠ .admitted))
      let w := if seen.toNat < epoch.toNat ∨ epoch = 0xFFFFFFFF ∨ (fresh ∧ chips.contains c) then
          w.mgmtAll (w.dev.mates.filter fun x => x ≠ src) (.commit epoch master members) else w
      if !fresh then w
      else if chips.contains c then
        let changed := f.masterChip ≠ some master
        let w := w.modFab fun f =>
          { f with master := false, path := if changed then none else f.path, members := members.map fun x => ⟨x.chip, x.serial, x.hash, x.eligible, none, none, x.ports, none⟩ }
        w.applyCommit epoch master chips
      else if f.state ≠ .admitted then w
      else if f.masterChip = some master then (w.breakQuires (fun _ => true) 0x89).dropSlice false
      else w.staleReset epoch

/-- LEAVE (R353). -/
def execLeave (p : Fin 12) (src : BitVec 12) (slice : BitVec 16) (chip : BitVec 12) : State → Res := actMem fun w =>
  w.onMgmt p slice fun w =>
    if !w.dev.fab.master then w.passUp src (.leave chip)
    else if w.dev.fab.members.any (fun m => m.chip == chip) ∧ w.dev.fab.chip ≠ some chip then
      w.commitSlice (w.dev.fab.members.filter fun m => m.chip ≠ chip)
    else w

/-- HANDOVER (R351): the new master commits the next epoch. -/
def execHandover (p : Fin 12) (src : BitVec 12) (slice : BitVec 16) (m : HandoverMsg) : State → Res := checkedMem m.wf fun w =>
  w.onMgmt p slice fun w =>
    if w.dev.fab.chip = some m.dst then
      let ms : List Member := m.members.map fun x =>
        ⟨x.chip, x.serial, x.hash, x.eligible, if x.chip = m.dst then none else some ((w.dev.viaOf x.chip).getD src), none,
         if x.chip = m.dst then w.dev.portReport else x.ports, (m.tables.find? fun t => t.dst == x.chip).map tableParts⟩
      ((w.sawEpoch m.epoch).modFab fun f => { f with epoch := m.epoch }).commitSlice ms
    else w.passBack src m.dst (.handover m)

/-- UPDATE (R353): ports and hash of a member. -/
def execUpdate (p : Fin 12) (src : BitVec 12) (slice : BitVec 16) (m : UpdateMsg) : State → Res := checkedMem m.wf fun w =>
  w.onMgmt p slice fun w =>
    let w := w.noteBack src m.chip
    if !w.dev.fab.master then w.passUp src (.update m)
    else match w.dev.fab.members.find? fun x => x.chip == m.chip with
      | none => w
      | some x =>
        let w := w.modMember m.chip (noteHash w.dev.now w.dev.chash m.hash)
        let ms := w.dev.fab.members.map fun y => if y.chip = m.chip then { y with ports := m.ports, via := some src } else y
        if x.ports = m.ports ∧ x.via.isSome ∧ ¬(m.ports.all fun y => y = none) then w
        else w.commitSlice (w.dev.remaining ms x m.ports)

/-- MASTER_LOSS (R353). -/
def execMasterLoss : State → Res := actMem fun w =>
  let f := w.dev.fab
  match f.lastMaster with
  | some t =>
    if f.state = .admitted ∧ !f.master ∧ t + 10000000 ≤ w.dev.now then
      let old := f.masterChip
      (w.modFab fun f =>
        { f with masterChip := none, path := none, lastMaster := none, lostMaster := old }).standElection
    else w
  | none => w

/-- HASH_MISMATCH_TIMEOUT (R353). -/
def execHashMismatchTimeout (chip : BitVec 12) : State → Res := actMem fun w =>
  match w.dev.fab.master, w.dev.fab.members.find? fun m => m.chip == chip with
  | true, some m =>
    match m.differSince with
    | some t =>
      if t + 1000000000 < w.dev.now then
        let w := match m.via with
          | some v => (w.mgmtTo v (refusal chip 3)).noteAway (match m.serial with | some s => s.toNat | none => 0) 3
          | none => w
        w.commitSlice (w.dev.fab.members.filter fun x => x.chip ≠ chip)
      else w
    | none => w
  | _, _ => w

/-- QUARANTINE_REJOIN (R352). -/
def execQuarantineRejoin : State → Res := actMem fun w =>
  if w.dev.fab.state = .quarantine ∧ w.dev.fab.lastJoin + 1000000000 ≤ w.dev.now then w.sendJoin else w

/-- The chip's own hash has changed (R350, R352, R353): the master judges every member against its own. -/
def W.hashChanged (w : W) : W :=
  let own := w.dev.chash
  let now := w.dev.now
  let w := w.modFab fun f =>
    { f with members := f.members.map fun m => noteHash now own (if some m.chip = f.chip then own else m.hash) m }
  let w := w.sayHello
  let w := if w.dev.fab.master then w else w.sendUpdate
  if w.dev.fab.state = .quarantine then w.sendJoin else w

/-- Set the chip-number override (R338, R362). -/
def W.setChipov (w : W) (v : Word) : W := (w.modFab fun f => { f with chipov := v &&& 0x80000FFF }).rechip

/-- CHIPOV_WRITE (R338). -/
def execChipovWrite (ag : Agent) (v : Word) : State → Res := actMem fun w => w.regAccess ag .glob (.write (.blk 0x2000 0x10) v) fun w => w.setChipov v

/-- Set the slice identity (R348, R353): of the new one no epoch has been seen (R351). -/
def W.setSliceid (w : W) (v : BitVec 16) : W :=
  if v = w.dev.fab.sliceid then w
  else
    let w := w.leaveSlice
    (w.modFab fun f =>
      { f with sliceid := v, path := none, masterChip := none, lastMaster := none, epoch := 0, highEpoch := 0 }).hashChanged

/-- SLICEID_WRITE (R348). -/
def execSliceidWrite (ag : Agent) (v : Word) : State → Res := actMem fun w =>
  w.regAccess ag .glob (.write (.blk 0x2000 0x14) v) fun w => w.setSliceid (v.setWidth 16)

/-- A write to FAB.TWIST (R336, R359). -/
def W.twistReg (w : W) (k : Nat) (v : Word) : W :=
  let t := bits v.toNat 5 0
  let s := bits v.toNat 13 8
  if bit t k || bit s k || t &&& s ≠ 0 then w.modFab fun f => { f with errTwist := true }
  else
    let old := w.dev.chash
    let w := w.modFab fun f => { f with twist := Tab.put f.twist k (BitVec.ofNat 32 (t + s * 256)) }
    if w.dev.chash = old then w else w.hashChanged

/-- TWIST_WRITE (R359). -/
def execTwistWrite (ag : Agent) (d : Fin 6) (v : Word) : State → Res := actMem fun w =>
  w.regAccess ag .glob (.write (.blk 0x2000 (0x20 + 4 * d)) v) fun w => w.twistReg d v

/-- TSYNC (R353, R357): answered with its echo and the own times. -/
def execTsync (p : Fin 12) (src : BitVec 12) (slice : BitVec 16) (t : DWord) : State → Res := actMem fun w =>
  w.onMgmt p slice fun w =>
    if w.dev.fab.state = .admitted ∧ !w.dev.fab.master then
      let now := w.dev.fab.time
      (w.modFab fun f => { f with lastMaster := some w.dev.now }).mgmt p (some src) (.tsyncr t now now)
    else w

/-- TSYNCR (R357, R358): the exchange of a child with its parent ends with an offset, parent less own, and a round-trip
time. The master is its slice's reference: its own exchanges leave no offset (DEDUCED, log entry 25). -/
def execTsyncr (p : Fin 12) (_src : BitVec 12) (slice : BitVec 16) (offset : Int) (rtt : Nat) : State → Res := actMem fun w =>
  w.onMgmt p slice fun w =>
    let f := w.dev.fab
    if f.state ≠ .admitted then w
    else
      let off : Int := if f.master then 0 else offset
      let skew := if f.master then 0 else offset.natAbs + rtt / 2
      let good := if skew ≤ 1000 then min 8 (f.good + 1) else 0
      let w := w.modFab fun f =>
        { f with skew := satBv 0 skew, lastExch := some w.dev.now, good := good
                 untrusted := decide (1000 < skew) || (f.untrusted && decide (good < 8)) }
      if 100000 < off then w.modFab fun f => { f with time := f.time + BitVec.ofInt 64 off, slewLeft := 0 }
      else w.modFab fun f => { f with slewLeft := off }

/-- The neighbours by which this chip's children joined (R357), each once. -/
def Dev.children (d : Dev) : List (BitVec 12) := (d.fab.back.map Prod.snd).eraseDups

/-- TSYNC_TIMER (R357). -/
def execTsyncTimer : State → Res := actMem fun w =>
  let f := w.dev.fab
  if f.state = .admitted ∧ f.lastTsync + 1000000 ≤ w.dev.now then
    (w.modFab fun f => { f with lastTsync := w.dev.now }).mgmtAll w.dev.children (.tsync f.time)
  else w

/-- TSYNC_MISSING (R358). -/
def execTsyncMissing : State → Res := actMem fun w =>
  let late : Bool := match w.dev.fab.lastExch with | some t => decide (t + 10000000 ≤ w.dev.now) | none => true
  if late then w.modFab fun f => { f with untrusted := true, good := 0 } else w

end Sys2Proof.Machine
end

