-- ==== Sys2Proof/Machine/Flash.lean ====
section
/-!
DEFINITION. The flash: the energy rule, the log mirror, the final snapshot and its records, the configuration record
(R423–R427, R436, R438–R440, R465, R475, R486).
-/
namespace Sys2Proof.Machine

/-- The kind of backup store: 0 none, 1 supercapacitor, 2 battery; 3 acts as 0 (R434). -/
def Aon.kind (a : Aon) : Nat := if bits a.bakcfg.toNat 25 24 = 3 then 0 else bits a.bakcfg.toNat 25 24

/-- The usable energy in µJ at the VBAK last measured (R423). -/
def Aon.usable (a : Aon) : Nat :=
  let size := bits a.bakcfg.toNat 23 0
  if a.vbak < 2500 then 0
  else if a.kind = 1 then 4 * size * (a.vbak * a.vbak - 6250000) / 10000
  else if a.kind = 2 then size * 1000 * min (a.vbak - 2700) 600 / 600
  else 0

/-- AON.BAK.charge (R424). -/
def Aon.charging (a : Aon) : Bool := a.powered && a.kind == 1 && !a.vbakSrc && decide (a.vbak < 3300)

/-- Estimate E (R423). -/
def W.estimate (w : W) : W := w.modAon fun a => { a with energy := min a.usable 0xFFFFFFFF }

/-- Costs in µJ (R425, R426): a page program, a sector erase, the brown reserve. -/
def progCost : Nat := 600
def eraseCost : Nat := 3000
def brownCost : Nat := 1200

/-- Whether a normal flash operation of a cost may start (R425). -/
def Aon.mayFlash (a : Aon) (cost : Nat) : Bool :=
  if a.vbakSrc then false
  else if a.kind = 0 then decide (3150 ≤ a.vaux)
  else decide (cost + brownCost ≤ a.usable)

/-- Whether the mirror may start an operation of a cost (R425, R426). -/
def Aon.mayMirror (a : Aon) (cost : Nat) : Bool :=
  !a.closed && (if a.vbakSrc then decide (38600 ≤ a.usable) else a.mayFlash cost)

/-- Put a flash operation behind those that wait; on an idle flash it has started. -/
def W.startOp (w : W) (op : FlashOp) : W := w.modLog fun l => { l with ops := l.ops ++ [op] }

/-- Whether a log sector is wholly erased. -/
def sectorErased (m : Mem) (k : Nat) : Bool :=
  !(m.flash.any fun c => decide (logArea + 4096 * k ≤ c.1) && decide (c.1 < logArea + 4096 * k + 4096))

/-- The sector that the mirror must erase before it goes on: its own at the start of one, else the sector ahead (R475). -/
def mirrorErase (m : Mem) (page : Nat) : Option Nat :=
  let k := page / 16
  if page % 16 = 0 ∧ !sectorErased m k then some k
  else if !sectorErased m ((k + 1) % 2048) then some ((k + 1) % 2048)
  else none

def nextPage (p : Nat) : Nat := (p + 1) % 32768

/-- How many entries are not mirrored. -/
def Log.behind (l : Log) : Nat := (l.next - l.unm).toNat

/-- The bytes of the ring's entry of a sequence number; open bytes never: an entry that the ring lost is counted there. -/
def Log.entryBytes (l : Log) (seq : Word) : List Byte :=
  match l.ringEntry seq with | some e => e.bytes | none => List.replicate 128 0

/-- The page that the mirror programs next: two entries, or one with zeros after it (R475). -/
def Log.pageBytes (l : Log) (n : Nat) : List Byte :=
  zeroPad 256 ((List.range n).flatMap fun i => l.entryBytes (l.unm + BitVec.ofNat 32 i))

/-- The entries that a log sector held are held no more (R475). -/
def W.unholdSector (w : W) (k : Nat) : W :=
  let held := ((rangeFrom (32 * k) 32).map (slotBytes w.mem)).filter fun b =>
    isEntry b && w.dev.log.inMirror (BitVec.ofNat 32 (leAt b 4 4))
  match held.getLast? with
  | some b => w.modLog fun l => { l with oldm := BitVec.ofNat 32 (leAt b 4 4 + 1) }
  | none => w

/-- Start the erase of a log sector (R475, R486). -/
def W.eraseSector (w : W) (k : Nat) : W :=
  ((w.unholdSector k).modLog fun l => { l with erases := Tab.put l.erases k (w.dev.now + 1), mwear := false, menergy := false }).startOp
    ⟨true, logArea + 4096 * k, [], .mirror w.dev.log.unm⟩

/-- Whether a sector was erased less than an hour ago (R486). -/
def Log.worn (l : Log) (now k : Nat) : Bool :=
  Tab.look 0 l.erases k ≠ 0 && decide (now < Tab.look 0 l.erases k - 1 + 3600000000000)

/-- Start the mirror's next operation where the flash is idle: an erase ahead, or a page of two entries (R425, R426, R475, R486). -/
def W.mirrorNext (w : W) : W :=
  let l := w.dev.log
  let a := w.dev.aon
  if !a.powered || a.closed || a.snap.isSome || l.mfail.isSome || !l.ops.isEmpty then w
  else match mirrorErase w.mem l.mpage with
    | some k =>
      if l.worn w.dev.now k then w.modLog fun l => { l with mwear := true }
      else if !a.mayMirror eraseCost then w.modLog fun l => { l with menergy := true }
      else w.eraseSector k
    | none =>
      if l.behind < 2 then w.modLog fun l => { l with mwear := false, menergy := false }
      else if !a.mayMirror progCost then w.modLog fun l => { l with menergy := true }
      else (w.modLog fun l => { l with menergy := false, mwear := false }).startOp
        ⟨false, logArea + 256 * l.mpage, l.pageBytes 2, .mirror (l.unm + 2)⟩

/-- MIRROR_PROGRAM (R475). -/
def execMirrorProgram : State → Res := act fun w => w.mirrorNext

/-- MIRROR_RETRY (R465): 1 s after the pause. -/
def execMirrorRetry : State → Res := act fun w =>
  match w.dev.log.mfail with
  | some t => if w.dev.now < t + 1000000000 then w else (w.modLog fun l => { l with mfail := none, failRow := 0 }).mirrorNext
  | none => w

/-- A closing or brown record (R427). -/
def W.recordBytes (w : W) (kind : Nat) : List Byte :=
  let a := w.dev.aon
  let l := w.dev.log
  let body := leBytes 4 (kind * 2 ^ 24 + 0x00014252) ++ leBytes 4 a.epi.toNat ++ leBytes 4 l.unm.toNat ++ leBytes 4 l.next.toNat ++
    leBytes 8 w.dev.stampTime.toNat ++ leBytes 4 (a.vaux % 65536 + a.vbak % 65536 * 65536) ++ leBytes 4 (min a.usable 0xFFFFFFFF) ++
    List.replicate 28 0
  body ++ leBytes 4 (crc32 body)

/-- The program of a record into its own page, as it starts (R427, R475). -/
def W.recordOp (w : W) (kind : Nat) : FlashOp :=
  ⟨false, logArea + 256 * w.dev.log.mpage, zeroPad 256 (w.recordBytes kind), .record kind⟩

/-- The pages that the final snapshot programs at most (R426). -/
def snapPages : Nat := 61

/-- Nothing can be written any more, and the flash is closed (R426 steps 4 and 5). -/
def W.unsaved (w : W) : W := w.modAon fun a => { a with unsaved := true, closed := true, snap := none }

/-- The next operation of the final snapshot on an idle flash: its next page, or its closing record (R426, R475). Where E has fallen below
38 mJ before the first of them, a brown record takes their place (R426 step 3); none starts without the energy to finish it, and a page
leaves what the closing record needs (R425). -/
def W.snapNext (w : W) : W :=
  match w.dev.aon.snap with
  | none => w
  | some (upto, pages) =>
    let l := w.dev.log
    let left := (upto - l.unm).toNat
    let energy := w.dev.aon.usable
    let late := pages == snapPages && decide (energy < 38000)
    if l.ops ≠ [] then w
    else if energy < brownCost then w.unsaved
    else if late then (w.modAon fun a => { a with snap := none }).startOp (w.recordOp 2)
    else if left = 0 ∨ 2 ^ 31 ≤ left ∨ l.mfail.isSome ∨ pages = 0 ∨ energy < progCost + brownCost then w.startOp (w.recordOp 1)
    else
      let n := min 2 left
      (w.modAon fun a => { a with snap := some (upto, pages - 1) }).startOp
        ⟨false, logArea + 256 * l.mpage, l.pageBytes n, .snapshot (l.unm + BitVec.ofNat 32 n)⟩

/-- Start the flash operation that stands first, under the energy rule as it stands now (R425, R426, R431): one that it refuses
changes nothing, its command fails with er 502, and the next takes its place. On an idle flash the snapshot goes on. -/
def W.beginFirst : Nat → W → W
  | 0, w => w
  | n + 1, w =>
    match w.dev.log.ops with
    | [] => w.snapNext
    | op :: t =>
      let drop (w : W) : W := w.modLog fun l => { l with ops := t }
      let put (w : W) (op : FlashOp) : W := w.modLog fun l => { l with ops := op :: t }
      let a := w.dev.aon
      let goes := a.mayFlash (if op.erase then eraseCost else progCost)
      match op.use with
      | .record 3 => if 2950 ≤ a.vaux then put w (w.recordOp 3) else W.beginFirst n (drop w)
      | .record k => if brownCost ≤ a.usable then put w (w.recordOp k) else W.beginFirst n (drop w).unsaved
      | .cfg _ => if goes then w else W.beginFirst n ((drop w).modLog fun l => { l with cfgw := none, cfgRes := some 502 })
      | .clear wanted _ =>
        if wanted && goes then w.unholdSector ((op.off - logArea) / 4096)
        else W.beginFirst n ((drop w).modLog fun l => { l with cfgRes := if wanted then some 502 else l.cfgRes })
      | _ => w

/-- A flash operation has ended: start the next (R425). -/
def W.nextOp (w : W) : W := w.beginFirst (w.dev.log.ops.length + 1)

/-- Ask for a flash operation: it starts at once on an idle flash, else in its turn (R425). -/
def W.askOp (w : W) (op : FlashOp) : W :=
  let idle := w.dev.log.ops.isEmpty
  let w := w.startOp op
  if idle then w.nextOp else w

/-- Ask for a closing or brown record. -/
def W.startRecord (w : W) (kind : Nat) : W := w.askOp ⟨false, logArea, [], .record kind⟩

/-- What VBAK's energy calls for (R426): the snapshot, a brown record, or nothing but the flag. -/
def W.vbakCheck (w : W) : W :=
  let a := w.dev.aon
  let busy := w.dev.log.ops.any fun o => match o.use with | .record _ => true | _ => false
  if !a.vbakSrc || a.closed || a.snap.isSome || busy || decide (38600 ≤ a.usable) then w
  else if 38000 ≤ a.usable then (w.modAon fun a => { a with snap := some (w.dev.log.next, snapPages) }).snapNext
  else if brownCost ≤ a.usable then w.startRecord 2
  else w.unsaved

/-- The bytes of a configuration record (R439). -/
def Cfg.bytes (c : Cfg) : List Byte :=
  let body := leBytes 4 0x00014346 ++ leBytes 4 c.gen.toNat ++ leBytes 4 c.bak.toNat ++ leBytes 4 c.kid.toNat ++ zeroPad 32 c.key ++
    leBytes 4 c.extent.toNat ++ leBytes 4 c.slice.toNat ++ leBytes 8 0 ++ zeroPad 32 c.lanes ++ leBytes 4 c.boots.length ++
    List.replicate 28 0 ++ zeroPad 256 (c.boots.flatMap fun b => leBytes 4 b.1.toNat ++ leBytes 4 b.2.toNat) ++ List.replicate 124 0
  body ++ leBytes 4 (crc32 body)

def allZero (l : List Byte) : Bool := l.all (· == 0)

/-- The validity of a sector (R440, R478): 0 valid, 1 absent or with a wrong magic or version, 2 a CRC or field mismatch. -/
def cfgState (b : List Byte) : Nat :=
  let sl (o n : Nat) := (b.drop o).take n
  if leAt b 0 3 ≠ 0x014346 then 1
  else if crc32 (b.take 0x1FC) ≠ leAt b 0x1FC 4 ∨ leAt b 3 1 ≠ 0 ∨ !allZero (sl 0x36 2) ∨ !allZero (sl 0x38 8) ∨
    32 < leAt b 0x60 4 ∨ !allZero (sl 0x64 28) ∨ !allZero (sl 0x180 0x7C) ∨
    (leAt b 0xC 4 = 0 ∧ !allZero (sl 0x10 32)) ∨ leAt b 4 4 = 0 then 2
  else 0

/-- What a record says (R439). -/
def cfgParse (sector : Nat) (b : List Byte) : Cfg :=
  { gen := BitVec.ofNat 32 (leAt b 4 4), sector, bak := BitVec.ofNat 32 (leAt b 8 4), kid := BitVec.ofNat 32 (leAt b 0xC 4)
    key := (b.drop 0x10).take 32, extent := BitVec.ofNat 32 (leAt b 0x30 4), slice := BitVec.ofNat 16 (leAt b 0x34 2)
    lanes := (b.drop 0x40).take 32
    boots := (List.range (leAt b 0x60 4)).map fun i => (BitVec.ofNat 32 (leAt b (0x80 + 8 * i) 4), BitVec.ofNat 32 (leAt b (0x84 + 8 * i) 4)) }

/-- The record in force (R440), and whether none is valid. -/
def cfgChoose (m : Mem) : Cfg × Nat × Nat :=
  let a := m.bytes .flash 0 512
  let b := m.bytes .flash 0x1000 512
  let sa := cfgState a
  let sb := cfgState b
  let c :=
    if sa = 0 ∧ (sb ≠ 0 ∨ leAt b 4 4 ≤ leAt a 4 4) then cfgParse 0 a
    else if sb = 0 then cfgParse 1 b
    else .default
  (c, sa, sb)

/-- Read and choose the configuration record (R435, R440); `note` says that defaults from invalid records write their
event. -/
def W.loadCfg (w : W) (note : Bool) : W :=
  let (c, sa, sb) := cfgChoose w.mem
  if w.dev.start.strap.getLsbD 3 then w.modStart fun s => { s with cfg := .default }
  else
    let w := w.modStart fun s => { s with cfg := c }
    if note ∧ sa ≠ 0 ∧ sb ≠ 0 then w.event 0x0103 (srcOf 15 0) none [(4, sa), (4, sb)] else w

/-- A valid lane allocation record's counts (R304). -/
def lanesParse (l : List Byte) : Option (List Nat) :=
  let n := ((l.drop 4).take 12).map BitVec.toNat
  if leAt l 0 3 = 0x014C41 ∧ n.length = 12 ∧ (n.all fun x => x % 2 == 0 && x ≤ 96) ∧ n.sum ≤ 96 ∧
     crc32 (l.take 0x1C) = leAt l 0x1C 4 then some n else none

/-- A lane allocation record (R304). -/
def lanesBytes (n : List Nat) : List Byte :=
  let body := leBytes 4 0x00014C41 ++ n.map (BitVec.ofNat 8) ++ List.replicate 12 0
  body ++ leBytes 4 (crc32 body)

/-- The default allocation (R303). -/
def laneDefault : List Nat := [8, 8, 8, 8, 8, 8, 12, 10, 8, 8, 6, 4]

/-- Begin the write of a new configuration record into the other sector (R440): `none` where the energy rule refuses. -/
def W.startCfg (w : W) (c : Cfg) (keyBy : Option Nat) : Option W :=
  if !w.dev.aon.mayFlash eraseCost then none
  else
    let sector := 1 - w.dev.start.cfg.sector
    let c := { c with gen := w.dev.start.cfg.gen + 1, sector }
    some ((w.modLog fun l => { l with cfgw := some ⟨sector, c.bytes, c, keyBy⟩, cfgRes := none }).askOp ⟨true, 0x1000 * sector, [], .cfg 0⟩)

/-- A change of the key has reached the flash (R270, R299): logged, and every session at service is lowered, also where the
command that asked for it has gone. -/
def W.keyChanged (w : W) (n kid : Nat) : W :=
  let w := w.event 0x0806 (srcOf 0x0A n) none [(4, kid)]
  [0, 1].foldl (fun w k => w.modSess k fun s => { s with priv := if s.priv = 2 then 1 else s.priv }) w

/-- A step of a configuration record's write has ended (R440, R465, R425). -/
def W.cfgStep (w : W) (stage : Nat) (ok : Bool) : W :=
  match w.dev.log.cfgw with
  | none => w
  | some x =>
    let fail (w : W) (code : Nat) : W := w.modLog fun l => { l with cfgw := none, cfgRes := some code }
    if !ok then fail w 501
    else if stage = 2 then
      let w := (w.modStart fun s => { s with cfg := x.cfg }).modLog fun l => { l with cfgw := none, cfgRes := some 0 }
      match x.keyBy with | some n => w.keyChanged n x.cfg.kid.toNat | none => w
    else w.startOp ⟨false, 0x1000 * x.sector + 256 * stage, (x.bytes.drop (256 * stage)).take 256, .cfg (stage + 1)⟩

/-- A mirror page has failed (R465): it is left, and the entries go into the next page, once; a second failure in a row
pauses the mirror. -/
def W.mirrorFailed (w : W) (off : Nat) (page : Bool) : W :=
  let w := w.modLog fun l => { l with bad := if page then satBv l.bad 1 else l.bad, failRow := l.failRow + 1 }
  if 2 ≤ w.dev.log.failRow then
    (w.modLog fun l => { l with mfail := some w.dev.now }).event 0x0901 (srcOf 15 0) none [(8, off)]
  else w

/-- The mirror has reached a sequence number (R475). -/
def Log.mirrored (l : Log) (upto : Word) : Log :=
  { l with failRow := 0, unm := if (upto - l.unm).toNat < 2 ^ 31 then upto else l.unm }

/-- FLASH_PROGRAM_DONE (R425, R426, R440, R465): a failed page holds open bytes. -/
def execFlashProgramDone (ok : Bool) : State → Res := act fun w =>
  match w.dev.log.ops with
  | [] => w
  | op :: t =>
    if op.erase then w
    else
      let (junk, w) := if ok then (op.bytes, w) else w.drawBytes op.bytes.length
      let w := (w.store .flash op.off junk).modLog fun l => { l with ops := t }
      let past (w : W) : W := w.modLog fun l => { l with mpage := nextPage l.mpage }
      match op.use with
      | .mirror upto =>
        let w := past w
        (if ok then w.modLog fun l => l.mirrored upto else w.mirrorFailed op.off true).nextOp
      | .snapshot upto =>
        let w := past w
        (if ok then w.modLog fun l => l.mirrored upto else w.mirrorFailed op.off true).nextOp
      | .record kind =>
        let w := past w
        let w := if ok then w.modAon fun a => { a with brown := BitVec.ofNat 32 (kind * 2 ^ 24 + leAt op.bytes 4 4 % 2 ^ 24) } else w
        (if kind = 3 then w else w.modAon fun a => { a with closed := a.vbakSrc, snap := none }).nextOp
      | .cfg stage => (w.cfgStep stage ok).nextOp
      | .clear _ _ => w.nextOp

/-- The ring and the mirror are emptied; an entry records the clear, with the entries held before (R294). -/
def W.logEmpty (w : W) : W :=
  let l := w.dev.log
  let held := (l.ring.filter fun e => !l.inMirror e.seq).length + (l.unm - l.oldm).toNat
  let sess := match w.dev.con.run with | some r => r.sess | none => 0
  (w.modLog fun l => { l with ring := [], unm := l.next, oldm := l.next, mpage := 0 }).event 0x0801 (srcOf 0x0A sess) none [(4, held)]

/-- The command of a flash operation is answered at its limit (R282): the operation begun runs to its end and has no further
effect; one that waits is not begun. -/
def Log.giveUp (l : Log) : Log :=
  let mine (o : FlashOp) : Bool := match o.use with | .cfg _ | .clear _ _ => true | _ => false
  let calm (o : FlashOp) : FlashOp := match o.use with | .clear _ k => { o with use := .clear false k } | _ => o
  { l with cfgw := none, cfgRes := none, ops := (l.ops.take 1).map calm ++ (l.ops.drop 1).filter fun o => !mine o }

/-- A sector of `log clear` has been erased (R294, R465): the next in the mirror's circular order follows, and after the last of them
the ring and the mirror are empty. -/
def W.clearStep (w : W) (off : Nat) (ok wanted : Bool) (left : Nat) : W :=
  if !wanted then w
  else if !ok then w.modLog fun l => { l with cfgRes := some 501 }
  else if left = 0 then w.logEmpty.modLog fun l => { l with cfgRes := some 0 }
  else w.startOp ⟨true, logArea + (off - logArea + 4096) % 0x800000, [], .clear true (left - 1)⟩

/-- FLASH_ERASE_DONE (R294, R425, R440, R465): a failed erase leaves open bytes. A good one of the mirror does not end a row of failures, which
only a good page does. -/
def execFlashEraseDone (ok : Bool) : State → Res := act fun w =>
  match w.dev.log.ops with
  | [] => w
  | op :: t =>
    if !op.erase then w
    else
      let w := w.modLog fun l => { l with ops := t }
      let w := if ok then w.put (.clearRange .flash op.off 4096) else (let (junk, w) := w.drawBytes 4096; w.store .flash op.off junk)
      match op.use with
      | .cfg stage => (w.cfgStep stage ok).nextOp
      | .clear wanted left => (w.clearStep op.off ok wanted left).nextOp
      | _ => (if ok then w else w.mirrorFailed op.off false).nextOp

end Sys2Proof.Machine
end

