-- ==== Sys2Proof/Machine/Supply.lean ====
section
/-!
DEFINITION. The supplies and the always-on domain's backup side (R409–R434).
-/
namespace Sys2Proof.Machine

/-- Whether a start-up is under way (R455). -/
def Start.running (s : Start) : Bool := s.state == .seq || s.state == .test || s.state == .load

/-- PWRON_RISE (R413, R447): from STANDBY the power-on sequence runs, as a cold reset of cause 0x01; a power-down that is commanded
reaches STANDBY first. -/
def execPwronRise : State → Res := act fun w =>
  if w.dev.sup.pwron then w
  else
    let w := w.modSup fun s => { s with pwron := true }
    if w.dev.aon.powered then w.modStart fun s => s.ask 0x01 else w

/-- PWRON_FALL (R413, R448): an orderly entry of the hub, then the rails; during a start the rails at once. -/
def execPwronFall : State → Res := act fun w =>
  if !w.dev.sup.pwron then w
  else
    let w := w.modSup fun s => { s with pwron := false, stay := false, restartAt := none }
    let w := w.modStart fun s => { s with pend := none }
    match w.dev.start.state with
    | .ready | .failed => (w.modSup fun s => { s with down := true }).orderlyStart
    | _ => w.dropRails.loseMain

/-- RAIL_GOOD (R412): the next rail of the sequence is enabled. -/
def execRailGood (k : Fin 6) (mv : Nat) : State → Res := act fun w =>
  match w.dev.sup.seq with
  | .up j _ =>
    if j ≠ k.val then w
    else w.modSup fun s =>
      { s with mv := Tab.put s.mv k mv, good := s.good ||| BitVec.ofNat 6 (2 ^ k.val)
               seq := if k.val < lastRail then .up (k + 1) w.dev.now else .on }
  | _ => w

/-- RAIL_GOOD_TIMEOUT (R412): not good within 10 ms, the sequence ends and the power-down order applies. -/
def execRailGoodTimeout : State → Res := act fun w =>
  match w.dev.sup.seq with
  | .up _ t => if w.dev.now < t + 10000000 then w else w.dropRails.loseMain
  | _ => w

/-- RAIL_FALL_TIMEOUT (R412). -/
def execRailFallTimeout : State → Res := act fun w =>
  match w.dev.sup.seq with
  | .down k t => if w.dev.now < t + 10000000 then w else w.railFallen k
  | _ => w

/-- Whether the warning levels are armed (R419): the hub is ACTIVE or IDLE, not past the commit point of an entry to BANKED, and has
not reached ACTIVE within the last 100 µs. -/
def Dev.warnArmed (d : Dev) : Bool :=
  let banking : Bool := match (d.dom hubDom).entry with | some e => e.committed && e.tgt == .banked | none => false
  d.hubLive && !banking && decide (d.sup.activeAt + 100000 ≤ d.now)

/-- Raise a throttle source (R420, R421): an episode begins with the first. -/
def W.throttle (w : W) (src : Nat) : W :=
  let w := match w.dev.sup.episode with
    | some _ => w
    | none => w.modSup fun s => { s with episode := some ⟨w.dev.now, 0, 0, [0, 0, 0]⟩, cnt := cntAdd s.cnt 1 1 }
  w.modSup fun s => { s with episode := s.episode.map fun e => { e with sources := e.sources ||| BitVec.ofNat 3 (2 ^ src) } }

/-- The lowest voltages of an episode with one more reading (R421). -/
def lower (low : List Nat) (i mv : Nat) : List Nat :=
  low.zipIdx.map fun x => if x.2 = i ∧ (x.1 = 0 ∨ mv < x.1) then mv else x.1

/-- RAIL_WARNING_CROSSING (R419–R421). -/
def execRailWarningCrossing (k : Fin 6) (mv : Nat) : State → Res := act fun w =>
  let hit : Bool := match warnLevel k with | some l => decide (mv < l) | none => false
  if !hit ∨ !w.dev.warnArmed ∨ !w.dev.sup.good.getLsbD k then w
  else
    let now := w.dev.now
    let w := w.throttle 2
    w.modSup fun s =>
      let recent := (s.crossings.filter fun t => decide (now < t + 1000000000)) ++ [now]
      { s with mv := Tab.put s.mv k mv, warn := true, warnAt := now, cnt := cntAdd s.cnt 0 1, crossings := recent
               warnNow := s.warnNow ||| BitVec.ofNat 6 (2 ^ k.val)
               holdUntil := if 9 ≤ recent.length then some (now + 1000000000) else s.holdUntil
               episode := s.episode.map fun e => { e with crossings := e.crossings + 1, low := lower e.low (k - 2) mv } }

/-- RAIL_RESET_CROSSING (R412, R413): while the rails go down, the fall that the order awaits. -/
def execRailResetCrossing (k : Fin 6) (mv : Nat) : State → Res := act fun w =>
  if !belowReset k mv then w
  else
    let w := w.modSup fun s => { s with mv := Tab.put s.mv k mv }
    match w.dev.sup.seq with
    | .down j _ => if j = k.val then w.railFallen k else w
    | .on | .up _ _ =>
      if w.dev.sup.good.getLsbD k then (w.eventFirst 0x0203 (srcOf 8 k) [(4, mv)]).railReset true else w
    | .off => w

/-- RESTART_TIMER (R413, R447). -/
def execRestartTimer : State → Res := act fun w =>
  match w.dev.sup.restartAt with
  | some t =>
    if w.dev.now < t ∨ !w.dev.sup.pwron ∨ w.dev.sup.seq ≠ .off then w
    else
      (w.modSup fun s => { s with restartAt := none, restarts := s.restarts ++ [w.dev.now] }).modStart fun s =>
        s.ask 0x04
  | none => w

/-- Lost phases (R416). -/
def Sup.lost (s : Sup) : Nat := ((List.range 16).filter fun i => s.dropped.getLsbD i).length

/-- ILIM in A and the package power cap in W, 0 for none (R414, R416). -/
def Sup.ilim (s : Sup) : Nat := 50 * (16 - s.lost)
def Sup.capW (s : Sup) : Nat := if 2 ≤ s.lost then 384 else 0

/-- CURRENT_LIMIT (R420): VCORE current above ILIM for 1 µs. -/
def execCurrentLimit : State → Res := act fun w =>
  if !w.dev.sup.good.getLsbD 3 then w
  else
    let fresh := !w.dev.sup.current
    (w.throttle 1).modSup fun s => { s with current := true, currentAt := w.dev.now, cnt := if fresh then cntAdd s.cnt 2 1 else s.cnt }

/-- POWER_CAP (R416, R420). -/
def execPowerCap : State → Res := act fun w =>
  if w.dev.sup.capW = 0 ∨ !w.dev.sup.good.getLsbD 3 then w
  else
    let fresh := !w.dev.sup.cap
    (w.throttle 0).modSup fun s =>
      { s with cap := true, capLast := w.dev.now, capAt := if fresh then w.dev.now else s.capAt, cnt := if fresh then cntAdd s.cnt 3 1 else s.cnt }

/-- The action of three lost phases (R416): a service event, the phase lock from that moment on, an orderly entry of the hub, which reaches
BANKED after the event's entry (R479). -/
def W.service (w : W) : W :=
  let s := w.dev.sup
  let w := (w.eventFirst 0x0202 (srcOf 14 0) [(4, s.lost), (4, b2n s.capFailed)]).modSup fun s => { s with lock := true }
  w.discardWakes.refuseHeld.orderlyStart

/-- CAP_NOT_HELD (R416): still above the cap after 1 ms of throttle. -/
def execCapNotHeld : State → Res := act fun w =>
  if w.dev.sup.cap ∧ w.dev.sup.capAt + 1000000 ≤ w.dev.now ∧ !w.dev.sup.lock then
    (w.modSup fun s => { s with capFailed := true }).service
  else w

/-- Whether the hold of the warning source is on: until 1 s after the crossing that set it (R421). -/
def Sup.held (s : Sup) (now : Nat) : Bool := s.warn && match s.holdUntil with | some t => decide (now < t) | none => false

/-- Whether the warning source may release (R421): no hold, and every monitored rail at its warning level plus 20 mV for 100 µs. -/
def Sup.warnEnds (s : Sup) (now : Nat) (c : Calm) : Bool :=
  let high (i : Nat) : Bool := match warnLevel (2 + i), c.rails[i]? with
    | some l, some x => decide (l + 20 ≤ x.1 ∧ 100000 ≤ x.2)
    | _, _ => false
  !s.held now && (List.range 3).all high && decide (s.warnAt + 100000 ≤ now)

/-- The supplies after the monitors have found how calm they are (R421): each source releases on its own. A rail at its warning level
or above is no longer in warning (R433). -/
def Sup.release (s : Sup) (now : Nat) (c : Calm) : Sup :=
  let fine (i : Nat) : Bool := match warnLevel (2 + i), c.rails[i]? with | some l, some x => decide (l ≤ x.1) | _, _ => false
  { s with mv := c.rails.zipIdx.foldl (fun t x => Tab.put t (2 + x.2) x.1.1) s.mv
           warnNow := (List.range 3).foldl (fun v i => if fine i then v &&& ~~~(BitVec.ofNat 6 (2 ^ (2 + i))) else v) s.warnNow
           warn := s.warn && !s.warnEnds now c
           current := s.current && !decide (100000 ≤ c.current ∧ s.currentAt + 100000 ≤ now)
           cap := s.cap && !decide (1000000 ≤ c.cap ∧ s.capLast + 1000000 ≤ now) }

/-- Whether the throttle is released: every source is, and no orderly entry keeps it on (R417, R421). -/
def Sup.mayRelease (s : Sup) : Bool := !s.warn && !s.current && !s.cap && s.orderly.isNone

/-- THROTTLE_RELEASE (R421, R422): sources release; with the last of them the episode ends with its event, and a DVFS transition that
waited starts. -/
def execThrottleRelease (c : Calm) : State → Res := checked (c.rails.length == 3) fun w =>
  match w.dev.sup.episode with
  | none => w
  | some e =>
    let w := w.modSup fun s => s.release w.dev.now c
    if !w.dev.sup.mayRelease then w
    else
      let w := w.modSup Sup.calm
      let w := w.event 0x0200 (srcOf 14 0) none
        ([(4, e.sources.toNat), (4, e.crossings)] ++ (e.low.map fun v => (4, v)) ++ [(4, (w.dev.now - e.since) / 1000)])
      w.dvfsStart

/-- PHASE_DROP (R415, R416, R432, R472): the phases found open (false) or sense-failed (true) in one sample, taken in the order of their
source codes. -/
def execPhaseDrop (drops : List (Fin 16 × Bool)) : State → Res := act fun w =>
  if !w.dev.sup.good.getLsbD 3 then w
  else
    let was := w.dev.sup.lost
    let found := (List.range 16).filterMap fun i => drops.find? fun x => x.1.val == i
    let w := found.foldl (fun w x =>
      if w.dev.sup.dropped.getLsbD x.1 then w
      else
        let m := BitVec.ofNat 16 (2 ^ x.1.val)
        (w.modSup fun s => { s with dropped := s.dropped ||| m, phCause := if x.2 then s.phCause ||| m else s.phCause
                                    cnt := cntAdd s.cnt 4 1 }).event 0x0201 (srcOf 9 x.1) none [(4, b2n x.2)]) w
    let now := w.dev.sup.lost
    if was < now ∧ 3 ≤ now then w.service else w

/-- ORDERLY_ENTRY_TIMEOUT (R417 step 3): not BANKED within 10 ms of the first request; an entry past its commit point is recorded as
forced. -/
def execOrderlyEntryTimeout : State → Res := act fun w =>
  match w.dev.sup.orderly with
  | some t =>
    if w.dev.now < t + 10000000 ∨ (w.dev.dom hubDom).cur.down then w
    else w.modDom hubDom fun x =>
      { x with forceReq := some .banked, retryAt := none
               entry := x.entry.map fun e => if e.committed then { e with way := .forced } else e }
  | none => w

/-- PHASE_LOCK_CLEAR (R418): a write of 1 to SUP.PHSTAT.lock. -/
def execPhaseLockClear (ag : Agent) : State → Res := act fun w =>
  w.regAccess ag .aon (.write (.blk 0x3000 0x28) 0x80000000) fun w => w.modSup fun s => { s with lock := false }

/-- ENERGY_ESTIMATE (R423, R426, R429): VAUX and VBAK as measured. -/
def execEnergyEstimate (vaux vbak : Nat) : State → Res := act fun w =>
  if !w.dev.aon.powered then w
  else
    let w := w.modAon fun a =>
      { a with vaux, vbak, okSince := if 3150 < vaux then some (a.okSince.getD w.dev.now) else none }
    w.estimate.vbakCheck

/-- VAUX_HANDOVER (R428, R430, R431): below 3.05 V; with VBAK below 2.5 V a brown record of kind 0x03 instead. -/
def execVauxHandover (vaux vbak : Nat) : State → Res := act fun w =>
  let a := w.dev.aon
  if !a.powered ∨ 3050 ≤ vaux then w
  else
    let w := (w.modAon fun a => { a with vaux, vbak, okSince := none }).estimate
    if a.vbakSrc ∨ a.hand.isSome then w
    else if 2500 ≤ vbak then
      let w := w.modAon fun a => { a with hand := some w.dev.now, epi := satBv a.epi 1 }
      w.eventFirst 0x0205 (srcOf 14 0) [(4, w.dev.aon.epi.toNat), (4, vaux), (4, vbak), (4, w.dev.aon.energy)]
    else
      let w := w.startRecord 3
      w.eventFirst 0x0206 (srcOf 14 0) [(4, vaux)]

/-- HANDOVER_DONE (R428): the switches follow step 2, the episode's entry in the ring. -/
def execHandoverDone : State → Res := act fun w =>
  match w.dev.aon.hand, w.dev.log.waits [0x0205] with
  | some _, false => ((w.modAon fun a => { a with vbakSrc := true, hand := none }).estimate).vbakCheck
  | _, _ => w

/-- VAUX_RETURN (R426 step 6, R429, R430, R432): VAUX has stood above 3.15 V for 50 ms; a snapshot or record ends first. -/
def execVauxReturn : State → Res := act fun w =>
  let a := w.dev.aon
  let writing := a.snap.isSome || w.dev.log.ops.any fun o => match o.use with | .record _ | .snapshot _ => true | _ => false
  match a.okSince with
  | some t =>
    if !a.vbakSrc ∨ a.hand.isSome ∨ writing ∨ w.dev.now < t + 50000000 then w
    else w.modAon fun a => { a with vbakSrc := false, closed := false, ret := w.dev.stampTime &&& 0x7FFFFFFFFFFFFFFF }
  | none => w

/-- What a flash operation cut off by the loss of supply leaves: open bytes (R436 step 4). -/
def W.cutFlash (w : W) : W :=
  match w.dev.log.ops with
  | [] => w
  | op :: _ =>
    let n := if op.erase then 4096 else op.bytes.length
    let (junk, w) := w.drawBytes n
    w.store .flash op.off junk

/-- VAUX_LOSS (R431): without a hand-over, VAUX crosses 2.85 V and the always-on domain resets; the package is off. -/
def execVauxLoss : State → Res := act fun w =>
  let a := w.dev.aon
  if !a.powered ∨ a.vbakSrc ∨ a.hand.isSome then w
  else
    let w := w.cutFlash.loseMain
    w.modDev fun d =>
      { Dev.reset with now := d.now, free := d.free, outs := d.outs, pci := { Pci.reset with perst := d.pci.perst }
                       sup := { Sup.reset with pwron := d.sup.pwron } }

end Sys2Proof.Machine
end

