-- ==== Sys2Proof/Machine/Startup.lean ====
section
/-!
DEFINITION. Start-up, resets, identity and the test access port (R435–R455, R511).
-/
namespace Sys2Proof.Machine

/-- Clusters online (R32): those not OFFLINE. -/
def Dev.online (d : Dev) : List Nat := (List.range 256).filter fun n => (d.dom n).cur ≠ .offline

/-- Milliseconds from the start of the start-up, to the nearest (R455; log entry 29). -/
def Dev.startMs (d : Dev) : BitVec 16 := BitVec.ofNat 16 ((d.now - d.start.since + 500000) / 1000000)

/-- The colophon (R450). -/
def Dev.colophon (d : Dev) : List Word :=
  let strap := d.start.strap.toNat
  [BitVec.ofNat 32 (0x0048 * 65536 + Config.stepping.toNat * 256), BitVec.ofNat 32 (2 * 65536 + Config.patch.toNat)
   , Config.serial.truncate 32, (Config.serial >>> 32).truncate 32, 0x02000100
   , BitVec.ofNat 32 (d.online.length * 65536 + 96), BitVec.ofNat 32 (256 + strap * 8 + 7), d.start.cfg.gen]

/-- The colophon as it reads (R450): words 0–4 and the capability bits are fixed for the part, the rest is that of the last READY. -/
def Dev.colShown (d : Dev) : List Word :=
  let at_ (k : Nat) : Word := d.start.col.getD k 0
  d.colophon.take 5 ++ [at_ 5, at_ 6 ||| 7, at_ 7]

/-- End a start in FAILED, or enter it in operation (R443, R444, R462): stacks and every cluster that no test has put offline are
BANKED, no port is powered; a cold cause that waits stands. -/
def W.enterFailed (w : W) (cause : Nat) : W :=
  let w := (List.range 12).foldl (fun w p => (w.powerDownPort p).modPort p fun x => { x with state := .off, lanes := 0 }) w
  let w := (List.range 277).foldl (fun w n =>
    let x := w.dev.dom n
    if n = 256 ∨ (x.cur = .offline ∧ (w.dev.start.ran.getLsbD 0 ∨ !w.dev.start.cold)) then w
    else w.modDom n fun _ => { Dom.at (if 257 ≤ n ∧ n < 269 then .off else .banked) with
                               entries := x.entries, wakes := x.wakes, refs := x.refs, aborts := x.aborts, lates := x.lates }) w
  let w := w.modStart fun s => { s with state := .failed, cause := BitVec.ofNat 8 cause, time := w.dev.startMs, pend := s.pend.filter coldCause }
  w.refuseHeld.eventFirst 0x0102 (srcOf 2 0) [(4, cause)]

/-- A boot entry has ended with a load status (R443). -/
def W.bootEnded (w : W) (i code : Nat) (recipe : Bool) (slot : Nat) : W :=
  let w := w.modStart fun s => { s with boots := s.boots ++ [some (BitVec.ofNat 8 code)], bootAt := i + 1 }
  if code = 0x30 then w
  else (w.modStore recipe slot fun _ => .empty).event 0x0104 (srcOf 16 (slot + if recipe then 0x8000 else 0)) none [(4, i), (4, code)]

/-- Load boot entries from an index on until one runs (R441 step 11, R443). -/
def W.bootFrom : Nat → W → Nat → W
  | 0, w, _ => w
  | n + 1, w, i =>
    match w.dev.start.cfg.boots[i]? with
    | none => w
    | some (w0, w1) =>
      let kind := bits w0.toNat 31 30
      let slot := bits w0.toNat 6 0
      let recipe : Bool := kind == 2
      if (kind ≠ 1 ∧ kind ≠ 2) ∨ (!recipe ∧ 63 < slot) then (w.bootEnded i 0x33 recipe slot).bootFrom n (i + 1)
      else
        let w := w.crvStart recipe true slot (some i) (BitVec.ofNat 64 (bits w1.toNat 23 0))
        if w.dev.cmp.crv.busy.isSome then w
        else (w.bootEnded i w.dev.cmp.crv.code.toNat recipe slot).bootFrom n (i + 1)

/-- A port domain without lanes stays powered off (R305): what was under way in it ends, and a request for it is refused (R393). -/
def W.portOff (w : W) (p : Nat) : W :=
  let n := portDom p
  let x := w.dev.dom n
  let w := w.modDom n fun x =>
    { x with cur := .off, tgt := .off, entry := none, wake := none, late := false, lateAcc := false, forceReq := none, forceCon := false, retryAt := none }
  let w := w.modPwr fun q =>
    { q with heldWakes := q.heldWakes.filter fun k => k.1 ≠ n, returning := q.returning.filter fun k => k ≠ n }
  let w := if x.fromReg ∨ x.fromCon then w.reqDone n 1 [refCode 0x15 0] else w
  (w.nextReq n).cascadeStep

/-- Give the ports their lanes under the allocation record in force (R303–R305); `up` brings up a port that has lanes. -/
def W.allotLanes (w : W) (up : W → Nat → W) : W :=
  let found := lanesParse w.dev.start.cfg.lanes
  let counts := found.getD laneDefault
  let w := if found.isNone && !w.dev.start.strap.getLsbD 3 then w.event 0x0105 (srcOf 15 0) else w
  (List.range 12).foldl (fun w p =>
    let n := counts.getD p 0
    let b := (counts.take p).sum
    let w := w.modPort p fun x => { Port.reset with base := b, count := n, cnt := x.cnt, encreq := x.encreq,
                                                    causePhase := x.causePhase, cause := x.cause, ftx := x.ftx, frx := x.frx }
    if n = 0 then w.portOff p else up (w.enterDetect p) p) w

/-- Power the ports that the lane allocation gives lanes (R441 step 12). -/
def W.powerPorts (w : W) : W :=
  w.allotLanes fun w p => w.modDom (portDom p) fun x => { x with cur := .active, tgt := .active, idleAt := w.dev.now }

/-- READY (R441 step 13, R450): a chip that is REFUSED may join again under another colophon (R352). -/
def W.enterReady (w : W) : W :=
  let was := w.dev.start.col
  let w := w.modStart fun s => { s with state := .ready, time := w.dev.startMs, col := w.dev.colophon }
  let w := if w.dev.fab.state = .refused ∧ w.dev.start.col ≠ was then
      w.modFab fun f => { f with state := .alone, cause := 0 }
    else w
  w.event 0x0101 (srcOf 2 0) none
    [(4, w.dev.start.time.toNat), (4, w.dev.online.length), (4, w.dev.start.cfg.gen.toNat)]

/-- A domain is up for the first time. -/
def W.domUp (w : W) (n : Nat) : W := w.modDom n fun _ => { Dom.at .active with idleAt := w.dev.now }

def W.toStep (w : W) (n : Nat) (st : StState) : W := w.modStart fun s => { s with step := n, state := st }

def W.addCecc (w : W) (n : Nat) : W := w.modCmp fun c => { c with cecc := satBv c.cecc n }

/-- Clusters of step 8 (R32, R441, R443): tested in a cold start; their memories zeroed in both. -/
def W.clustersUp (w : W) (r : StepRes) : W :=
  let bad := r.logicBad ||| r.marchBad
  let w := w.put (.clear .near)
  if w.dev.start.cold then
    let w := (w.addCecc r.cecc).modStart fun s => { s with ran := s.ran ||| 1, clusterBad := bad, clusterRep := r.cluRep &&& ~~~bad }
    (List.range 256).foldl (fun w n =>
      if bad.getLsbD n then
        (w.modDom n fun _ => Dom.at .offline).event 0x0106 (srcOf 1 n) none [(4, if r.logicBad.getLsbD n then 0 else 1)]
      else w.domUp n) w
  else (List.range 256).foldl (fun w n => if (w.dev.dom n).cur = .offline then w else w.domUp n) w

/-- After step 8 the clusters that are not OFFLINE are online (R32, R443, HUB.ONLINE). -/
def W.clustersTested (w : W) (r : StepRes) : W :=
  let w := w.clustersUp r
  (List.range 256).foldl (fun w n => w.modCl n fun c => { c with online := (w.dev.dom n).cur ≠ .offline }) w

/-- The end of a start-up step and the beginning of the next (R441, R443, R446). -/
def W.startStep (w : W) (r : StepRes) : W :=
  let s := w.dev.start
  if !s.running then w
  else match s.step with
    | 1 =>
      let w := w.toStep 2 .seq
      if w.dev.sup.seq = .off then w.modSup fun x => { x with seq := .up firstRail w.dev.now } else w
    | 2 | 3 | 4 => if w.dev.sup.good.getLsbD s.step then w.toStep (s.step + 1) .seq else w
    | 5 => if w.dev.sup.seq = .on then w.toStep 6 .seq else w
    | 6 =>
      if s.halts then w.toStep 6 .scan
      else (((w.domUp hubDom).setVcore (vcoreSet 8)).modSup fun x => { x with activeAt := w.dev.now }).toStep 7 .test
    | 7 =>
      let lanes (k : Nat) : Nat := r.d2dLanes.getD k 0
      let rep : BitVec 3 := BitVec.ofNat 3 (((List.range 3).map fun k => if lanes k = 0 then 0 else 2 ^ k).sum)
      let bad := r.d2dFail ||| w.dev.hub.d2dDead
      let w := w.modStart fun x => { x with d2dFail := bad, d2dRep := rep &&& ~~~bad, ran := x.ran ||| 2 }
      let w := w.modHub fun h => { h with d2dFail := h.d2dFail ||| bad, d2dUp := ~~~bad, d2dDead := bad }
      let w := (List.range 3).foldl (fun w k =>
        if lanes k = 0 then w else w.event 0x0107 (srcOf 7 k) none [(4, lanes k)]) w
      if bad ≠ 0 then w.enterFailed 1 else w.toStep 8 .test
    | 8 =>
      let w := w.clustersTested r
      if w.dev.online = [] then w.enterFailed 3 else w.toStep 9 .test
    | 9 =>
      let w := w.modStart fun x => { x with hbmRep := r.hbmRep }
      if r.hbmFail ≠ 0 then (w.modStart fun x => { x with hbmFail := r.hbmFail, ran := x.ran ||| 4 }).enterFailed 2
      else
        let w := (List.range 8).foldl (fun w k => w.domUp (hbmDom k)) w
        if s.cold then w.toStep 10 .test else (w.toStep 11 .load).bootFrom 33 0
    | 10 =>
      let w := (w.addCecc r.cecc).modStart fun x => { x with hbmFail := r.hbmFail, hbmRep := x.hbmRep ||| r.hbmRep, ran := x.ran ||| 4 }
      if r.hbmFail ≠ 0 then w.enterFailed 2
      else ((w.put (.clear .hbm)).toStep 11 .load).bootFrom 33 0
    | 11 => if s.cfg.boots.length ≤ s.bootAt then w.toStep 12 .load else w
    | 12 => (w.powerPorts.toStep 13 .ready).enterReady
    | _ => w

/-- START_STEP_DONE (R441). -/
def execStartStepDone (r : StepRes) : State → Res := act fun w => w.startStep r

/-- Begin a start-up's record (R447, R455). -/
def Start.begin (s : Start) (now : Nat) (cold : Bool) (kind : Fin 3) (why : Byte) (step : Nat) : Start :=
  { s with state := .seq, step, cold, kind, why, cause := 0, since := now, pend := none, d2dFail := 0, d2dRep := 0
           hbmFail := 0, hbmRep := 0, ran := 0, clusterRep := 0, boots := [], bootAt := 0, perstPend := false }

/-- The console after a cold reset or an always-on power-on (R273, R275, R449): claims, session 0 and history cleared. -/
def W.conCold (w : W) : W :=
  let w := w.modCon fun c => { Con.reset with tx := c.tx, txAt := c.txAt }
  let w := w.modCon fun c => { c with s0 := { c.s0 with lastLine := w.dev.now }, s1 := { c.s1 with lastLine := w.dev.now } }
  (w.conPut 0 (crlf ++ promptText) false).modSess 0 fun s => { s with prompt := true }

/-- A cold start from step 1 (R441, R447, R449, R511): the installation key and its kid stay in force. The start that an always-on
power-on begins keeps its kind and cause. -/
def W.coldStart (w : W) (cause : Byte) (straps : BitVec 5) : W :=
  let fromAon := cause = 0x07
  let w := w.loseMain.conCold
  let w := w.modFab fun f => { f with time := 0 }
  let w := w.modSup fun s =>
    { Sup.reset with mv := s.mv, good := s.good, seq := s.seq, pwron := s.pwron, restarts := s.restarts, vset := vcoreSet 8 }
  let w := w.modStart fun s =>
    { s.begin w.dev.now true (if fromAon then 0 else 1) cause 1 with strap := straps, owner := straps.getLsbD 4, ir := 0x01 }
  let w := if fromAon then w else w.event 0x0100 (srcOf 14 0) none [(4, 1), (4, cause.toNat)]
  let kept := w.dev.start.cfg
  let w := (w.loadCfg (!fromAon)).modStart fun s => { s with cfg := { s.cfg with key := kept.key, kid := kept.kid } }
  let w := w.modAon fun a => { a with bakcfg := w.dev.start.cfg.bakcfg, epi := 0, ret := 0 }
  w.modFab fun f => { f with sliceid := w.dev.start.cfg.slice }

/-- COLD_START (R413, R436, R441, R447, R448): a cold cause, or a warm cause before READY of a cold start; a power-down that is
commanded runs to its end first. -/
def execColdStart (straps : BitVec 5) : State → Res := act fun w =>
  let s := w.dev.start
  match s.pend with
  | some c =>
    let cold : Bool := coldCause c || (s.cold && (s.running || s.state == .scan))
    let down : Bool := w.dev.sup.down || match w.dev.sup.seq with | .down _ _ => true | _ => false
    if !cold || !w.dev.aon.powered || !w.dev.sup.pwron || w.dev.sup.stay || down then w else w.coldStart c straps
  | none => w

/-- The console after a warm reset (R272, R273, R449, R511): the ring session is reset, and the claim table is kept, but for what the
command running held for its duration; session 0 and its history are kept. -/
def W.conWarm (w : W) : W :=
  let w := match w.dev.con.run with | some r => w.dropImplicit r | none => w
  let held := w.dev.con.claims
  let w := w.ringReset
  w.modCon fun c => { Con.reset with claims := held, rx := c.rx, tx := c.tx, txAt := c.txAt, s0 := c.s0, s1 := c.s1, lastSess := c.lastSess }

/-- The clusters after a warm reset: reset, but for HUB.ONLINE (R511). -/
def onlineKept (l : Tab Cluster) : Tab Cluster := Tab.mapV (fun _ x => { Cluster.reset with online := x.online }) l

/-- A warm start (R446, R449, R511): rails with what their monitors show, HBM3E contents in self-refresh, the always-on domain, offline
clusters and HUB.ONLINE are kept. -/
def W.warmStart (w : W) (cause : Byte) : W :=
  let w := (w.put (.clear .near)).conWarm
  let off := (List.range 256).filter fun n => (w.dev.dom n).cur == .offline
  let w := w.modDev fun d =>
    { d with
      hub := { Hub.reset with d2dFail := d.hub.d2dFail, d2dDead := d.hub.d2dDead }
      cmp := { Compute.reset with clusters := onlineKept d.cmp.clusters }
      pci := { Pci.reset with perst := d.pci.perst }, dma := ⟨[], 255⟩, ports := [], reprobe := 1000
      fab := { Fab.reset with time := d.fab.time, skew := d.fab.skew, slewLeft := d.fab.slewLeft, slewFrac := d.fab.slewFrac
                              state := if d.fab.state = .refused then .refused else .alone
                              cause := if d.fab.state = .refused then d.fab.cause else 0, refusedAs := d.fab.refusedAs
                              sliceid := d.start.cfg.slice }
      coll := .reset, pwr := .reset, temps := .reset, stage := .reset
      sup := { d.sup with orderly := none }
      start := d.start.begin d.now false 2 cause 6 }
  let w := (List.range 256).foldl (fun w n => w.modDom n fun _ => Dom.at (if off.contains n then .offline else .banked)) w
  let w := (List.range 8).foldl (fun w k => w.modDom (hbmDom k) fun _ => Dom.at .banked) w
  w.event 0x0100 (srcOf 14 0) none [(4, 2), (4, cause.toNat)]

/-- WARM_RESET (R446–R448): from READY or during a warm start. -/
def execWarmReset : State → Res := act fun w =>
  let s := w.dev.start
  match s.pend with
  | some c =>
    if coldCause c then w
    else if s.state = .ready ∨ (s.running ∧ !s.cold) then w.warmStart c
    else if s.running ∨ s.state = .scan then w
    else w.modStart fun s => { s with pend := none }
  | none => w

/-- SYSRST (R447): SYSRST_N low for 1 ms. -/
def execSysrst : State → Res := act fun w =>
  if w.dev.aon.powered then w.modStart fun s => s.ask 0x03 else w

/-- CRYSTAL_STABLE (R436 step 5). -/
def execCrystalStable : State → Res := act fun w => if w.dev.aon.powered then w.modAon fun a => { a with crystal := true } else w

/-- Restore the numbering of the ring and the mirror's position from flash (R436 step 4, R475). -/
def logRestore (m : Mem) : Log :=
  let valid := validSlots m 0
  let full (k : Nat) : Bool := valid.any fun s => s / 32 == k
  match (List.range 2048).find? fun k => !full k && full ((k + 2047) % 2048) with
  | none => Log.reset
  | some k =>
    let order := (valid.filter fun s => decide (32 * k ≤ s)) ++ valid.filter fun s => decide (s < 32 * k)
    let entries := order.filter fun s => isEntry (slotBytes m s)
    match entries.head?, entries.getLast? with
    | some o, some n =>
      let next : Word := BitVec.ofNat 32 (leAt (slotBytes m n) 4 4 + 1)
      let clean := !((logSlots m).any fun s => n < s && s / 32 == n / 32)
      let page := if clean then (n + 2) / 2 % 32768 else 16 * ((n / 32 + 1) % 2048)
      { Log.reset with next, unm := next, oldm := BitVec.ofNat 32 (leAt (slotBytes m o) 4 4), mpage := page }
    | _, _ => { Log.reset with mpage := 16 * k }

/-- AON_POWER_ON (R436, R447, R449): VAUX reaches 2.85 V on an unpowered domain. -/
def execAonPowerOn (straps : BitVec 5) (pwron : Bool) : State → Res := act fun w =>
  if w.dev.aon.powered then w
  else
    let w := w.modDev fun d =>
      { Dev.reset with now := d.now, free := d.free, outs := d.outs, pci := { Pci.reset with perst := d.pci.perst }
                       aon := { Aon.reset with powered := true, vaux := 2850 }, sup := { Sup.reset with pwron }, log := logRestore w.mem
                       start := { Start.reset with strap := straps, why := 0x07 } }
    let w := w.conCold.event 0x0100 (srcOf 14 0) none [(4, 0), (4, 7)]
    let w := w.loadCfg true
    let w := w.modAon fun a => { a with bakcfg := w.dev.start.cfg.bakcfg }
    if pwron then w.modStart fun s => s.ask 0x07 else w

/-- The IDCODE (R453). -/
def idcodeWord : Word := BitVec.ofNat 32 (Config.stepping.toNat % 16 * 2 ^ 28 + 0x0048 * 2 ^ 12 + 0x566 * 2 + 1)

/-- The instruction that an 8-bit code of the instruction register stands for (R453): a code that is not listed acts as BYPASS, and
so do the three that drive pins outside SCAN. -/
def tapCode (ir : Byte) (scan : Bool) : TapInstr :=
  match ir.toNat with
  | 0x01 => .idcode
  | 0x02 => .sample
  | 0x00 => if scan then .extest else .bypass
  | 0x04 => if scan then .clamp else .bypass
  | 0x05 => if scan then .highz else .bypass
  | _ => .bypass

/-- The instruction in force. -/
def Start.tap (s : Start) : TapInstr := tapCode s.ir (s.state == .scan)

/-- Whether the board drives the test access port: it owns the port, in whose bank VIO stands (R452). -/
def Dev.tapOpen (d : Dev) : Bool := d.start.owner && d.sup.good.getLsbD firstRail

/-- Load the instruction register (R452, R453), then do what the scan does; TCK is ignored while the device owns the port. -/
def W.tapLoad (w : W) (ir : Byte) (scan : W → W) : W :=
  if w.dev.tapOpen then scan (w.modStart fun s => { s with ir }) else w

/-- Which cells capture a pin (R454): inputs and observe-only cells; output and enable cells capture themselves. -/
def inputCells : List Nat := [2, 7, 10, 13, 16] ++ rangeFrom 19 3 ++ rangeFrom 25 40

/-- A scan of the bypass register: TDO carries its one bit, which is captured as 0 (R452). -/
def W.scanBypass (w : W) : W := w.out (.tdo 1 0)

/-- A scan of the boundary register: the pins are captured and shifted out, new contents are shifted in (R453, R454). -/
def W.scanCells (w : W) (pins shift : BitVec 65) : W :=
  let mask : BitVec 65 := BitVec.ofNat 65 ((inputCells.map (2 ^ ·)).sum)
  let captured := (pins &&& mask) ||| (w.dev.start.cells &&& ~~~mask)
  (w.modStart fun s => { s with captured, cells := shift }).out (.tdo 65 captured.toNat)

/-- BYPASS (R453). -/
def execBypass : State → Res := act fun w => w.tapLoad 0xFF W.scanBypass

/-- IDCODE (R453): the identity is captured and shifted out. -/
def execIdcode : State → Res := act fun w => w.tapLoad 0x01 fun w => w.out (.tdo 32 idcodeWord.toNat)

/-- SAMPLE_PRELOAD (R453, R454): the pins are captured and the cells loaded. -/
def execSamplePreload (pins shift : BitVec 65) : State → Res := act fun w => w.tapLoad 0x02 fun w => w.scanCells pins shift

/-- EXTEST (R453, R454): the covered pins follow the cells (`Start.drives`); outside SCAN it acts as BYPASS. -/
def execExtest (pins shift : BitVec 65) : State → Res := act fun w =>
  w.tapLoad 0x00 fun w => if w.dev.start.tap = .extest then w.scanCells pins shift else w.scanBypass

/-- CLAMP (R453): the bypass register is scanned while the cells drive the pins. -/
def execClamp : State → Res := act fun w => w.tapLoad 0x04 W.scanBypass

/-- HIGHZ (R453). -/
def execHighz : State → Res := act fun w => w.tapLoad 0x05 W.scanBypass

/-- The level that an output cell's pin is driven to under EXTEST or CLAMP (R454): its enable cell must hold 1; the rail
enables have none. -/
def Start.drives (s : Start) (cell : Nat) : Option Bool :=
  let on := s.state == .scan && s.owner && (s.tap == .extest || s.tap == .clamp)
  if !on then none
  else if [0, 3, 5, 8, 11, 14, 17].contains cell then (if s.cells.getLsbD (cell + 1) then some (s.cells.getLsbD cell) else none)
  else if [22, 23, 24].contains cell then some (s.cells.getLsbD cell)
  else none

end Sys2Proof.Machine
end

