-- ==== Sys2Proof/Machine/Faults.lean ====
section
/-!
DEFINITION. Table-store errors, temperatures, the management-core watchdog (R459, R460, R463, R464).
-/
namespace Sys2Proof.Machine

/-- TABLE_STORE_ERROR (R460): an error in one copy is repaired and counted as corrected; in both copies the slot becomes
failed; in a cluster's copy, the cluster loads it again and the use that meets it fails. -/
def execTableStoreError (recipe : Bool) (slot : Fin 128) (both : Bool) (cl : Option (Fin 256)) : State → Res :=
  checked (recipe || slot.val < 64) fun w =>
    if !(w.dev.storeSlot recipe slot).loaded then w
    else match cl with
      | some n => w.modCl n fun c => { c with copyErr := (if recipe then 64 + slot.val else slot.val) :: c.copyErr }
      | none =>
        if both then
          (w.modStore recipe slot fun x => { x with failed := true }).event 0x0302 (srcOf 16 (slot + if recipe then 0x8000 else 0))
        else w.addCecc 1

/-- The sensors above a limit, each with since when (R463). -/
def hotSince (now limit : Nat) (t : List Int) (was : List (Nat × Nat)) : List (Nat × Nat) :=
  t.zipIdx.filterMap fun x =>
    if (limit : Int) < x.1 then
      some (x.2, match was.find? fun y => y.1 == x.2 with | some y => y.2 | none => now)
    else none

/-- TEMP_SAMPLE (R463): the readings of C0, C1 and H, in 1/16 °C. -/
def execTempSample (t0 t1 t2 : BitVec 16) : State → Res := act fun w =>
  if !w.dev.hubLive then w
  else
    let t := [t0.toInt, t1.toInt, t2.toInt]
    let w := w.modTemps fun x =>
      { x with t := [(0, some t0.toInt), (1, some t1.toInt), (2, some t2.toInt)]
               hot110 := hotSince w.dev.now 1760 t x.hot110, hot125 := hotSince w.dev.now 2000 t x.hot125 }
    t.zipIdx.foldl (fun w x => if 1600 < x.1 then w.event 0x0207 (srcOf 17 x.2) none [(4, wrapI 32 x.1)] else w) w

/-- The reading of a sensor, for an event. -/
def Temps.word (t : Temps) (k : Nat) : Nat := wrapI 32 ((Tab.look none t.t k).getD 0)

/-- TEMP_BANK (R463): above 110 °C for 1 ms. -/
def execTempBank : State → Res := act fun w =>
  let t := w.dev.temps
  match t.hot110.find? fun x => decide (x.2 + 1000000 ≤ w.dev.now) with
  | some x =>
    if t.banked then w
    else ((w.modTemps fun t => { t with banked := true }).eventFirst 0x0208 (srcOf 17 x.1) [(4, t.word x.1)]).orderlyStart
  | none => w

/-- TEMP_TRIP (R463): above 125 °C for 10 µs the main rails drop, and no restart follows. -/
def execTempTrip : State → Res := act fun w =>
  let t := w.dev.temps
  match t.hot125.find? fun x => decide (x.2 + 10000 ≤ w.dev.now) with
  | some x => (w.eventFirst 0x0209 (srcOf 17 x.1) [(4, t.word x.1)]).railReset false
  | none => w

/-- AON_TEMP_READ (R463), at intervals of 1 ms: with every sensor at or below 95 °C, the latched wakes are served. -/
def execAonTempRead (t0 t1 t2 : BitVec 16) : State → Res := act fun w =>
  let t := w.dev.temps
  let due : Bool := match t.readAt with | some r => decide (r + 1000000 ≤ w.dev.now) | none => true
  if !t.banked ∨ (w.dev.dom hubDom).cur ≠ .banked ∨ !due then w
  else if !([t0, t1, t2].all fun x => decide (x.toInt ≤ 1520)) then w.modTemps fun t => { t with readAt := some w.dev.now }
  else
    let w := w.modTemps fun t => { t with banked := false, latched := [], readAt := none }
    t.latched.foldl (fun w x => w.raiseWake x.1 x.2) w

/-- WATCHDOG_EXPIRY (R464): both sessions are reset and the running command ends; during a start-up or a power-down sequence
it acts as a main-rail reset. -/
def execWatchdogExpiry : State → Res := act fun w =>
  if !w.dev.aon.powered then w
  else
    let seq : Bool := w.dev.start.running || (match w.dev.sup.seq with | .down _ _ => true | _ => false)
    let w := ((w.resetSess 1).resetSess 0).modCon fun c => { c with run := none, drain := none, resetCmd := none }
    let w := w.modLog fun l => { l with wdog := satBv l.wdog 1 }
    let w := if seq then w.railReset true else w
    w.event 0x0807 (srcOf 14 0)

end Sys2Proof.Machine
end

