-- ==== Sys2Proof/Machine/Pci.lean ====
section
/-!
DEFINITION. The host link's training, functions, vectors and translation cache (R221, R222, R224–R228).
-/
namespace Sys2Proof.Machine

/-- Whether the host link may train (R445, R448, R454): from step 6 of a start-up on, but not in one that halts in SCAN, and not while
PERST# is asserted. -/
def Dev.linkMayTrain (d : Dev) : Bool :=
  !d.pci.perst && (d.start.state == .ready || d.start.state == .failed ||
    (6 ≤ d.start.step && !d.start.halts && (d.start.state == .seq || d.start.state == .test || d.start.state == .load)))

/-- A configuration request of the host to a function (R437, R445): before READY or FAILED it completes with Request Retry Status. -/
def W.configReq (w : W) (fn : Nat) (k : W → W) : W :=
  if !w.dev.pci.up ∨ w.dev.pci.perst then w
  else if w.dev.start.state = .ready ∨ w.dev.start.state = .failed then k w
  else w.out (.configRetry fn)

/-- What the host reads of the identity of a function, where configuration requests are served and the function is there (R224, R445,
R501). -/
def Dev.configRead (d : Dev) (fn : Nat) : Option ConfigId :=
  if d.pci.up && !d.pci.perst && (d.start.state == .ready || d.start.state == .failed) && (fn == 0 || d.pci.vfEnable) then
    some (configId fn)
  else none

/-- What the host's configuration programs (R221, R238): payload and read request sizes, completion timeouts. -/
def Pci.configured (p : Pci) (c : HostCfg) : Pci :=
  { p with
    maxPayload := 128 * 2 ^ c.payload.val
    maxRead := 128 * 2 ^ c.readReq.val
    fns := c.timeouts.foldl (fun t x => Tab.put t x.1.val { Tab.look PciFn.reset t x.1.val with timeout := x.2 }) p.fns }

/-- PCIE_LINK_TRAINED (R221, R222, R238): speed code of PCI.LSTAT and lanes; FLIT mode always at 64.0 GT/s. Below 16.0 GT/s slow
is set, with one event. -/
def execPcieLinkTrained (speed : Fin 7) (width : Fin 17) (flit : Bool) (cfg : HostCfg) : State → Res := act fun w =>
  if w.dev.linkMayTrain ∧ [1, 2, 4, 5, 6].contains speed.val ∧ [1, 2, 4, 8, 16].contains width.val then
    let slow := speed.val < 4
    let w := w.modPci fun old =>
      let p := old.configured cfg
      { p with up := true, slow, flit := speed.val == 6 || (flit && !slow), width := BitVec.ofNat 6 width
               speed := BitVec.ofNat 4 speed }
    if slow then w.event 0x0400 (srcOf 13 0) none [(4, speed.val), (4, width.val)] else w
  else w

/-- Set a vector's mask (R228): one that is unmasked while pending fires. -/
def W.vecMask (w : W) (fn vec : Nat) (masked : Bool) : W :=
  let v := Tab.look Vec.reset w.dev.pci.vecs (vecKey fn vec)
  let goes := !masked && v.pending && w.dev.pci.up
  let w := w.modPci fun p => { p with vecs := Tab.put p.vecs (vecKey fn vec) { v with masked, pending := v.pending && !goes } }
  if goes then w.out (.msix fn vec) else w

/-- MSIX_UNMASK (R228): a write to a function's BAR; a pending vector fires. -/
def execMsixUnmask (fn : Fin 65) (vec : Fin 264) : State → Res :=
  checked (decide (vec.val < (configId fn).msix.vectors)) fun w =>
    let ag : Agent := if fn.val = 0 then .pf else .vf (Fin.ofNat 64 (fn - 1))
    let r : RegRef := .msix fn (16 * vec + 12)
    w.regAccess ag (w.dev.fnPlace ag) (.write r 0) fun w => w.vecMask fn vec false

/-- VF_ENABLE (R224). -/
def execVfEnable : State → Res := act fun w => w.configReq 0 fun w => w.modPci fun p => { p with vfEnable := true }

/-- VF_DISABLE (R224). -/
def execVfDisable : State → Res := act fun w => w.configReq 0 fun w => w.modPci fun p => { p with vfEnable := false }

/-- A write to PCI.VFMAP (R224, R246, R508). -/
def W.vfmap (w : W) (v : Nat) (val : Word) : W :=
  let x : Byte := val.truncate 8
  let p := w.dev.pci
  if p.vfEnable then w
  else if x.getLsbD 7 ∧ (List.range 64).any (fun u => u ≠ v && Tab.look 0 p.vfmap u == x) then
    w.modPci fun p => { p with dup := true }
  else w.modPci fun p => { p with vfmap := Tab.put p.vfmap v x }

/-- VFMAP_WRITE (R224). -/
def execVfmapWrite (ag : Agent) (v : Fin 64) (val : Word) : State → Res := act fun w =>
  w.regAccess ag .glob (.write (.blk 0x1000 (0x100 + 4 * v)) val) fun w => w.vfmap v val

/-- ATS_INVALIDATION (R226): the function's translations of a range of pages are removed at once; the request completes when no read
that used one is in flight, and is presented again until then. -/
def execAtsInvalidation (fn : Fin 65) (addr : DWord) (pages : Nat) : State → Res := act fun w =>
  let covers (f page : Nat) : Bool := f == fn.val && addr.toNat / 4096 ≤ page && page < addr.toNat / 4096 + pages
  let w := w.modPci fun p => { p with atc := p.atc.filter fun e => !covers e.fn e.page }
  if w.dev.pci.reads.any fun r => r.trans && covers r.fn (r.addr / 4096) then w else w.out (.atsInvalidated fn)

end Sys2Proof.Machine
end

