-- ==== Sys2Proof/Machine/StageCmds.lean ====
section
/-!
DEFINITION. The staged set and its commit (R487–R494, R497).
-/
namespace Sys2Proof.Machine

/-- The range of a staged setting (R297). -/
def stageRange (k v : Nat) : Bool :=
  decide (v ≤ 60000) && (if k = 3 then decide (250 ≤ v) else if k = 4 then decide (1 ≤ v) else true)

/-- Stage a value or remove it (R487): refused out of range, frozen during a commit. -/
def W.stgWrite (w : W) (k : Nat) (v : Word) : W :=
  w.modStage fun s =>
    if s.pend then { s with lost := true }
    else if !v.getLsbD 31 then { s with stg := Tab.del s.stg k }
    else if stageRange k (bits v.toNat 15 0) then { s with stg := Tab.put s.stg k (v.setWidth 16) }
    else { s with range := true }

/-- STAGE_REGISTER_WRITE (R487, R497). -/
def execStageRegisterWrite (ag : Agent) (k : Fin 5) (v : Word) : State → Res := act fun w =>
  w.regAccess ag .glob (.write (.blk 0x0 (0x100 + 4 * k)) v) fun w => w.stgWrite k v

/-- Commit the staged set (R488 steps 1 and 2). -/
def W.stgCommit (w : W) : W :=
  w.modStage fun s =>
    if s.pend then { s with lost := true }
    else if s.stg = [] then s
    else { s with apply := s.stg.foldl (fun t x => Tab.put t x.1 x.2) s.force, stg := [], pend := true, pos := 0, since := w.dev.now }

/-- STAGE_COMMIT_WRITE (R488). -/
def execStageCommitWrite (ag : Agent) : State → Res := act fun w => w.regAccess ag .glob (.write (.blk 0x0 0x160) 0) fun w => w.stgCommit

/-- The domain whose turn it is (R489). -/
def stageDom (pos : Nat) : Nat := if pos < 21 then pos + 256 else pos - 21

/-- The next reprobe of a parked port lies after now (R490). -/
def W.reprobeFrom (w : W) : W :=
  (List.range 12).foldl (fun w p => w.modPort p fun x => if x.parkedAt.isSome then { x with lastProbe := w.dev.now } else x) w

/-- What a domain does when it applies (R490, R494). -/
def W.stageApply (w : W) (n : Nat) : W :=
  let was := w.dev.setting
  let old (k : Nat) := was k n
  let w := w.modStage fun s => { s with pos := s.pos + 1 }
  if n = 256 then
    let w := if w.dev.setting 3 256 = old 3 then w
      else (w.modDev fun d => { d with reprobe := BitVec.ofNat 16 (d.setting 3 256) }).reprobeFrom
    if w.dev.setting 4 256 = old 4 then w else w.hashChanged
  else
    let k := if n < 256 then 0 else if n < 269 then 2 else 1
    let w := if old k = 0 ∧ w.dev.setting k n ≠ 0 ∧ (w.dev.dom n).cur = .active then w.touch n else w
    if w.dev.idleDue n ∧ (w.dev.dom n).retryAt = none then w.startEntry n .timer .banked else w

/-- COMMIT_SAFE_POINT (R488–R493): the next domain of the order applies at its safe point; the last completes the commit, no
sooner than 10 µs after its write. -/
def execCommitSafePoint : State → Res := actMem fun w =>
  let s := w.dev.stage
  if !s.pend then w
  else
    let n := stageDom s.pos
    let x := w.dev.dom n
    let safe : Bool := n == 256 || (x.entry.isNone && match x.wake with | some k => !k.started | none => true)
    let last : Bool := s.pos == 276
    if !safe || (last && decide (w.dev.now < s.since + 10000)) then w
    else
      let w := w.stageApply n
      if last then
        (w.modStage fun s => { s with cgen := s.cgen + 1, force := s.apply, pend := false, pos := 0 }).cascadeStep
      else w

end Sys2Proof.Machine
end

