-- ==== Sys2Proof/Machine/Switch.lean ====
section
/-!
DEFINITION. Ownership of clusters and saggar switches (R22, R76, R104, R123, R154, R168, R195, R216, R461).
-/
namespace Sys2Proof.Machine

/-- Bundles of a saggar that wait for dispatch or to resume (R168 rule 1). -/
def Dev.waitingBundles (d : Dev) (s : Nat) : Nat :=
  let g := d.sag s
  let t := d.thr s
  (if g.st = .running then
    ((t.launches.filter fun l => l.unfinished && !launchWaits l t.launches).map fun l => l.bundles - l.next).sum else 0) +
  (if g.st = .running ∨ g.st = .draining then g.saved.length else 0)

/-- The saggar that owns a cluster, or is about to (R168). -/
def Dev.ownerSoon (d : Dev) (cl : Nat) : Option Nat :=
  match (d.cl cl).switching with
  | some k => k.into
  | none => (d.cl cl).owner

def Dev.ownedBy (d : Dev) (s : Nat) : List Nat := (List.range 256).filter fun n => d.ownerSoon n == some s

/-- Free vector units of the clusters that a saggar owns, those it has just taken included (R168 rule 1). -/
def Dev.freeFor (d : Dev) (s : Nat) : Nat :=
  ((d.ownedBy s).map fun n => if (d.cl n).switching.isSome then 4 else (d.freeVus n).length).sum

/-- Clusters that count against a saggar's quota (R167): those it owns, those being switched out included, and those it is about to
own. -/
def Dev.heldBy (d : Dev) (s : Nat) : List Nat :=
  (List.range 256).filter fun n => (d.cl n).owner == some s || d.ownerSoon n == some s

/-- SAG.CQUOTA.cmax in effect (R198). -/
def Sag.cmaxNow (g : Sag) : Nat := min g.cmax.toNat 256

/-- Whether a cluster lies in a save area's range (R216). -/
def MemSet.covers (m : MemSet) (cl : Nat) : Bool := m.lo.toNat ≤ cl && cl ≤ m.hi.toNat

/-- Whether a saggar may own a cluster: its mask, its save area's range, in force and about to be (R217), and the cluster
online (R32, R167, R216). -/
def Dev.mayOwn (d : Dev) (s cl : Nat) : Bool :=
  let m := d.mpage s
  (d.sag s).cmask.getLsbD cl && m.cur.covers cl && (!m.pend || m.next.covers cl) && (d.cl cl).online

/-- Whether a saggar would take a cluster under rule 1 of R168. -/
def Dev.wants (d : Dev) (cl s : Nat) : Bool :=
  (d.cl cl).owner ≠ some s && d.mayOwn s cl && (d.heldBy s).length < (d.sag s).cmaxNow && d.freeFor s < d.waitingBundles s

/-- The saggar that takes a cluster: the lowest after the previous owner, in round-robin order (R168 rule 1). -/
def Dev.taker (d : Dev) (cl : Nat) : Option Nat :=
  let from_ := (d.cl cl).owner.getD (d.cl cl).prev
  ((List.range 128).map fun k => (from_ + 1 + k) % 128).find? (d.wants cl)

/-- A saggar becomes the owner of a cluster, and its bindings and tables are loaded (R22, R123). -/
def W.own (w : W) (cl : Nat) (s : Option Nat) : W :=
  w.modCl cl fun c =>
    { c with prev := c.owner.getD c.prev, owner := s, since := w.dev.now, switching := none, bankPend := false
             bank := match s with | some s => (w.dev.cpage s).inForce | none => .none
             copyErr := [] }

/-- Whether a saggar has images saved from a cluster. -/
def Sag.savedAt (g : Sag) (cl : Nat) : Bool := (g.saved.any fun x => x.cl == cl) || g.savedSlots.any fun x => x.cl == cl

def W.beginSwitch (w : W) (cl : Nat) (into : Option Nat) : W := w.modCl cl fun c => { c with switching := some ⟨into⟩ }

/-- Whether a cluster stands free and some saggar would take it (R168 rule 1). -/
def Dev.takeable (d : Dev) (cl : Nat) : Bool :=
  (d.cl cl).switching.isNone && (d.cl cl).owner.isNone && (d.taker cl).isSome

/-- CLUSTER_TAKE (R168 rules 1 and 2): a cluster without owner, or whose owner has no bundle resident or waiting, is
taken; where there is state to save or restore, by a switch. Free clusters are decided in ascending number. -/
def execClusterTake (cl : Fin 256) : State → Res := act fun w =>
  let c := w.dev.cl cl
  match c.switching, c.owner, w.dev.taker cl with
  | none, none, some s =>
    if (List.range cl).any w.dev.takeable then w
    else if (w.dev.sag s).savedAt cl then w.beginSwitch cl (some s) else w.own cl (some s)
  | none, some o, some s =>
    if (w.dev.freeVus cl).length = 4 ∧ w.dev.waitingBundles o = 0 then w.beginSwitch cl (some s) else w
  | _, _, _ => w

/-- SLICE_EXPIRY (R168 rule 3). -/
def execSliceExpiry (cl : Fin 256) : State → Res := act fun w =>
  let c := w.dev.cl cl
  match c.switching, c.owner, w.dev.taker cl with
  | none, some o, some s =>
    let us := (w.dev.sag o).slice.toNat
    if us ≠ 0 ∧ c.since + 1000 * us ≤ w.dev.now then w.beginSwitch cl (some s) else w
  | _, _, _ => w

/-- Whether an owner must give a cluster up (R168 rule 4, R195, R216). -/
def Dev.mustYield (d : Dev) (s cl : Nat) : Bool :=
  let mine := d.ownedBy s
  !d.mayOwn s cl || ((d.sag s).cmaxNow < mine.length && mine.all fun n => n ≤ cl)

/-- SAGGAR_SWITCH (R168 rule 4, R195): a cluster that its owner may not keep is switched out. -/
def execSaggarSwitch (cl : Fin 256) : State → Res := act fun w =>
  let c := w.dev.cl cl
  match c.switching, c.owner with
  | none, some o => if w.dev.mustYield o cl then w.beginSwitch cl none else w
  | _, _ => w

/-- Whether the outgoing saggar's work on a cluster is complete (R76, R104, R154, R168). -/
def Dev.switchReady (d : Dev) (cl : Nat) : Bool :=
  let c := d.cl cl
  c.tq = [] && (d.cmp.recs.all fun r => !r.clusters.contains cl) && c.sfu0.job.isNone && c.sfu1.job.isNone && c.engine.isNone &&
  ((List.range 4).all fun v =>
    ((d.vu cl v).sfuQ.all fun r => match r.job with | .batch _ _ _ => false | _ => true) &&
    (match d.bundle cl v with | some b => b.memOut == 0 && b.waiting ≠ .access | none => true))

/-- Where the images of a cluster lie in a saggar's save area (R216). -/
def Dev.saveBase (d : Dev) (s cl : Nat) : Nat :=
  let ms := (d.mpage s).cur
  ms.save.toNat + 0x120000 * (cl - ms.lo.toNat)

def bundleImageAt (base vu : Nat) : Nat := base + 0x4100 * vu
def slotImageAt (base i : Nat) : Nat := base + 0x10400 + 0x2040 * i

/-- A bundle image (R168): vector registers, then 256 bytes whose layout the manual leaves open (log entry 22). -/
def bundleImage (b : Bundle) (open_ : List Byte) : List Byte :=
  ((List.range 4096).flatMap fun i => leBytes 4 (b.elem 0 i).toNat) ++ open_

/-- A tile slot's flags word (R75). -/
def Slot.word (x : Slot) : Nat := b2n x.live * 2 ^ 31 + x.kind.code * 2 ^ 29 + x.flags.toNat

/-- A tile slot image (R76). -/
def slotImage (x : Slot) : List Byte :=
  (x.pairs.flatMap fun p => leBytes 4 p.1.toNat ++ leBytes 4 p.2.toNat) ++ leBytes 4 x.word ++ List.replicate 60 0

/-- The live slots of a cluster. -/
def Cluster.liveSlots (c : Cluster) : Tab Slot := c.slots.filter fun x => x.2.live

/-- The stacks under the ranges of a save area. -/
def stacksUnder (l : List (Nat × Nat)) : List Nat :=
  l.flatMap fun r => (piecesOf r.1 r.2).map fun p => hbmDom (hbmStack p.1)

/-- The image ranges of a saggar at a cluster: those it will save, or those it has saved. -/
def imageRanges (base : Nat) (vus slots : List Nat) : List (Nat × Nat) :=
  (vus.map fun v => (bundleImageAt base v, 16640)) ++ slots.map fun i => (slotImageAt base i, 8256)

/-- Whether an image of a cluster has to cross the link C0–C1 while that has failed, or its channel is poisoned (R19, R190, R462). -/
def Dev.imageCut (d : Dev) (s cl a n : Nat) : Bool :=
  (d.hub.d2dDead.getLsbD 2 || (d.sag s).poisoned 2 0 0 2) && (piecesOf a n).any fun p => hbmStack p.1 / 4 ≠ dieOf cl

/-- A bundle whose image the failed link has cut off faults with POISON, and the failure counts on the channel (R191, R462; DESIGN
CHOICE, log entry 40). -/
def W.cutBundle (w : W) (cl vu s a : Nat) : W :=
  let w := w.poison s 2 0 0 2 1
  match w.dev.bundle cl vu with
  | some b => if b.faulted then w else w.faultBundle cl vu 4 0 b.pc a 0
  | none => w

/-- A tile slot whose contents are lost: the canonical NaN in every element, NAN set (R461; DESIGN CHOICE, log entry 40). -/
def Slot.lost (x : Slot) : Slot := { x with flags := x.flags ||| 1, pairs := List.replicate 1024 (0x7FC00000, 0) }

/-- Save one bundle of the outgoing saggar (R104, R168), with its requests not yet granted. -/
def W.saveBundle (w : W) (cl o v : Nat) : W :=
  let a := bundleImageAt (w.dev.saveBase o cl) v
  let cut := w.dev.imageCut o cl a 16640
  let w := if cut ∧ (w.dev.bundle cl v).isSome then w.cutBundle cl v o a else w
  match w.dev.bundle cl v with
  | some b =>
    let x := w.dev.vu cl v
    let (l, w) := w.drawBytes 256
    let w := if cut then w else w.store .hbm a (bundleImage b l)
    let w := w.modSag o fun g => { g with saved := g.saved ++ [⟨cl, v, b, x.sfuQ.filter fun r => r.who.sag == o, x.lost⟩] }
    w.modVu cl v fun x => { x with bundle := none, sfuQ := x.sfuQ.filter (fun r => r.who.sag ≠ o), lost := 0 }
  | none => w

/-- Save one live slot: its image, and what the saved state holds of it (R76). -/
def W.saveSlot (w : W) (cl o : Nat) (x : Nat × Slot) : (Nat × Slot) × W :=
  let a := slotImageAt (w.dev.saveBase o cl) x.1
  if w.dev.imageCut o cl a 8256 then ((x.1, x.2.lost), w.poison o 2 0 0 2 1)
  else (x, w.store .hbm a (slotImage x.2))

/-- Save the outgoing saggar's bundles and live slots (R76, R168). What the failed link C0–C1 cuts off is lost (R19). -/
def W.saveOut (w : W) (cl o : Nat) : W :=
  let w := (List.range 4).foldl (fun w v => w.saveBundle cl o v) w
  let (live, w) := (w.dev.cl cl).liveSlots.foldl (fun (r : Tab Slot × W) x =>
    let y := r.2.saveSlot cl o x
    (r.1 ++ [y.1], y.2)) ([], w)
  let w := if live = [] then w else w.modSag o fun g => { g with savedSlots := g.savedSlots ++ [⟨cl, live⟩] }
  w.modCl cl fun c => { c with slots := [] }

/-- A tile slot restored with lines of 64 bytes in error: the eight elements of each become the canonical NaN, and NAN is set
(R461). -/
def Slot.hurt (x : Slot) (bad : Nat → Bool) : Slot :=
  { x with flags := x.flags ||| 1
           pairs := (List.range x.pairs.length).map fun i => if bad (i / 8) then (0x7FC00000, 0) else x.pairs.getD i (0, 0) }

/-- A tile slot restored from an image, and whether a line of the image is in error (R461). -/
def restoreSlot (m : Mem) (a : Nat) (x : Slot) : Slot × Bool :=
  if m.inError .hbm a 8192 then (x.hurt fun i => m.inError .hbm (a + 64 * i) 64, true) else (x, false)

/-- A restored bundle in error (R461): it does not run, and has a fault record of cause MEM. -/
def W.lostBundle (w : W) (cl vu : Nat) (a : Nat) : W :=
  match w.dev.bundle cl vu with
  | some b => w.faultBundle cl vu 3 0x0F b.pc a 0
  | none => w

/-- Restore the incoming saggar's bundles and slots of a cluster (R76, R104, R168, R461). What the failed link C0–C1 cuts off is lost
(R19). -/
def W.restoreIn (w : W) (cl s : Nat) (bad : Bool) : W :=
  let base := w.dev.saveBase s cl
  let g := w.dev.sag s
  let bs := g.saved.filter fun x => x.cl == cl
  let ss := (g.savedSlots.filter fun x => x.cl == cl).flatMap SavedSlots.slots
  let mark (w : W) (a : Nat) : W := if bad then w.put (.bad .hbm (a / 64)) else w
  let w := w.modSag s fun g =>
    { g with saved := g.saved.filter (fun x => x.cl ≠ cl), savedSlots := g.savedSlots.filter fun x => x.cl ≠ cl }
  let w := bs.foldl (fun w x => mark w (bundleImageAt base x.vu)) w
  let w := ss.foldl (fun w x => mark w (slotImageAt base x.1)) w
  let w := bs.foldl (fun w x => w.modVu cl x.vu fun v => { v with bundle := some x.bundle, sfuQ := v.sfuQ ++ x.sfuQ, lost := x.lost }) w
  let cut := bs.filter fun x => w.dev.imageCut s cl (bundleImageAt base x.vu) 16640
  let gone := (ss.filter fun x => w.dev.imageCut s cl (slotImageAt base x.1) 8256).map Prod.fst
  let w := cut.foldl (fun w x => w.cutBundle cl x.vu s (bundleImageAt base x.vu)) w
  let w := if gone = [] then w else w.poison s 2 0 0 2 gone.length
  let lost := bs.filter fun x => !(cut.any fun y => y.vu == x.vu) && w.mem.inError .hbm (bundleImageAt base x.vu) 16640
  let w := lost.foldl (fun w x => w.lostBundle cl x.vu (bundleImageAt base x.vu)) w
  let rs := ss.map fun x => (x.1, if gone.contains x.1 then (x.2.lost, false) else restoreSlot w.mem (slotImageAt base x.1) x.2)
  let w := w.modCl cl fun c => { c with slots := rs.map fun x => (x.1, x.2.1) }
  let hit := rs.countP fun x => x.2.2
  let w := if lost = [] then w else w.event 0x0304 (srcOf 1 cl) (some s) [(4, 0), (4, lost.length), (4, 0)]
  if hit = 0 then w else w.event 0x0304 (srcOf 1 cl) (some s) [(4, 1), (4, 0), (4, hit)]

/-- SAGGAR_SWITCH_DONE (R22, R76, R104, R123, R154, R167, R168, R216, R461): a saggar that may no longer own the cluster, by its mask or
by the range of its save area, does not become its owner. `restoreBad` says that the error-correcting code
finds every restored image in error. -/
def execSaggarSwitchDone (cl : Fin 256) (restoreBad : Found Bool) : State → Res := actMem fun w =>
  let w := w.bring restoreBad.ecc
  let c := w.dev.cl cl
  match c.switching with
  | none => w
  | some k =>
    if !w.dev.switchReady cl then w
    else if !w.dev.admits cl then w.raiseWake cl true
    else
      let outs := match c.owner with
        | some o => imageRanges (w.dev.saveBase o cl) ((List.range 4).filter fun v => (w.dev.bundle cl v).isSome)
            (c.liveSlots.map Prod.fst)
        | none => []
      let ins := match k.into with
        | some s => imageRanges (w.dev.saveBase s cl) (((w.dev.sag s).saved.filter fun x => x.cl == cl.val).map Saved.vu)
            (((w.dev.sag s).savedSlots.filter fun x => x.cl == cl.val).flatMap fun x => x.slots.map Prod.fst)
        | none => []
      match (stacksUnder (outs ++ ins)).filter fun x => !w.dev.admits x with
      | d :: _ => w.raiseWake d true
      | [] =>
        let w := (stacksUnder (outs ++ ins)).eraseDups.foldl W.touch (w.touch cl)
        let w := match c.owner with | some o => w.saveOut cl o | none => w
        let into := k.into.filter fun s => w.dev.mayOwn s cl
        let w := w.own cl into
        match into with
        | some s =>
          let w := match ins with | r :: _ => w.findAll .hbm r.1 | [] => w
          ((w.restoreIn cl s restoreBad.of).cbarCheck cl).unstall s
        | none => w

end Sys2Proof.Machine
end

