-- ==== Sys2Proof/Machine/Sync.lean ====
section
/-!
DEFINITION. Faults, traps, counters and thread flags (R159, R170–R173), barriers and waits (R174–R177), fences (R179) and
the acknowledgement of poisoned channels (R192).
-/
namespace Sys2Proof.Machine

/-- Change every bundle of a saggar, resident or saved. -/
def W.modBundles (w : W) (s : Nat) (f : Bundle → Bundle) : W :=
  let g (b : Bundle) : Bundle := if b.sag = s then f b else b
  (w.modCmp fun c => { c with vus := Tab.mapV (fun _ v => { v with bundle := v.bundle.map g }) c.vus }).modSag s fun x =>
    { x with saved := x.saved.map fun y => { y with bundle := g y.bundle } }

/-- Cluster barriers of every cluster that a saggar's bundles are on (R174). -/
def W.cbarAll (w : W) (s : Nat) : W :=
  ((List.range 256).filter fun n => (w.dev.cl n).owner == some s).foldl W.cbarCheck w

/-- A bundle halted by a fault is terminated, once no trap that is still to be acknowledged holds it (R171, R173). -/
def ackFault (b : Bundle) : Bundle :=
  if b.faulted then
    match b.trap with
    | .no | .killAtBoundary => { b with faulted := false, term := true, live := 0, trap := .no }
    | _ => { b with faulted := false, term := true }
  else b

/-- Writing 1 to SAG.FSTAT.full (R171). The emptied record reads as zero (DESIGN CHOICE, log entry 43). -/
def W.sagFstat (w : W) (s : Nat) (v : Word) : W :=
  if v.getLsbD 31 ∧ (w.dev.sag s).ffull then
    ((w.modSag s fun g => { g with ffull := false, fmore := 0, frec := List.replicate 8 0 }).modBundles s ackFault).cbarAll s
  else w

/-- FAULT_ACK (R171, R173). -/
def execFaultAck (ag : Agent) (s : Fin 128) : State → Res := act fun w =>
  w.regAccess ag (.view s false) (.write (.blk 0x30000 (0x100 * s + 0x4C)) 0x80000000) fun w => w.sagFstat s 0x80000000

/-- The bundle that a trap record names is released from the trap (R172, R173). One that a fault holds, or whose fault has been
acknowledged, stands at the boundary already. -/
def ackTrap (resume : Bool) (b : Bundle) : Bundle :=
  match b.trap with
  | .halted =>
    if resume then { b with trap := .no, live := if b.term then 0 else b.live }
    else { b with trap := .no, term := true, live := if b.faulted then b.live else 0 }
  | .pending =>
    if resume then { b with trap := .no, live := if b.term then 0 else b.live }
    else if b.faulted then { b with trap := .no, term := true }
    else if b.term then { b with trap := .no, live := 0 }
    else { b with trap := .killAtBoundary }
  | _ => b

/-- A write to SAG.TSTAT (R172). The emptied record and die read as zero (DESIGN CHOICE, log entry 43). -/
def W.sagTstat (w : W) (s : Nat) (v : Word) : W :=
  let g := w.dev.sag s
  if v.getLsbD 31 ∧ g.tfull then
    let resume := v.getLsbD 0
    let w := w.modSag s fun g => { g with tfull := false, tdie := false, twho := none, trec := List.replicate 8 0 }
    match g.twho with
    | some i =>
      let held := (w.dev.cmp.vus.any fun x => match x.2.bundle with | some b => i.owns b && b.trap ≠ .no | none => false) ||
        g.saved.any fun x => i.owns x.bundle && x.bundle.trap ≠ .no
      let w := if held ∧ !resume then w.modLaunch s i.launch fun l => { l with nanHalted := true } else w
      (w.modIssuer i (ackTrap resume)).cbarAll s
    | none => w
  else w

/-- TRAP_ACK_RESUME (R172). -/
def execTrapAckResume (ag : Agent) (s : Fin 128) : State → Res := act fun w =>
  w.regAccess ag (.view s false) (.write (.blk 0x30000 (0x100 * s + 0x48)) 0x80000001) fun w => w.sagTstat s 0x80000001

/-- TRAP_ACK_TERMINATE (R172). -/
def execTrapAckTerminate (ag : Agent) (s : Fin 128) : State → Res := act fun w =>
  w.regAccess ag (.view s false) (.write (.blk 0x30000 (0x100 * s + 0x48)) 0x80000000) fun w => w.sagTstat s 0x80000000

/-- A write to SAG.CCLR (R170, R198). -/
def W.sagCclr (w : W) (s : Nat) (v : Word) : W :=
  w.modSag s fun g => { g with csat := if v.getLsbD 0 then 0 else g.csat, cflush := if v.getLsbD 1 then 0 else g.cflush }

/-- COUNTER_CLEAR_SAT (R170). -/
def execCounterClearSat (ag : Agent) (s : Fin 128) : State → Res := act fun w =>
  w.regAccess ag (.view s false) (.write (.blk 0x30000 (0x100 * s + 0x40)) 1) fun w => w.sagCclr s 1

/-- COUNTER_CLEAR_FLUSH (R170). -/
def execCounterClearFlush (ag : Agent) (s : Fin 128) : State → Res := act fun w =>
  w.regAccess ag (.view s false) (.write (.blk 0x30000 (0x100 * s + 0x40)) 2) fun w => w.sagCclr s 2

/-- Whether an sfx of the bundle on a vector unit has not ended yet: it may still raise flags (R96). -/
def Dev.sfxOut (d : Dev) (cl vu : Nat) : Bool :=
  let sfx (q : SfuReq) : Bool := q.who.cl == cl && q.who.vu == vu &&
    (match q.job with | .sfx _ _ _ _ => true | _ => false)
  (d.vu cl vu).sfuQ.any sfx ||
  [(d.cl cl).sfu0, (d.cl cl).sfu1].any fun u => match u.job with | some j => sfx j.2.1 | none => false

/-- The identity of a thread (R159), with the argument of its launch (R160): the special registers that every thread reads. -/
structure Identity where
  sid : BitVec 7
  cid : BitVec 8
  vid : BitVec 2
  lid : BitVec 4
  bix : Word
  tix : Word
  ltag : Word
  arg : DWord
  deriving DecidableEq, Repr

/-- What the thread of a lane of the bundle on a vector unit reads of its special registers now (R159, R160). No row of the opcode
table reads one, so no command of the model does (log entry 40). -/
def Dev.identity (d : Dev) (cl vu lane : Nat) : Option Identity :=
  match d.bundle cl vu with
  | some b =>
    match d.launchOf b.sag b.launch with
    | some l =>
      some { sid := BitVec.ofNat 7 b.sag, cid := BitVec.ofNat 8 cl, vid := BitVec.ofNat 2 vu, lid := BitVec.ofNat 4 lane
             bix := BitVec.ofNat 32 b.bix, tix := BitVec.ofNat 32 (16 * b.bix + lane), ltag := l.tag, arg := l.arg }
    | none => none
  | none => none

/-- Put each active thread's flags in element 4l of a register, zero-extended (R157, R159): the spec does not say which of a lane's four
elements takes them (DESIGN CHOICE, log entry 43). -/
def readFlags (b : Bundle) (dst : Nat) (act : BitVec 16) : Bundle :=
  (List.range 16).foldl (fun x l => if act.getLsbD l then x.setElem dst (4 * l) ((b.flagsOf l).zeroExtend 32) else x) b

/-- FRD (R159). -/
def execFrd (at_ : At) (dst : Fin 64) : State → Res := act fun w =>
  if w.dev.sfxOut at_.cl at_.vu then w
  else w.instrR at_ [dst] fun w _ act => w.modBundle at_.cl at_.vu fun b => readFlags b dst act

/-- FRC (R159): reads the flags and clears those of the active threads. -/
def execFrc (at_ : At) (dst : Fin 64) : State → Res := act fun w =>
  if w.dev.sfxOut at_.cl at_.vu then w
  else w.instrR at_ [dst] fun w _ act => w.modBundle at_.cl at_.vu fun b =>
    { readFlags b dst act with
      fflags := (List.range 16).foldl (fun t l => if act.getLsbD l then Tab.put t l 0 else t) b.fflags }

/-- BRK (R171). -/
def execBrk (at_ : At) : State → Res := act fun w => w.instr at_ fun w _ act => w.faultAt at_ act 9 0 0

/-- Whether stores of the bundle on a vector unit are on their way to another chip (R179, R181). -/
def Dev.storesOut (d : Dev) (cl vu : Nat) : Bool :=
  d.fab.ops.any fun o => match o.use with | .store x => x.cl.val == cl && x.vu.val == vu | _ => false

/-- Whether a fence may complete: a fence that must wait, or an arrival that is a release (R174, R175), is
presented again (log entry 17). -/
def Dev.fenceOpen (d : Dev) (x : At) (glob : Bool) : Bool :=
  match d.bundle x.cl x.vu with
  | some b => b.memOut == 0 && (!glob || !d.storesOut x.cl x.vu)
  | none => true

/-- CBAR (R174): its arrival is a release. -/
def execCbar (at_ : At) : State → Res := act fun w =>
  if w.dev.fenceOpen at_ false then
    w.instr at_ fun w _ _ => (w.modBundle at_.cl at_.vu fun b => { b with waiting := .cbar }).cbarCheck at_.cl
  else w

/-- Whether a bundle waits at a barrier of its saggar. -/
def Waiting.atBar (b : Nat) : Waiting → Bool
  | .sbar k _ => k == b
  | _ => false

/-- The lanes whose instruction a bundle waits at, where its wait names them. -/
def Waiting.lanes : Waiting → BitVec 16
  | .sbar _ act => act
  | _ => 0

/-- Every bundle that waits at a barrier goes on (R175). -/
def W.sbarRelease (w : W) (s b : Nat) : W :=
  (w.modThr s fun t => { t with bars := Tab.del t.bars b }).modBundles s fun x =>
    if x.waiting.atBar b then resumeBundle x else x

/-- SBAR (R175, R176, R191): its arrival is a release. A count of 0 is outside the instruction's range and takes ILLEGAL. -/
def execSbar (at_ : At) (b : Fin 16) (n : BitVec 16) : State → Res := act fun w =>
  if !w.dev.fenceOpen at_ false then w
  else w.instr at_ fun w x act =>
    let bar := Tab.look ⟨0, 0, 0⟩ (w.dev.thr x.sag).bars b
    if x.storePoison then w.reportStores at_ act
    else if n = 0 then w.faultAt at_ act 1 0 0
    else if bar.arrived ≠ 0 ∧ bar.n ≠ n.toNat then w.faultAt at_ act 8 0 0
    else
      let since := if bar.arrived = 0 then w.dev.now else bar.since
      let w := w.modThr x.sag fun t => { t with bars := Tab.put t.bars b ⟨n.toNat, bar.arrived + 1, since⟩ }
      let w := w.modBundle at_.cl at_.vu fun y => { y with waiting := .sbar b act }
      if bar.arrived + 1 = n.toNat then w.sbarRelease x.sag b else w

/-- A saved bundle takes a fault at its instruction, on some of its lanes (R171). -/
def W.faultSaved (w : W) (s : Nat) (x : Saved) (cause sub data : Nat) (act : BitVec 16) : W :=
  let tag := match w.dev.launchOf s x.bundle.launch with | some l => l.tag | none => 0
  let w := w.modSag s fun g =>
    { g with saved := g.saved.map fun y => if y.cl = x.cl ∧ y.vu = x.vu then
        { y with bundle := { y.bundle with faulted := true, waiting := .no } } else y }
  (w.modLaunch s x.bundle.launch fun l => { l with faulted := true }).fillFault s
    (faultWords cause sub x.cl (16 * x.vu + lowLane (if act = 0 then x.bundle.live else act)) x.bundle.pc (BitVec.ofNat 64 data) tag s)

/-- BARRIER_TIMEOUT (R176). -/
def execBarrierTimeout (s : Fin 128) (b : Fin 16) : State → Res := act fun w =>
  let t := w.dev.thr s
  let bar := Tab.look ⟨0, 0, 0⟩ t.bars b
  if t.barto ≠ 0 ∧ bar.arrived ≠ 0 ∧ bar.since + 1000 * t.barto.toNat ≤ w.dev.now then
    let w := w.modThr s fun t => { t with bars := Tab.del t.bars b }
    let w := w.dev.cmp.vus.foldl (fun w v =>
      match v.2.bundle with
      | some x =>
        if x.sag = s ∧ x.waiting.atBar b then w.faultBundle (v.1 / 4) (v.1 % 4) 7 0 x.pc 0 x.waiting.lanes else w
      | none => w) w
    (w.dev.sag s).saved.foldl (fun w x => if x.bundle.waiting.atBar b then w.faultSaved s x 7 0 0 x.bundle.waiting.lanes else w) w
  else w

/-- WAIT (R177, R181). -/
def execWait (at_ : At) (addr : DWord) (cond : WaitCond) (v : Word) (us : Word) (dst : Fin 64) : State → Res := actMem fun w =>
  if w.dev.memWaits at_ then w
  else w.instrR at_ [dst] fun w b act =>
    match w.access b.sag addr.toNat 4 .wait with
    | (.ok p, w) =>
      let (near, pa) : Bool × Nat := match p with | .near a => (true, a) | .hbm a => (false, a) | _ => (false, 0)
      w.modBundle at_.cl at_.vu fun b => { b with waiting := .word near pa addr.toNat cond v (w.dev.now + 1000 * us.toNat) dst act }
    | (.fault f, w) => w.faultAt at_ act f.code.1 f.code.2 addr.toNat
    | (.cut, w) => (w.poison b.sag 2 0 0 2 1).faultAt at_ act 4 0 addr.toNat
    | (.asleep d, w) => w.raiseWake d true
    | (.moving _, w) => w

/-- A bundle whose wait's time has passed resumes with 0 (R177). -/
def timedOut (now : Nat) (b : Bundle) : Bundle :=
  match b.waiting with
  | .word _ _ _ _ _ t dst act => if t ≤ now then resumeBundle (setLanes b dst act 0) else b
  | _ => b

/-- WAIT_TIMEOUT (R177): of the bundle on a vector unit, and of those that switches have saved from it. -/
def execWaitTimeout (cl : Fin 256) (vu : Fin 4) : State → Res := act fun w =>
  let out := timedOut w.dev.now
  (w.modBundle cl vu out).modCmp fun c =>
    { c with sags := Tab.mapV (fun _ g => { g with saved := g.saved.map fun x =>
        if x.cl = cl.val ∧ x.vu = vu.val then { x with bundle := out x.bundle } else x }) c.sags }

/-- A fence (R179): it completes once the thread's earlier operations are performed at its scope; at package or global
scope it reports failed stores (R191). -/
def W.fence (w : W) (x : At) (wide : Bool) : W :=
  w.instr x fun w b act =>
    if wide ∧ b.storePoison then w.reportStores x act
    else w

/-- FENCE_C (R179). -/
def execFenceC (at_ : At) : State → Res := act fun w =>
  if w.dev.fenceOpen at_ false then w.fence at_ false else w

/-- FENCE_P (R179, R191). -/
def execFenceP (at_ : At) : State → Res := act fun w =>
  if w.dev.fenceOpen at_ false then w.fence at_ true else w

/-- FENCE_G (R179, R191). -/
def execFenceG (at_ : At) : State → Res := act fun w =>
  if w.dev.fenceOpen at_ true then w.fence at_ true else w

/-- Remove the first entry whose first word is given. -/
def dropPoison (v : Nat) : List Poison → List Poison
  | [] => []
  | p :: t => if p.word = v then t else p :: dropPoison v t

/-- A write to SAG.PACK (R192, R193): the entry it matches is acknowledged and its channel reopens. -/
def W.sagPack (w : W) (s : Nat) (v : Word) : W :=
  let hit := (w.dev.sag s).poison.find? fun p => p.word == v.toNat
  let w := w.modSag s fun g => { g with poison := dropPoison v.toNat g.poison }
  match hit with
  | some p => if p.kind = 1 then w.modQ p.unit fun q => { q with episode := false, fail := false, fetchFail := false } else w
  | none => w

/-- POISON_ACK (R192). -/
def execPoisonAck (ag : Agent) (s : Fin 128) (v : Word) : State → Res := act fun w =>
  w.regAccess ag (.view s false) (.write (.blk 0x30000 (0x100 * s + 0x5C)) v) fun w => w.sagPack s v

end Sys2Proof.Machine
end

