-- ==== Sys2Proof/Machine/RegRead.lean ====
section
/-!
DEFINITION. The register map (R498–R503): where an offset leads, what every register reads as, and what a read clears (R10,
R11).
-/
namespace Sys2Proof.Machine

/-- The blocks of BAR0 with their sizes (R499). -/
def barBlocks : List (Nat × Nat) :=
  [(0x0, 0x1000), (0x1000, 0x1000), (0x2000, 0x1000), (0x3000, 0x1000), (0x4000, 0x1000), (0x5000, 0x1000),
   (0x6000, 0x1000), (0x8000, 0x2000), (0xA000, 0x2000), (0xC000, 0x2000), (0xE000, 0x2000), (0x10000, 0x4000),
   (0x14000, 0x4000), (0x18000, 0x4000), (0x1C000, 0x4000), (0x20000, 0x4000), (0x24000, 0x4000), (0x28000, 0x8000),
   (0x30000, 0x8000), (0x38000, 0x8000), (0x40000, 0x8000)]

/-- The pages of the view of saggar `s`: view offset, size, block base, offset in the block (R500). -/
def viewPages (s : Nat) : List (Nat × Nat × Nat × Nat) :=
  [(0x0, 0x100, 0x28000, 0x100 * s), (0x100, 0x40, 0x1C000, 0x1000 + 0x40 * s), (0x200, 0x10, 0x8000, 0x10 * s),
   (0x300, 0x40, 0xA000, 0x40 * s), (0x400, 0x100, 0x30000, 0x100 * s), (0x500, 0x80, 0x38000, 0x80 * s),
   (0x600, 0x80, 0x20000, 0x80 * s)]

/-- An offset in the view of saggar `s`; `fn` is the function whose MSI-X structures lie in it (R500). -/
def viewRef (s : Nat) (fn : Option Nat) (o : Nat) : RegRef :=
  match (viewPages s).find? fun x => x.1 ≤ o && o < x.1 + x.2.1 with
  | some x => .blk x.2.2.1 (x.2.2.2 + (o - x.1))
  | none =>
    match fn with
    | some f =>
      let m := (configId f).msix
      if m.inTable o then .msix f (o - m.table) else if m.inPba o then .pba f (o - m.pba) else .none
    | none => .none

/-- An offset of an agent (R498). -/
def Dev.regRef (d : Dev) (ag : Agent) (o : Nat) : RegRef :=
  match ag with
  | .vf v => viewRef ((Tab.look 0 d.pci.vfmap v).toNat % 128) (some (vfFn v)) o
  | .reg s => viewRef s ((d.vfOf s).map vfFn) o
  | _ =>
    let m := (configId 0).msix
    if 0x2000000 ≤ o ∧ o < 0x2800000 then viewRef ((o - 0x2000000) / 0x10000) .none (o % 0x10000)
    else if m.inTable o then .msix 0 (o - m.table)
    else if m.inPba o then .pba 0 (o - m.pba)
    else match barBlocks.find? fun x => x.1 ≤ o && o < x.1 + x.2 with
      | some x => .blk x.1 (o - x.1)
      | none => .none

/-- The saggar whose page a block offset lies in, for the blocks that a view shows (R500). -/
def pageSag (base o : Nat) : Option Nat :=
  if base = 0x28000 ∨ base = 0x30000 then some (o / 0x100)
  else if base = 0x1C000 ∧ 0x1000 ≤ o ∧ o < 0x3000 then some ((o - 0x1000) / 0x40)
  else if base = 0x8000 ∧ o < 0x800 then some (o / 0x10)
  else if base = 0xA000 then some (o / 0x40)
  else if base = 0x38000 ∧ o < 0x4000 then some (o / 0x80)
  else if base = 0x20000 then some (o / 0x80)
  else none

/-- Where a register is held and who sees it (R500, R502); `wr` for a write, since R510 makes some fields RO in a view. -/
def Dev.refPlace (d : Dev) (ag : Agent) (r : RegRef) (wr : Bool) : RegPlace :=
  match r with
  | .blk base o =>
    if 0x3000 ≤ base ∧ base ≤ 0x6000 then .aon
    else match pageSag base o with
      | some s =>
        let p := o % 0x100
        .view s (wr && base == 0x30000 && (p < 0x30))
      | none => .glob
  | _ => d.fnPlace ag

/-- Word `k` of a value (R8). -/
def wordOf (x k : Nat) : Nat := x / 2 ^ (32 * k) % 2 ^ 32

/-- A flag at a bit of a register. -/
def flagAt (b : Bool) (k : Nat) : Nat := b2n b * 2 ^ k

def listWord (l : List Word) (k : Nat) : Nat := (l.getD k 0).toNat

/-- HUB (R35, R497). HUB.D2D.up goes on reading 1 while the hub wakes and the die-to-die links come back (R403 step 8): the spec does not say
what it reads then (DESIGN CHOICE, log entry 43). -/
def Dev.readHub (d : Dev) (o : Nat) : Nat :=
  let s := d.stage
  let k (a : Nat) := (o - a) / 4
  let at_ (t : Tab (BitVec 16)) (i : Nat) : Nat := (Tab.look 0 t i).toNat
  if o = 0 then 0x00480000 + Config.stepping.toNat * 256
  else if 0x10 ≤ o ∧ o < 0x30 then
    ((List.range 32).map fun i => flagAt (d.cl (32 * k 0x10 + i)).online i).sum
  else if o = 0x40 then d.hub.d2dFail.toNat * 2 ^ 16 + d.hub.d2dUp.toNat
  else if o = 0x50 then d.hub.cur.toNat * 2 ^ 16 + d.hub.tgt.toNat
  else if 0x100 ≤ o ∧ o < 0x114 then
    match s.stg.find? fun x => x.1 == k 0x100 with
    | some x => 2 ^ 31 + x.2.toNat
    | none => 0
  else if 0x120 ≤ o ∧ o < 0x134 then at_ s.force (k 0x120)
  else if 0x140 ≤ o ∧ o < 0x154 then at_ (if s.pend then s.apply else s.force) (k 0x140)
  else if o = 0x164 then s.cgen.toNat
  else if o = 0x168 then flagAt s.pend 31 + flagAt s.range 2 + flagAt s.lost 1
  else if 0x400 ≤ o ∧ o < 0x400 + 4 * 277 then
    (if s.pend ∧ stageOrder (k 0x400) < s.pos then s.cgen + 1 else s.cgen).toNat
  else 0

/-- Whether a vector unit has an instruction in flight (R36): one that waits, memory operations, or an sfx that is queued or that an SFU
holds. -/
def Dev.vuBusy (d : Dev) (n v : Nat) : Bool :=
  let sfx (r : SfuReq) : Bool := match r.job with | .sfx _ _ _ _ => true | .batch _ _ _ => false
  ((d.bundle n v).any fun b => b.memOut ≠ 0 || b.waiting ≠ .no) || ((d.vu n v).sfuQ.any sfx) ||
    [(d.cl n).sfu0, (d.cl n).sfu1].any fun s => s.job.any fun j => sfx j.2.1 && j.2.1.who.vu == v

/-- CLU (R36). A vector unit counts as having an instruction in flight while its bundle waits for one; a
cluster that is not ACTIVE is not busy (R404). -/
def Dev.readClu (d : Dev) (o : Nat) : Nat :=
  let n := o / 0x40
  let c := d.cl n
  if o % 0x40 = 0 then
    flagAt c.online 31 + (match c.owner with | some s => 2 ^ 30 + s * 2 ^ 16 | none => 0) + flagAt c.switching.isSome 29
      + min 3 (d.dom n).cur.code
  else if o % 0x40 = 4 ∧ (d.dom n).cur = .active then
    flagAt (d.queuesTouching n ≠ []) 7 + flagAt c.sfu1.job.isSome 6 + flagAt c.sfu0.job.isSome 5
      + ((List.range 4).map fun v => flagAt (d.vuBusy n v) (1 + v)).sum
      + flagAt (c.tq ≠ []) 0
  else 0

/-- ACC (R86). Each count of TQ has eight bits and shows 255 where more operations are queued (DESIGN CHOICE, log entry 38). -/
def Dev.readAcc (d : Dev) (o : Nat) : Nat :=
  let c := d.cl (o / 0x40)
  let p := o % 0x40
  if p < 0x10 then ((List.range 32).map fun i => flagAt (c.slot (32 * (p / 4) + i)).live i).sum
  else if p = 0x10 then
    let mma := (c.tq.filter fun e => (tcmdOf e.cmd).op == 1).length
    min (c.tq.length - mma) 255 * 256 + min mma 255
  else 0

/-- NUM (R61). -/
def Dev.readNum (d : Dev) (o : Nat) : Nat :=
  let n := d.num (o / 0x100)
  let p := o % 0x100
  if p = 0 then b2n n.relaxed
  else if 0x40 ≤ p ∧ p < 0xC0 then (Tab.look 0 n.hint ((p - 0x40) / 4 % 16)).toNat
  else 0

/-- SF (R106). -/
def Dev.readSf (d : Dev) (o : Nat) : Nat :=
  let c := d.cl (o / 0x20)
  if o = 0x2000 then 0x02000100
  else if 0x2000 ≤ o then 0
  else match o % 0x20 with
    | 0 => c.grants.toNat
    | 4 => c.ovr.toNat
    | 8 => c.maxwait.toNat
    | _ => 0

/-- CRV.TSTAT and CRV.RSTAT (R128). -/
def TSlot.stat (x : TSlot) : Nat := x.state.val * 2 ^ 30 + flagAt x.cert 29 + x.bound.toNat

/-- CRV (R128). -/
def Dev.readCrv (d : Dev) (o : Nat) : Nat :=
  let c := d.cmp.crv
  if o = 4 then wordOf c.lsrc.toNat 0
  else if o = 8 then wordOf c.lsrc.toNat 1
  else if o = 0xC then flagAt c.busy.isSome 31 + flagAt c.lost 30 + c.code.toNat
  else if 0x100 ≤ o ∧ o < 0x300 then
    let x := d.tslot ((o - 0x100) / 8)
    if o % 8 = 0 then x.stat else x.ident.toNat
  else if 0x400 ≤ o ∧ o < 0x800 then
    let x := d.rslot ((o - 0x400) / 8)
    if o % 8 = 0 then x.stat else x.ident.toNat
  else if 0x1000 ≤ o ∧ o < 0x3000 then
    let p := d.cpage ((o - 0x1000) / 0x40)
    let r := o % 0x40
    if r < 0x20 then (Tab.look 0 p.binds (r / 4)).toNat
    else if r < 0x30 then wordOf p.rperm.toNat ((r - 0x20) / 4)
    else if r = 0x30 then flagAt p.bexo 1 + flagAt p.boundsOnly 0
    else if r = 0x38 then flagAt p.pend 31 + flagAt p.refused 30
    else if r = 0x3C then p.gen.toNat
    else 0
  else 0

/-- ROW (R156). -/
def Dev.readRow (d : Dev) (o : Nat) : Nat :=
  if o < 0x800 then
    match o % 0x10 with
    | 0 => (d.sag (o / 0x10)).degen.toNat
    | 4 => (d.sag (o / 0x10)).nanx.toNat
    | _ => 0
  else if 0x1000 ≤ o ∧ o < 0x1400 then
    let c := d.cl ((o - 0x1000) / 4)
    match c.engine with
    | some id =>
      match d.cmp.rowOps.find? fun x => x.id == id with
      | some x => 2 ^ 31 + flagAt c.engLead 30 + (rcmdOf x.cmd).op * 2 ^ 16 + x.who.sag
      | none => 0
    | none => 0
  else 0

/-- THR (R197). -/
def Dev.readThr (d : Dev) (o : Nat) : Nat :=
  let t := d.thr (o / 0x40)
  match o % 0x40 with
  | 0x00 => wordOf t.r0.base.toNat 0
  | 0x04 => wordOf t.r0.base.toNat 1
  | 0x08 => t.r0.size.toNat
  | 0x0C => t.r0.prod.toNat
  | 0x10 => t.r0.cons.toNat
  | 0x14 => wordOf t.r1.base.toNat 0
  | 0x18 => wordOf t.r1.base.toNat 1
  | 0x1C => t.r1.size.toNat
  | 0x20 => t.r1.prod.toNat
  | 0x24 => t.r1.cons.toNat
  | 0x28 => t.barto.toNat
  | 0x2C => flagAt t.r1.halt 3 + flagAt t.r0.halt 2 + flagAt t.norec 1 + flagAt t.overd 0
  | _ => 0

/-- SAG.CTL.state (R198). -/
def SagState.code : SagState → Nat
  | .off => 0
  | .running => 1
  | .draining => 2
  | .killing => 3

/-- SAG.TSTAT and SAG.FSTAT (R198). -/
def Dev.tstat (d : Dev) (s : Nat) : Nat := flagAt (d.sag s).tfull 31 + flagAt (d.trapHalted s) 30 + flagAt (d.sag s).tdie 29
def Sag.fstat (g : Sag) : Nat := flagAt g.ffull 31 + g.fmore.toNat

/-- SAG.PHEAD (R192, R198). -/
def Sag.phead (g : Sag) (k : Nat) : Nat :=
  match g.poison with
  | e :: _ => if k = 0 then e.word else e.count.toNat
  | [] => 0

/-- SAG (R198). -/
def Dev.readSag (d : Dev) (o : Nat) : Nat :=
  let s := o / 0x100
  let g := d.sag s
  let p := o % 0x100
  if 0x10 ≤ p ∧ p < 0x30 then wordOf g.cmask.toNat ((p - 0x10) / 4)
  else if 0x60 ≤ p ∧ p < 0x80 then listWord g.trec ((p - 0x60) / 4)
  else if 0x80 ≤ p ∧ p < 0xA0 then listWord g.frec ((p - 0x80) / 4)
  else match p with
    | 0x00 => g.st.code * 256 + b2n g.en
    | 0x04 => g.ntrap.toNat
    | 0x08 => g.tq.toNat * 2 ^ 16 + g.cmax.toNat
    | 0x0C => g.slice.toNat
    | 0x30 => wordOf g.csat.toNat 0
    | 0x34 => wordOf g.csat.toNat 1
    | 0x38 => wordOf g.cflush.toNat 0
    | 0x3C => wordOf g.cflush.toNat 1
    | 0x44 => g.flags.toNat
    | 0x48 => d.tstat s
    | 0x4C => g.fstat
    | 0x50 => g.poison.length
    | 0x54 => g.phead 0
    | 0x58 => g.phead 1
    | _ => 0

/-- MEM (R219, R220). -/
def Dev.readMem (d : Dev) (o : Nat) : Nat :=
  if o < 0x4000 then
    let p := d.mpage (o / 0x80)
    match o % 0x80 with
    | 0x00 => wordOf p.staged.root.toNat 0
    | 0x04 => wordOf p.staged.root.toNat 1
    | 0x08 => p.staged.gvc.toNat
    | 0x10 => flagAt p.pend 31 + flagAt p.refused 30
    | 0x14 => p.genv.toNat
    | 0x18 => wordOf p.inva.toNat 0
    | 0x1C => wordOf p.inva.toNat 1
    | 0x24 => flagAt p.inv.isSome 31 + flagAt p.invLost 30
    | 0x28 => wordOf p.mvsrc.toNat 0
    | 0x2C => wordOf p.mvsrc.toNat 1
    | 0x30 => wordOf p.mvpte.toNat 0
    | 0x34 => wordOf p.mvpte.toNat 1
    | 0x3C => flagAt (p.mv.isSome || p.mvWait) 31 + flagAt p.mvLost 30 + p.mvcode.toNat
    | 0x40 => flagAt p.lfValid 31 + p.lfCause.toNat
    | 0x44 => wordOf p.lfAddr.toNat 0
    | 0x48 => wordOf p.lfAddr.toNat 1
    | _ => 0
  else if o < 0x5000 then
    let m := (d.mpage ((o - 0x4000) / 0x20)).staged
    match o % 0x20 with
    | 0x00 => wordOf m.save.toNat 0
    | 0x04 => wordOf m.save.toNat 1
    | 0x08 => m.hi.toNat * 2 ^ 16 + m.lo.toNat
    | 0x10 => wordOf m.base.toNat 0
    | 0x14 => wordOf m.base.toNat 1
    | 0x18 => wordOf m.lim.toNat 0
    | 0x1C => wordOf m.lim.toNat 1
    | _ => 0
  else if 0x6000 ≤ o ∧ o < 0x7000 then
    ((List.range 4).map fun j => (Tab.look 0 d.cmp.nsec (o - 0x6000 + j)).toNat * 2 ^ (8 * j)).sum
  else if o = 0x7000 then d.cmp.cecc.toNat
  else 0

/-- DMA (R245). -/
def Dev.readDma (d : Dev) (o : Nat) : Nat :=
  let q := d.q (o / 0x40)
  match o % 0x40 with
  | 0x00 => wordOf q.base.toNat 0
  | 0x04 => wordOf q.base.toNat 1
  | 0x08 => q.size.toNat
  | 0x0C => q.prod.toNat
  | 0x10 => q.cons.toNat
  | 0x14 => q.fetch.toNat
  | 0x18 => q.burst.toNat * 16 + flagAt q.relaxed 1 + b2n q.en
  | 0x1C => flagAt q.busy 31 + flagAt q.halted 30 + flagAt q.overd 29 + q.ferr.toNat
  | 0x20 => q.done.toNat
  | 0x24 => q.refs.toNat
  | _ => 0

/-- PCI (R246). -/
def Dev.readPci (d : Dev) (o : Nat) : Nat :=
  let p := d.pci
  if o = 0 then flagAt p.up 12 + flagAt p.slow 11 + flagAt p.flit 10 + p.width.toNat * 16 + p.speed.toNat
  else if o = 4 then p.bad.toNat * 2 ^ 24 + p.nonfatal.toNat * 2 ^ 16 + p.correctable.toNat
  else if o = 8 then b2n p.dup
  else if 0x100 ≤ o ∧ o < 0x200 then (Tab.look 0 p.vfmap ((o - 0x100) / 4)).toNat
  else 0

/-- Four bytes of a ring, little-endian (R278). -/
def ringWord (t : Tab Byte) (a : Nat) : Nat := ((List.range 4).map fun j => (Tab.look 0 t (a + j)).toNat * 2 ^ (8 * j)).sum

/-- CON (R278). -/
def Dev.readCon (d : Dev) (o : Nat) : Nat :=
  let c := d.con
  if o = 0 then flagAt c.uop 16 + c.idle.toNat
  else if o = 4 then
    (match c.run with | some r => 2 ^ 15 + r.sess * 2 ^ 14 | none => 0) + (if d.sessUp 1 then 2 ^ 11 + c.s1.priv.val * 2 ^ 9 + flagAt c.s1.machine 8 else 0)
      + c.s0.priv.val * 2 ^ 5 + flagAt c.s0.machine 4 + bits d.start.strap.toNat 1 0
  else if o = 8 then c.drop.toNat * 2 ^ 24 + c.crc.toNat * 2 ^ 16 + c.frm.toNat * 2 ^ 8 + c.ovr.toNat
  else if o = 0xC then flagAt c.irq 1
  else if o = 0x10 then b2n c.overd
  else if o = 0x14 then c.iprod.toNat
  else if o = 0x18 then c.icons.toNat
  else if o = 0x1C then c.oprod.toNat
  else if o = 0x20 then c.ocons.toNat
  else if o = 0x24 then c.svcf.toNat
  else if 0x100 ≤ o ∧ o < 0x140 then (claimHolder c ((o - 0x100) / 4)).toNat
  else if 0x1000 ≤ o ∧ o < 0x1400 then ringWord c.inBuf (o - 0x1000)
  else if 0x2000 ≤ o ∧ o < 0x3000 then ringWord c.outBuf (o - 0x2000)
  else 0

/-- LNK.PSTAT (R333). -/
def Port.pstat (x : Port) : Nat :=
  x.state.code * 2 ^ 28 + x.phase.code * 2 ^ 24 + x.width * 2 ^ 16 + flagAt x.enc 4 + x.authSt.val * 4 + x.fails % 4

/-- LNK.PART (R333). -/
def Peer.word (x : Peer) (k : Nat) : Nat :=
  match k with
  | 2 => x.kind.toNat * 2 ^ 24 + x.port.toNat % 64 * 2 ^ 16 + flagAt x.chipv 15 + x.chip.toNat
  | 3 => x.kid.toNat
  | _ => wordOf x.serial.toNat k

/-- LNK (R333, R334). -/
def Dev.readLnk (d : Dev) (o : Nat) : Nat :=
  if o = 0x1000 then d.reprobe.toNat
  else if 0xC00 ≤ o then 0
  else
    let x := d.port (o / 0x100)
    let p := o % 0x100
    if 0x14 ≤ p ∧ p < 0x20 then wordOf x.lanes.toNat ((p - 0x14) / 4)
    else if 0x20 ≤ p ∧ p < 0x30 then (match x.peer with | some y => y.word ((p - 0x20) / 4) | none => 0)
    else if 0x40 ≤ p ∧ p < 0x7C then (Tab.look 0 x.cnt ((p - 0x40) / 4)).toNat
    else match p with
      | 0x04 => b2n x.encreq
      | 0x08 => x.pstat
      | 0x0C => x.causePhase * 256 + x.cause.toNat
      | 0x10 => x.base * 2 ^ 16 + x.count
      | 0x80 => wordOf x.ftx.toNat 0
      | 0x84 => wordOf x.ftx.toNat 1
      | 0x88 => wordOf x.frx.toNat 0
      | 0x8C => wordOf x.frx.toNat 1
      | _ => 0

/-- FAB.PORT (R335, R362): the role of a port with lanes, its exclusion, what its partner reports, and its plane. -/
def Dev.fabPort (d : Dev) (p : Nat) : Nat :=
  if (d.port p).count = 0 then 0
  else
    let (rack, pos) : Nat × Nat :=
      if p < 6 then (d.reported p).getD (0, 0)
      else match d.chipBeyond p with | some c => (c.toNat / 64, c.toNat % 64) | none => (0, 0)
    (if p < 6 then 2 ^ 30 else 2 ^ 31) + flagAt (Tab.look false d.fab.excl p) 29 + rack * 2 ^ 16 + pos * 2 ^ 8
      + (if p < 6 then d.planeOf p % 8 else 0)

/-- FAB.STAT (R362). -/
def Dev.fabStat (d : Dev) : Nat :=
  let f := d.fab
  (FabState.code f.state).val * 2 ^ 28 + flagAt f.master 27 + flagAt f.untrusted 26 + flagAt d.eligible 25 + f.cause.toNat * 2 ^ 16
    + (match f.chip with | some c => 2 ^ 24 + c.toNat | none => 0)

/-- FAB.VIEW and FAB.VIEWX (R362). -/
def Fab.viewWord (f : Fab) (s : Nat) : Word := Tab.look 0x0FFF0000 f.view s
def Fab.viewxWord (f : Fab) (s : Nat) : Word := Tab.look (BitVec.ofNat 32 (0x80007F00 + s)) f.viewx s

/-- FAB (R362). -/
def Dev.readFab (d : Dev) (o : Nat) : Nat :=
  let f := d.fab
  if o = 0 then d.fabStat
  else if o = 4 then f.epoch.toNat
  else if o = 8 then (match f.masterChip with | some c => 2 ^ 31 + c.toNat | none => 0)
  else if o = 0xC then d.chash.toNat
  else if o = 0x10 then f.chipov.toNat
  else if o = 0x14 then f.sliceid.toNat
  else if o = 0x18 then b2n f.errTwist
  else if 0x20 ≤ o ∧ o < 0x38 then (Tab.look 0 f.twist ((o - 0x20) / 4)).toNat
  else if o = 0x40 then wordOf f.time.toNat 0
  else if o = 0x44 then wordOf f.time.toNat 1
  else if o = 0x48 then flagAt f.untrusted 31 + f.skew.toNat
  else if 0x80 ≤ o ∧ o < 0xB0 then d.fabPort ((o - 0x80) / 4)
  else if 0x100 ≤ o ∧ o < 0x12C then (Tab.look 0 f.cnt ((o - 0x100) / 4)).toNat
  else if 0x400 ≤ o ∧ o < 0x500 then (Tab.look 0 f.rrack ((o - 0x400) / 4)).toNat
  else if 0x600 ≤ o ∧ o < 0x700 then (Tab.look 0 f.rpos ((o - 0x600) / 4)).toNat
  else if 0x800 ≤ o ∧ o < 0xC00 then
    (if o % 8 = 0 then f.viewWord ((o - 0x800) / 8) else f.viewxWord ((o - 0x800) / 8)).toNat
  else 0

/-- Codes of COL.Q (R384). -/
def QState.code : QState → Nat
  | .free => 0
  | .forming => 1
  | .formed => 2
  | .running => 3
  | .broken => 4

/-- COL (R384). -/
def Dev.readCol (d : Dev) (o : Nat) : Nat :=
  if o = 0 then d.colTimeout
  else if 0x40 ≤ o ∧ o < 0x60 then (Tab.look 0 d.coll.cnt ((o - 0x40) / 4)).toNat
  else if 0x1000 ≤ o ∧ o < 0x2000 then
    let q := d.quire ((o - 0x1000) / 0x10)
    match o % 0x10 with
    | 0 => q.state.code * 2 ^ 29 + q.sag * 2 ^ 16 + q.qid
    | 4 => q.vc * 2 ^ 29 + q.m * 2 ^ 16 + q.rank
    | 8 => q.round.toNat
    | 12 => if q.state = .broken then q.cause.toNat else 0
    | _ => 0
  else 0

/-- PWR.STATE (R408). -/
def Dom.stateWord (x : Dom) : Nat :=
  x.way.code * 256 + x.tgt.code * 16 + flagAt (x.entry.isSome || x.wake.isSome) 3 + x.cur.code

/-- PWR.RSTAT (R408). -/
def Pwr.rstat (p : Pwr) : Nat := flagAt p.busy 31 + flagAt p.denied 30 + flagAt p.lost 29 + p.outcome.val

/-- PWR (R408). -/
def Dev.readPwr (d : Dev) (o : Nat) : Nat :=
  let p := d.pwr
  if o < 4 * 278 then (d.dom (o / 4)).stateWord
  else if o = 0x1004 then p.rstat
  else if o = 0x1008 then p.rstatr.toNat
  else if o = 0x100C then p.retry.toNat
  else if 0x1010 ≤ o ∧ o < 0x1034 then wordOf p.casc.toNat ((o - 0x1010) / 4)
  else if 0x1040 ≤ o ∧ o < 0x1088 then
    ((List.range 16).map fun j => (Tab.look .active p.cascp (16 * ((o - 0x1040) / 4) + j)).code % 2 * 2 ^ (2 * j)).sum
  else if 0x2000 ≤ o ∧ o < 0x2000 + 0x10 * 278 then
    let x := d.dom ((o - 0x2000) / 0x10)
    match o % 0x10 with
    | 0 => x.entries.toNat
    | 4 => x.wakes.toNat
    | 8 => x.refs.toNat * 2 ^ 16 + x.aborts.toNat
    | 12 => x.lates.toNat
    | _ => 0
  else if o = 0x3FF4 then p.refovf.toNat
  else if 0x4000 ≤ o ∧ o < 0x4400 then
    match p.reftab[(o - 0x4000) / 8]? with
    | some e => if o % 8 = 0 then 2 ^ 31 + e.1.toNat else e.2.toNat
    | none => 0
  else 0

/-- SUP.RAIL (R409, R433): VAUX and VBAK as last measured, the main rails as monitored. -/
def Dev.railWord (d : Dev) (k : Nat) : Nat :=
  if k = 0 then (if d.aon.vaux < 3050 then 2 ^ 16 else 0) + d.aon.vaux % 2 ^ 16
  else if k = 1 then (if d.aon.vbak < 2500 then 2 * 2 ^ 16 else 0) + d.aon.vbak % 2 ^ 16
  else (if !d.sup.good.getLsbD k then 2 * 2 ^ 16 else if d.sup.warnNow.getLsbD k then 2 ^ 16 else 0)
    + Tab.look 0 d.sup.mv k % 2 ^ 16

/-- Whether a phase is enabled and not dropped: all of them while VCORE is on, the lowest-numbered healthy one while it is
parked (R410, R433). -/
def Dev.phaseOn (d : Dev) (i : Nat) : Bool :=
  d.sup.good.getLsbD 3 && !d.sup.dropped.getLsbD i &&
    (!((d.dom hubDom).cur == .banked) || (List.range i).all fun j => d.sup.dropped.getLsbD j)

/-- SUP (R433). The current that the controller senses on a phase is an open value. -/
def W.readSup (w : W) (o : Nat) : Nat × W :=
  let d := w.dev
  let s := d.sup
  if 0x40 ≤ o ∧ o < 0x80 then
    let i := (o - 0x40) / 4
    let head := flagAt (s.dropped.getLsbD i) 31 + flagAt (s.phCause.getLsbD i) 30
    if d.phaseOn i then
      let (k, w) := w.draw
      (head + (Config.openWord k).toNat % 2 ^ 24, w)
    else (head, w)
  else
    (if o < 0x18 then d.railWord (o / 4)
     else if o = 0x20 then Config.trim.val * 2 ^ 16 + s.vset
     else if o = 0x24 then
       flagAt d.throttled 31 + flagAt (s.held d.now) 30 + flagAt s.warn 2 + flagAt s.current 1 + flagAt s.cap 0
     else if o = 0x28 then flagAt s.lock 31 + s.lost * 2 ^ 16 + s.capW
     else if o = 0x2C then s.ilim
     else if 0x80 ≤ o ∧ o < 0x98 then (Tab.look 0 s.cnt ((o - 0x80) / 4)).toNat
     else 0, w)

/-- AON (R434). -/
def Dev.readAon (d : Dev) (o : Nat) : Nat :=
  let a := d.aon
  match o with
  | 0x00 => a.bakcfg.toNat
  | 0x04 => flagAt a.vbakSrc 31 + flagAt a.hand.isSome 30 + flagAt a.charging 29 + a.vbak % 2 ^ 16
  | 0x08 => a.energy
  | 0x0C => a.epi.toNat
  | 0x10 => wordOf a.ret.toNat 0
  | 0x14 => wordOf a.ret.toNat 1
  | 0x18 => flagAt a.closed 8 + flagAt a.unsaved 0
  | 0x1C => a.brown.toNat
  | _ => 0

/-- The oldest sequence number in the ring; the next one while the ring is empty (R481; log entry 30). -/
def Log.oldr (l : Log) : Word := match l.ring with | e :: _ => e.seq | [] => l.next

/-- LOG.MSTAT (R481). -/
def Dev.mstat (d : Dev) : Nat :=
  let l := d.log
  let fail := l.mfail.isSome
  flagAt (fail || l.mwear || l.menergy || d.aon.closed) 31 + flagAt fail 30 + flagAt l.mwear 29 + flagAt l.menergy 28
    + flagAt d.aon.closed 27 + l.bad.toNat

/-- LOG.TEMP (R463, R481). -/
def Dev.tempWord (d : Dev) (k : Nat) : Nat :=
  if d.hubLive && !d.lockedOut then
    match Tab.look none d.temps.t k with
    | some t => 2 ^ 31 + wrapI 16 t
    | none => 0
  else 0

/-- LOG (R481). -/
def Dev.readLog (d : Dev) (o : Nat) : Nat :=
  let l := d.log
  if 0x30 ≤ o ∧ o < 0x3C then d.tempWord ((o - 0x30) / 4)
  else if 0x80 ≤ o ∧ o < 0x100 then leAt l.ent (o - 0x80) 4
  else match o with
    | 0x00 => l.next.toNat
    | 0x04 => l.oldr.toNat
    | 0x08 => l.unm.toNat
    | 0x0C => l.oldm.toNat
    | 0x10 => l.sel.toNat
    | 0x14 => flagAt l.busy 31 + l.ssrc.val
    | 0x18 => l.ovf.toNat
    | 0x1C => l.wdog.toNat
    | 0x20 => d.mstat
    | 0x24 => l.qdrop.toNat
    | _ => 0

/-- Codes of JTG.START.state (R455). -/
def StState.code : StState → Nat
  | .none => 0
  | .seq => 1
  | .test => 2
  | .load => 3
  | .ready => 4
  | .failed => 5
  | .scan => 6

/-- JTG (R455). -/
def Dev.readJtg (d : Dev) (o : Nat) : Nat :=
  let s := d.start
  if 0x10 ≤ o ∧ o < 0x30 then listWord d.colShown ((o - 0x10) / 4)
  else match o with
    | 0x00 => s.state.code * 2 ^ 28 + s.cause.toNat * 2 ^ 16 + s.kind.val * 256 + s.why.toNat
    | 0x04 => s.strap.toNat
    | 0x08 => s.time.toNat
    | 0x40 => s.d2dFail.toNat * 2 ^ 16 + s.d2dRep.toNat * 2 ^ 8 + s.hbmFail.toNat
    | 0x44 => flagAt (s.state == .scan) 1 + b2n s.owner
    | _ => 0

/-- An entry of an MSI-X table (R228). -/
def Dev.readMsix (d : Dev) (fn o : Nat) : Nat :=
  let v := Tab.look Vec.reset d.pci.vecs (vecKey fn (o / 16))
  match o % 16 with
  | 0 => wordOf v.addr.toNat 0
  | 4 => wordOf v.addr.toNat 1
  | 8 => v.data.toNat
  | 12 => b2n v.masked
  | _ => 0

/-- A word of a pending-bit array (R228). -/
def Dev.readPba (d : Dev) (fn o : Nat) : Nat :=
  ((List.range 32).map fun i => flagAt (Tab.look Vec.reset d.pci.vecs (vecKey fn (8 * o + i))).pending i).sum

/-- What the register at an aligned offset holds; a reserved one reads zero (R503). -/
def W.regVal (w : W) (r : RegRef) : Nat × W :=
  let d := w.dev
  match r with
  | .blk 0x3000 o => w.readSup o
  | .blk b o =>
    (match b with
     | 0x0 => d.readHub o
     | 0x1000 => d.readPci o
     | 0x2000 => d.readFab o
     | 0x4000 => d.readAon o
     | 0x5000 => d.readLog o
     | 0x6000 => d.readJtg o
     | 0x8000 => d.readRow o
     | 0xA000 => d.readThr o
     | 0xC000 => d.readLnk o
     | 0xE000 => d.readCol o
     | 0x10000 => d.readClu o
     | 0x14000 => d.readAcc o
     | 0x18000 => d.readSf o
     | 0x1C000 => d.readCrv o
     | 0x20000 => d.readDma o
     | 0x24000 => d.readCon o
     | 0x28000 => d.readNum o
     | 0x30000 => d.readSag o
     | 0x38000 => d.readMem o
     | 0x40000 => d.readPwr o
     | _ => 0, w)
  | .msix f o => (d.readMsix f o, w)
  | .pba f o => (d.readPba f o, w)
  | .none => (0, w)

/-- A read of a hint clears it (R60). -/
def W.clearHint (w : W) (s h : Nat) : W := w.modNum s fun n => { n with hint := Tab.put n.hint h 0 }

/-- What a read clears: the RC fields of the register (R10, R11). -/
def W.regClear (w : W) (r : RegRef) : W :=
  match r with
  | .blk b o =>
    if b = 0x28000 ∧ 0x40 ≤ o % 0x100 ∧ o % 0x100 < 0x80 then w.clearHint (o / 0x100) ((o % 0x100 - 0x40) / 4)
    else if b = 0x18000 ∧ o < 0x2000 then
      match o % 0x20 with
      | 0 => w.modCl (o / 0x20) fun c => { c with grants := 0 }
      | 4 => w.modCl (o / 0x20) fun c => { c with ovr := 0 }
      | 8 => w.modCl (o / 0x20) fun c => { c with maxwait := 0 }
      | _ => w
    else if b = 0x8000 ∧ o < 0x800 then
      match o % 0x10 with
      | 0 => w.modSag (o / 0x10) fun g => { g with degen := 0 }
      | 4 => w.modSag (o / 0x10) fun g => { g with nanx := 0 }
      | _ => w
    else if b = 0x30000 ∧ o % 0x100 = 0x44 then w.modSag (o / 0x100) fun g => { g with flags := 0 }
    else if b = 0x38000 ∧ o = 0x7000 then w.modCmp fun c => { c with cecc := 0 }
    else if b = 0x20000 ∧ o % 0x40 = 0x20 then w.modQ (o / 0x40) fun q => { q with done := 0 }
    else if b = 0x20000 ∧ o % 0x40 = 0x24 then w.modQ (o / 0x40) fun q => { q with refs := 0 }
    else if b = 0x1000 ∧ o = 4 then w.modPci fun p => { p with bad := 0, nonfatal := 0, correctable := 0 }
    else if b = 0x24000 ∧ o = 8 then w.modCon fun c => { c with drop := 0, crc := 0, frm := 0, ovr := 0 }
    else if b = 0x24000 ∧ o = 0x24 then w.modCon fun c => { c with svcf := 0 }
    else if b = 0xC000 ∧ o < 0xC00 ∧ 0x40 ≤ o % 0x100 ∧ o % 0x100 < 0x7C then
      w.modPort (o / 0x100) fun x => { x with cnt := Tab.put x.cnt ((o % 0x100 - 0x40) / 4) 0 }
    else if b = 0x2000 ∧ 0x100 ≤ o ∧ o < 0x12C then w.modFab fun f => { f with cnt := Tab.put f.cnt ((o - 0x100) / 4) 0 }
    else if b = 0xE000 ∧ 0x40 ≤ o ∧ o < 0x60 then w.modColl fun c => { c with cnt := Tab.put c.cnt ((o - 0x40) / 4) 0 }
    else if b = 0x40000 ∧ 0x2000 ≤ o ∧ o < 0x2000 + 0x10 * 278 then
      w.modDom ((o - 0x2000) / 0x10) fun x =>
        match o % 0x10 with
        | 0 => { x with entries := 0 }
        | 4 => { x with wakes := 0 }
        | 8 => { x with refs := 0, aborts := 0 }
        | 12 => { x with lates := 0 }
        | _ => x
    else if b = 0x40000 ∧ o = 0x3FF4 then w.modPwr fun p => { p with refovf := 0 }
    else if b = 0x3000 ∧ 0x80 ≤ o ∧ o < 0x98 then w.modSup fun s => { s with cnt := Tab.put s.cnt ((o - 0x80) / 4) 0 }
    else if b = 0x5000 ∧ o = 0x18 then w.modLog fun l => { l with ovf := 0 }
    else if b = 0x5000 ∧ o = 0x1C then w.modLog fun l => { l with wdog := 0 }
    else if b = 0x5000 ∧ o = 0x24 then w.modLog fun l => { l with qdrop := 0 }
    else w
  | _ => w

/-- A read of an aligned register (R10). -/
def W.regRead (w : W) (r : RegRef) : Nat × W :=
  let (v, w) := w.regVal r
  (v, w.regClear r)

end Sys2Proof.Machine
end

