-- ==== Sys2Proof/Machine/ConCmdA.lean ====
section
/-!
DEFINITION. What the session, identity, clock, power and supply commands do (R264, R268–R272, R285–R289, R295).
-/
namespace Sys2Proof.Machine

def levelNames : List String := ["view", "operate", "service"]

/-- A name from a list of names, as text. -/
def nameAt (l : List String) (i : Nat) : List Byte := txt (l.getD i "")

/-- A value, or `none`. -/
def orNone (x : Option (List Byte)) : List Byte := x.getD (txt "none")

/-- A value, or `na` where its domain is not powered (R280). -/
def orNa (ok : Bool) (x : List Byte) : List Byte := if ok then x else txt "na"

/-- A flag as a value of a data line. -/
def flagText (b : Bool) : List Byte := decText (b2n b)

/-- MODE (R264). -/
def hMode : Handler := fun w c =>
  withArg (argWord (c.arg 0) ["interactive", "machine"]) w fun k =>
    (ok0, w.modSess c.sess fun s => { s with modeNext := some (k == 1) })

/-- Set a session's level: below operate its claims are released (R268, R273). -/
def W.setPriv (w : W) (n : Nat) (l : Fin 3) : W :=
  let w := w.modSess n fun s => { s with priv := l }
  if l = 0 then w.freeClaims (BitVec.ofNat 2 (n + 1)) else w

/-- A hexadecimal digit in lower case. -/
def lowDigit (n : Nat) : Byte := BitVec.ofNat 8 (if n < 10 then 0x30 + n else 0x57 + n)

/-- Two bytes to a group of four hex digits. -/
def groupParts : List Byte → List (List Byte)
  | a :: b :: t => [a.toNat / 16, a.toNat % 16, b.toNat / 16, b.toNat % 16].map lowDigit :: groupParts t
  | _ => []

/-- A byte string in groups of four hex digits, lower case (R254, R269). -/
def groupsText (l : List Byte) : List Byte := joinText (txt "-") (groupParts l)

/-- `priv service` (R269): an earlier challenge is void; lockout, then the key, then the challenge. -/
def W.challenge (w : W) (n : Nat) : CmdOut × W :=
  let w := w.modSess n fun s => { s with challenge := none }
  let s := w.dev.sess n
  let cfg := w.dev.start.cfg
  if s.lockUntil.any fun t => w.dev.now < t then (er 204, w)
  else if cfg.kid = 0 then (er 202, w)
  else
    let (x, w) := w.drawRandom 16
    (okLine (pairsText [("kid", hexText 8 cfg.kid.toNat), ("chal", groupsText x)]),
      w.modSess n fun s => { s with challenge := some (x, w.dev.now + 30000000000) })

/-- PRIV (R268, R269). -/
def hPriv : Handler := fun w c =>
  match c.arg 0 with
  | none => (okLine (kvText "priv" (nameAt levelNames (w.dev.sess c.sess).priv.val)), w)
  | some t =>
    withArg (argWord (some t) levelNames) w fun k =>
      match k with
      | 0 => (ok0, w.setPriv c.sess 0)
      | 1 => if c.sess = 0 ∧ !(w.dev.sess 0).uop then (er 200, w) else (ok0, w.setPriv c.sess 1)
      | _ => w.challenge c.sess

/-- The answer that a challenge expects (R269). -/
def Dev.svcAnswer (d : Dev) (n : Nat) (chal : List Byte) : List Byte :=
  let chip := match d.fab.chip with | some x => x.toNat | none => 0xFFFF
  (hmac d.start.cfg.key (txt "atser-service" ++ leBytes 2 chip ++ [BitVec.ofNat 8 n] ++ chal)).take 16

/-- A wrong answer (R269): counted and logged; the third in a row locks the challenge out for 60 s. -/
def W.svcWrong (w : W) (n : Nat) : W :=
  let k := (w.dev.sess n).wrongs + 1
  let w := (w.modCon fun x => { x with svcf := satBv x.svcf 1 }).event 0x0802 (srcOf 0x0A n) none [(4, k)]
  w.modSess n fun s =>
    if 3 ≤ k then { s with wrongs := 0, lockUntil := some (w.dev.now + 60000000000) } else { s with wrongs := k }

/-- PRIV_ANSWER (R269). -/
def hPrivAnswer : Handler := fun w c =>
  let n := c.sess
  match (w.dev.sess n).challenge with
  | some (x, t) =>
    let w := w.modSess n fun s => { s with challenge := none }
    if t ≤ w.dev.now then (er 205, w)
    else if c.arg 0 = some (.hex (w.dev.svcAnswer n x)) then
      (ok0, (w.modSess n fun s => { s with wrongs := 0 }).setPriv n 2)
    else (er 201, w.svcWrong n)
  | none => (er 205, w)

/-- A resource by its name or index (R271, R285). -/
def argRes (t : Option Tok) : Except Nat Nat :=
  match t with
  | some (.val (.num n)) => if n < 14 then .ok n else .error 301
  | _ => argWord t resourceNames

def claimLine (key : String) (k h : Nat) : List Byte := pairsText [("res", nameAt resourceNames k), (key, nameAt holderNames h)]

/-- CLAIM (R272, R285). -/
def hClaim : Handler := fun w c =>
  withArg (argRes (c.arg 0)) w fun k =>
    let h := claimHolder w.dev.con k
    let me := BitVec.ofNat 2 (c.sess + 1)
    if h = 0 ∨ h = me then (okLine (claimLine "holder" k me.toNat), w.setClaim k me)
    else (.done 203 [claimLine "holder" k h.toNat], w)

/-- RELEASE (R272, R285). -/
def hRelease : Handler := fun w c =>
  withArg (argRes (c.arg 0)) w fun k =>
    (ok0, if claimHolder w.dev.con k = BitVec.ofNat 2 (c.sess + 1) then w.setClaim k 0 else w)

/-- CLAIM_BREAK (R272, R285): logged with the former holder. -/
def hClaimBreak : Handler := fun w c =>
  withArg (argRes (c.arg 0)) w fun k =>
    let h := claimHolder w.dev.con k
    let w := if h = 0 then w else (w.setClaim k 0).event 0x0803 (srcOf 0x0A c.sess) none [(4, k), (4, h.toNat)]
    (okLine (claimLine "was" k h.toNat), w)

/-- CLAIMS (R285). -/
def hClaims : Handler := fun w _ =>
  (.done 0 ((List.range 14).map fun k => claimLine "holder" k (claimHolder w.dev.con k).toNat), w)

/-- NOTIFY (R285, R295): in force once the command has completed. -/
def hNotify : Handler := fun w c =>
  withArg (argWord (c.arg 0) ["off", "info", "warn", "fault", "crit"]) w fun k =>
    (ok0, w.modSess c.sess fun s => { s with noticeNext := some k })

/-- The lines of `help` for an entry of the command reference (R285); `sag ack` has three (R292). -/
def CmdSpec.helpLines (s : CmdSpec) : List (List Byte) :=
  let syns := if s.cmd = .sagAck then ["sag ack <s> trap [resume=1]", "sag ack <s> fault", "sag ack <s> poison <w0>"] else [s.syn]
  syns.map fun x => pairsText [("cmd", txt "\"" ++ txt x ++ txt "\""), ("level", nameAt levelNames s.level)]

/-- HELP (R285): every command, or the one of a name. -/
def hHelp : Handler := fun w c =>
  let words := leadWords c.cmd.pos
  if words.length ≠ c.cmd.pos.length then (er 301, w)
  else
    let l := cmdTable.filter fun s => words == [] || s.name.map txt == words
    if l = [] then (er 301, w) else (c.page (l.flatMap CmdSpec.helpLines), w)

/-- COLOPHON (R450). -/
def hColophon : Handler := fun w _ =>
  let col := w.dev.colShown
  let x (k hi lo : Nat) : Nat := bits (listWord col k) hi lo
  let dec (k hi lo : Nat) : List Byte := decText (x k hi lo)
  (.done 0
    [kvText "part" (hexText 4 (x 0 31 16)), kvText "step" (hexText 2 (x 0 15 8)), kvText "major" (dec 1 23 16), kvText "minor" (dec 1 15 8),
     kvText "patch" (dec 1 7 0), kvText "serial" (hexText 16 (listWord col 2 + listWord col 3 * 2 ^ 32)),
     kvText "romid" (hexText 8 (x 4 31 0)), kvText "online" (dec 5 24 16), kvText "lanes" (dec 5 6 0),
     kvText "hbm" (decText 206158430208), kvText "bexomaj" (dec 6 15 8), kvText "test" (dec 6 7 7), kvText "boot" (dec 6 6 6),
     kvText "elig" (dec 6 5 5), kvText "baud" (dec 6 4 3), kvText "sriov" (dec 6 2 2), kvText "bexo" (dec 6 1 1),
     kvText "enc" (dec 6 0 0), kvText "cfggen" (dec 7 31 0)], w)

/-- The name of a domain's state (R287). -/
def PSt.name : PSt → String
  | .active => "active"
  | .idle => "idle"
  | .banked => "banked"
  | .off => "off"
  | .offline => "offline"

/-- Whether the hub domain is powered (R30). -/
def Dev.hubOn (d : Dev) : Bool := (d.dom hubDom).cur ≠ .off

def srcText (a : Aon) : List Byte := if a.vbakSrc then txt "vbak" else txt "vaux"

/-- STATUS (R286). -/
def hStatus : Handler := fun w _ =>
  let d := w.dev
  let on := d.hubOn
  (okLine (pairsText
    [("pkg", if on then txt (d.dom hubDom).cur.name else txt "standby"), ("src", srcText d.aon),
     ("chip", orNa on (orNone (d.fab.chip.map fun x => decText x.toNat))), ("online", orNa on (decText d.online.length)),
     ("gen", orNa on (decText d.stage.cgen.toNat)), ("time", orNa on (if d.fab.untrusted then txt "untrusted" else txt "ok"))]), w)

/-- CLU (R286): from CLU.STAT and CLU.BUSY. -/
def hClu : Handler := fun w c =>
  withArg (argNums (c.arg 0) 255) w fun l =>
    (c.page (l.map fun n =>
      let st := w.dev.readClu (0x40 * n)
      pairsText
        [("clu", decText n), ("online", decText (bits st 31 31)), ("owned", decText (bits st 30 30)),
         ("sag", if bit st 30 then decText (bits st 22 16) else txt "none"), ("switch", decText (bits st 29 29)),
         ("pstate", nameAt ["active", "idle", "banked", "offline"] (bits st 1 0)),
         ("busy", hexText 0 (w.dev.readClu (0x40 * n + 4)))]), w)

/-- FLASH_INFO (R286, R438). -/
def hFlashInfo : Handler := fun w _ =>
  (okLine (pairsText [("size", decText 16777216), ("log", decText 8388608), ("cfg", decText w.dev.start.cfg.extent.toNat)]), w)

/-- ACLK (R287). -/
def hAclk : Handler := fun w _ =>
  let h := w.dev.hub
  (okLine (pairsText [("cur", decText h.cur.toNat), ("target", decText h.tgt.toNat), ("mhz", decText (720 + 90 * h.cur.toNat))]), w)

/-- The answer of `aclk set`. -/
def Dev.aclkDone (d : Dev) : CmdOut := okLine (kvText "cur" (decText d.hub.cur.toNat))

/-- ACLK_SET (R26, R287): waits for the transition to end. -/
def hAclkSet : Handler := fun w c =>
  withArg (argNum (c.arg 0) 0 8) w fun p =>
    let w := w.aclk (BitVec.ofNat 4 p)
    (if w.dev.hub.changing then .wait .aclk else w.dev.aclkDone, w)

/-- PWR_SHOW (R287). -/
def hPwrShow : Handler := fun w c =>
  withArg (argWord (c.arg 0) ["clu", "hub", "port", "hbm", "aon", "all"]) w fun k =>
    withArg (c.domains k) w fun l =>
      (c.page (l.map fun d => pairsText [("dom", domName d), ("state", txt (w.dev.dom d).cur.name)]), w)

/-- Force an entry of a domain (R288, R396): the power controller carries it out. -/
def W.forceReq (w : W) (n : Nat) (tgt : PSt) : W :=
  w.modDom n fun x => { x with forceReq := some tgt, forceCon := true }

/-- PWR_REQ (R287, R288). -/
def hPwrReq : Handler := fun w c =>
  withArg (argWord (c.arg 0) ["clu", "hub", "port", "hbm"]) w fun k =>
    withArg (argWord (c.arg 1) ["active", "idle", "banked"]) w fun t =>
      withArg (c.domains k) w fun l =>
        withArg (c.flag "force") w fun f =>
          let tgt : PSt := match t with | 0 => .active | 1 => .idle | _ => .banked
          let force := f && tgt ≠ .active
          (.wait (.pwr l force), l.foldl (fun w n => if force then w.forceReq n tgt else w.request n tgt false true) w)

/-- Whether every request of a `pwr req` has ended. -/
def Dev.reqsDone (d : Dev) (l : List Nat) : Bool :=
  l.all fun n => !(d.dom n).fromCon && !(d.dom n).forceCon && (d.dom n).queued.all fun q => !q.con

/-- The answer of a `pwr req` whose requests have all ended (R288); a forced one is never refused. -/
def Dev.reqsAnswer (d : Dev) (l : List Nat) (forced : Bool) : CmdOut :=
  let lines := if forced then [] else l.flatMap fun n =>
    let x := d.dom n
    let codes := x.lastRefs.foldl (fun acc c => insertNum c acc) []
    let tail : List Byte := if x.outcome = 2 then txt " abort=1" else []
    if x.outcome = 0 then []
    else if x.outcome = 3 then [pairsText [("dom", domName n), ("refuser", txt "forced")]]
    else codes.map fun c => pairsText [("dom", domName n), ("refuser", refuserName c)] ++ tail
  if lines = [] then ok0 else .done 401 (lines.take 128)

/-- Withdraw a request at the limit or on a cancel (R288): a handshake before its commit point ends; what has passed it, and a
wake, runs on. -/
def W.withdraw (w : W) (n : Nat) : W :=
  let w := w.modDom n fun x =>
    { x with queued := x.queued.filter fun q => !q.con, forceReq := if x.forceCon then none else x.forceReq, forceCon := false }
  let x := w.dev.dom n
  if !x.fromCon then w
  else
    let w := match x.entry with
      | some e => if e.way = Way.request ∧ !e.committed then w.endEntry n 0 [] else w
      | none => w
    w.modDom n fun x => { x with fromCon := false }

/-- PWR_REFUSALS (R287, R398). -/
def hPwrRefusals : Handler := fun w c =>
  withArg (c.flag "clear") w fun f =>
    let l := w.dev.pwr.reftab.map fun x => pairsText [("refuser", refuserName x.1.toNat), ("count", decText x.2.toNat)]
    match c.page l with
    | .done 0 lines => (.done 0 lines, if f then w.refClear else w)
    | o => (o, w)

/-- SUP_RAILS (R289): the rails of the main sequence are monitored in the hub domain. -/
def hSupRails : Handler := fun w _ =>
  let line (k : Nat) : List Byte :=
    let v := w.dev.railWord k
    let up : Bool := w.dev.hubOn || k < firstRail
    pairsText [("rail", txt (railName k)), ("mv", orNa up (decText (v % 2 ^ 16))),
               ("state", if up then nameAt ["ok", "warn", "off"] (bits v 17 16) else txt "off")]
  (.done 0 ([3, 4, 5, 2, 0, 1].map line), w)

/-- SUP_PHASES (R289, R416). -/
def hSupPhases : Handler := fun w _ =>
  let (lines, w) := (List.range 16).foldl (fun (acc : List (List Byte) × W) i =>
    let (v, w) := acc.2.readSup (0x40 + 4 * i)
    (acc.1 ++ [pairsText [("phase", decText i), ("state", if bit v 31 then txt "dropped" else txt "ok"), ("ma", decText (bits v 23 0))]], w))
    ([], w)
  let cap := if w.dev.sup.capW = 0 then 100 else w.dev.sup.capW * 100 / 640
  (.done 0 (lines ++ [pairsText [("lost", decText w.dev.sup.lost), ("cap", decText cap)]]), w)

/-- SUP_BAK (R289). -/
def hSupBak : Handler := fun w _ =>
  let a := w.dev.aon
  (okLine (pairsText
    [("src", srcText a), ("mv", decText a.vbak), ("mj", decText (a.energy / 1000)), ("snapshot", flagText (38000 ≤ a.energy)),
     ("episodes", decText a.epi.toNat)]), w)

end Sys2Proof.Machine
end

