-- ==== Sys2Proof/Machine/ConCmdB.lean ====
section
/-!
DEFINITION. What the link, fabric, time, collective and saggar commands do (R283, R290–R292), and commands that change a
setting that cannot be staged.
-/
namespace Sys2Proof.Machine

/-- What stays of a command marked "u" once the chip is not at load (R283 step 3): applied at once, or a flash write begun. -/
abbrev Setting := W → CmdOut × W

/-- Start the flash write that a setting needs (R296, R440): er 502 where the energy rule refuses. -/
def W.startSetting (w : W) (c : Cfg) (keyBy : Option Nat := none) : CmdOut × W :=
  match w.startCfg c keyBy with
  | some w => (.wait .flash, w)
  | none => (er 502, w)

/-- Begin a drain (R283 step 1). -/
def W.drainStart (w : W) : W :=
  let sags := (List.range 128).filter fun s => (w.dev.sag s).st == .running
  let qs := (List.range 256).filter fun q => (w.dev.q q).en
  let w := sags.foldl W.sagDisable w
  let w := qs.foldl (fun w q => w.modQ q fun x => { x with en := false }) w
  w.modCon fun c => { c with drain := some ⟨sags, qs, w.dev.now⟩ }

/-- End a drain (R283 step 4): exactly the saggars and queues of step 1 are enabled again. -/
def W.drainEnd (w : W) : W :=
  match w.dev.con.drain with
  | none => w
  | some d =>
    let w := d.sags.foldl W.sagEnable w
    let w := d.queues.foldl (fun w q => w.qctl q ((BitVec.ofNat 32 ((w.dev.q q).burst.toNat * 16 + 2 * b2n (w.dev.q q).relaxed)) ||| 1)) w
    w.modCon fun c => { c with drain := none }

/-- The lines of two lists side by side: of the shorter, nothing once it has ended. -/
def sideLines : List (List Byte) → List (List Byte) → List (List Byte)
  | a :: s, b :: t => pairsText [("drained", a), ("queues", b)] :: sideLines s t
  | s, [] => s.map (kvText "drained")
  | [], t => t.map (kvText "queues")

/-- The lines that a drained setting adds (11, worked case): one, and more where a list would not be a list token (R254, R280;
log entry 35). -/
def drainLines (c : Con) : List (List Byte) :=
  match c.drain with
  | some d => sideLines (listTexts d.sags) (listTexts d.queues)
  | none => []

/-- The answer of a command marked "u" whose setting was applied after a drain: one that is over enables again at once what step 1
stopped (R283 steps 3 and 4). -/
def drainedAnswer (x : CmdOut × W) : CmdOut × W :=
  match x.1 with
  | .done code lines => (.done code (if code = 0 then lines ++ drainLines x.2.dev.con else lines), x.2.drainEnd)
  | .wait _ => x

/-- A command marked "u" (R283): er 403 at load, unless it carries `drain=1`; step 2 is over at once where nothing is at load. -/
def setSetting (w : W) (c : CmdCtx) (apply : Setting) : CmdOut × W :=
  withArg (c.flag "drain") w fun drain =>
    if drain then
      let w := w.drainStart
      if w.dev.atLoad then (.wait .drain, w) else drainedAnswer (apply w)
    else if w.dev.atLoad then (er 403, w)
    else apply w

/-- The name of a port's state (R290). -/
def PortState.name : PortState → String
  | .up => "up"
  | .train | .retrain => "train"
  | .parked => "parked"
  | .detect | .quiet => "detect"
  | .off => "off"

/-- LNK_SHOW (R290). -/
def hLnkShow : Handler := fun w c =>
  let ports := match c.cmd.param "n" with | some v => valNums v 11 | none => .ok (List.range 12)
  withArg ports w fun l =>
    (c.page (l.map fun p =>
      let x := w.dev.port p
      let inUse : Bool := x.state == .up || x.state == .train || x.state == .retrain
      pairsText
        [("port", decText p), ("state", txt x.state.name), ("lanes", decText (if inUse then x.width else 0)),
         ("partner", orNone (x.peer.bind fun y => if y.chipv then some (decText y.chip.toNat) else none)),
         ("auth", nameAt ["none", "ok", "fail"] x.authSt.val), ("enc", flagText x.enc), ("retrain", decText (Tab.look 0 x.cnt 4).toNat)]), w)

/-- Whether the training of a port has started, or is past (R314). -/
def Dev.training (d : Dev) (p : Nat) : Bool := match (d.port p).state with | .train | .up | .retrain => true | _ => false

/-- LNK_TRAIN (R290, R314): returns when training has started. -/
def hLnkTrain : Handler := fun w c =>
  withArg (argNum (c.arg 0) 0 11) w fun p =>
    let w := w.trainPort p
    (if w.dev.training p then ok0 else .wait (.lnkTrain p), w)

/-- LNK_PARK (R290, R314): an UP link first goes down in order. -/
def hLnkPark : Handler := fun w c =>
  withArg (argNum (c.arg 0) 0 11) w fun p =>
    let w := w.parkPort p
    (if (w.dev.port p).state = .parked then ok0 else .wait (.lnkPark p), w)

/-- Twelve lane counts (R291). -/
def argLanes (t : Option Tok) : Except Nat (List Nat) :=
  match t with
  | some (.val (.list l)) =>
    if l.length = 12 ∧ (l.all fun x => x.1 == x.2 && x.1 % 2 == 0 && x.1 ≤ 96) ∧ (l.map Prod.fst).sum ≤ 96 then .ok (l.map Prod.fst)
    else .error 300
  | _ => .error 300

/-- The setting of `lnk alloc` (R291). -/
def CmdCtx.laneSetting (c : CmdCtx) : Setting := fun w =>
  withArg (argLanes (c.arg 0)) w fun l => w.startSetting { w.dev.start.cfg with lanes := lanesBytes l }

/-- LNK_ALLOC (R283, R291). -/
def hLnkAlloc : Handler := fun w c => withArg (argLanes (c.arg 0)) w fun _ => setSetting w c c.laneSetting

/-- Bring the link layer up under the table in force (R291, R303): links go down with cause COMMAND first. A port domain that sleeps, or
that has been off, wakes with the hub (R27); in STANDBY the next start-up takes the table (R29, R388). -/
def W.relane (w : W) : W :=
  if (w.dev.dom hubDom).cur = .off then w else
  let w := (List.range 12).foldl (fun w p =>
    match (w.dev.port p).state with
    | .up | .retrain => w.linkDown p 0x0F
    | _ => w) w
  w.allotLanes fun w p =>
    if (w.dev.dom (portDom p)).cur = .active then w.touch (portDom p)
    else (w.modDom (portDom p) fun x => if x.cur = .off then { x with cur := .banked, tgt := .banked } else x).raiseWake (portDom p) false

/-- FAB_SHOW (R290): JOINING is shown as alone, REFUSED as quarantine. -/
def hFabShow : Handler := fun w _ =>
  let f := w.dev.fab
  let st := match f.state with | .alone | .joining => "alone" | .admitted => "admitted" | _ => "quarantine"
  (okLine (pairsText
    [("chip", orNone (f.chip.map fun x => decText x.toNat)), ("master", flagText f.master), ("epoch", decText f.epoch.toNat),
     ("hash", hexText 8 w.dev.chash.toNat), ("state", txt st)]), w)

/-- The bits of a mask, rising. -/
def maskBits (n v : Nat) : List Nat := (List.range n).filter (bit v)

/-- FAB_ROUTE (R362). -/
def hFabRoute : Handler := fun w c =>
  withArg (argNum (c.arg 0) 0 4095) w fun n =>
    let f := w.dev.fab
    let own := w.dev.ownChip
    let rr := (Tab.look 0 f.rrack (n / 64)).toNat
    let rp := (Tab.look 0 f.rpos (n % 64)).toNat
    let none_ := txt "none"
    let line (path : String) (pri alt detour planes relay : List Byte) : CmdOut × W :=
      (okLine (pairsText [("chip", decText n), ("path", txt path), ("pri", pri), ("alt", alt), ("detour", detour), ("planes", planes),
                          ("relay", relay)]), w)
    if f.chip.isSome ∧ n = own then line "self" none_ none_ none_ none_ none_
    else if f.chip.isSome ∧ n / 64 = own / 64 ∧ bit rp 31 then
      line "rack" none_ none_ none_ (runsText (maskBits 8 rp)) (if bit rp 30 then decText (bits rp 21 16) else none_)
    else if f.chip.isSome ∧ n / 64 ≠ own / 64 ∧ bit rr 31 then
      line "cube" (decText (bits rr 19 16)) (if bits rr 11 8 = 0xF then none_ else decText (bits rr 11 8)) (decText (bits rr 5 0)) none_ none_
    else line "none" none_ none_ none_ none_ none_

/-- The value of `fab chip`: a number, or `auto`. -/
def argChip (t : Option Tok) : Except Nat (Option Nat) :=
  match t with
  | some (.val (.word x)) => if x = txt "auto" then .ok none else .error 301
  | _ => match argNum t 0 4095 with | .ok n => .ok (some n) | .error e => .error e

/-- The setting of `fab chip` (R290, R338). -/
def CmdCtx.chipSetting (c : CmdCtx) : Setting := fun w =>
  withArg (argChip (c.arg 0)) w fun n =>
    (ok0, w.setChipov (match n with | some k => BitVec.ofNat 32 (2 ^ 31 + k) | none => 0))

/-- FAB_CHIP (R283, R290). -/
def hFabChip : Handler := fun w c => withArg (argChip (c.arg 0)) w fun _ => setSetting w c c.chipSetting

/-- The setting of `fab slice` (R290, R440). -/
def CmdCtx.sliceSetting (c : CmdCtx) : Setting := fun w =>
  withArg (argNum (c.arg 0) 0 0xFFFF) w fun n => w.startSetting { w.dev.start.cfg with slice := BitVec.ofNat 16 n }

/-- FAB_SLICE (R283, R290, R348). -/
def hFabSlice : Handler := fun w c => withArg (argNum (c.arg 0) 0 0xFFFF) w fun _ => setSetting w c c.sliceSetting

/-- TIME_SHOW (R290, R358). -/
def hTimeShow : Handler := fun w _ =>
  let f := w.dev.fab
  (okLine (pairsText [("ns", decText f.time.toNat), ("trusted", flagText (!f.untrusted)), ("skew", decText f.skew.toNat)]), w)

/-- TIME_SET (R290, R357). -/
def hTimeSet : Handler := fun w c =>
  withArg (argNum (c.arg 0) 0 (2 ^ 64 - 1)) w fun n =>
    let f := w.dev.fab
    if f.state = .admitted ∧ !f.master then (er 408, w)
    else if n < f.time.toNat then (er 300, w)
    else (ok0, w.modFab fun f => { f with time := BitVec.ofNat 64 n })

/-- COL_SHOW (R290, R384). -/
def hColShow : Handler := fun w c =>
  let line (q : Quire) : Option (List Byte) :=
    match q.run with
    | some r =>
      some (pairsText
        [("quire", decText q.qid), ("sag", decText q.sag), ("rank", decText q.rank), ("m", decText q.m),
         ("state", if q.forms then txt "forming" else txt "running"), ("round", decText q.round.toNat),
         ("op", nameAt ["", "form", "dissolve", "reduce", "allreduce", "bcast", "barrier"] r.op.code),
         ("ms", decText ((w.dev.now - r.since) / 1000000))])
    | none => none
  (c.page ((List.range 256).filterMap fun i => line (w.dev.quire i)), w)

/-- The saggar that a command names: any other value is er 300 (R292). -/
def argSag (c : CmdCtx) : Except Nat Nat :=
  match argNum (c.arg 0) 0 127 with | .ok n => .ok n | .error _ => .error 300

/-- The name of a saggar's state (R292). -/
def SagState.name : SagState → String
  | .off => "off"
  | .running => "running"
  | .draining => "draining"
  | .killing => "killing"

/-- SAG_SHOW (R292). -/
def hSagShow : Handler := fun w c =>
  withArg (argSag c) w fun s =>
    let g := w.dev.sag s
    let owned := ((List.range 256).filter fun n => (w.dev.cl n).owner == some s).length
    (okLine (pairsText
      [("sag", decText s), ("state", txt g.st.name), ("clusters", decText owned), ("cmax", decText g.cmax.toNat), ("tq", decText g.tq.toNat),
       ("slice", decText g.slice.toNat), ("ntrap", decText g.ntrap.toNat), ("poison", decText g.poison.length),
       ("trap", flagText g.tfull), ("fault", flagText g.ffull)]), w)

/-- SAG_EN (R165, R292): er 404 while the saggar is being killed (log entry 35). -/
def hSagEn : Handler := fun w c =>
  withArg (argSag c) w fun s => if (w.dev.sag s).st = .killing then (er 404, w) else (ok0, w.sagCtl s 1)

/-- SAG_DIS (R165, R292). -/
def hSagDis : Handler := fun w c =>
  withArg (argSag c) w fun s => if (w.dev.sag s).st = .killing then (er 404, w) else (ok0, w.sagCtl s 0)

/-- SAG_KILL (R166, R292): waits for OFF. -/
def hSagKill : Handler := fun w c => withArg (argSag c) w fun s => (.wait (.sagOff s), w.sagCtl s 2)

/-- SAG_QUOTA (R198, R292). -/
def hSagQuota : Handler := fun w c =>
  withArg (argSag c) w fun s =>
    withArg (c.num "cmax" 0 256) w fun cm =>
      withArg (c.num "tq" 0 128) w fun tq =>
        withArg (c.num "slice" 0 0xFFFF) w fun sl =>
          (ok0, w.modSag s fun g =>
            { g with cmax := match cm with | some n => BitVec.ofNat 9 n | none => g.cmax
                     tq := match tq with | some n => BitVec.ofNat 8 n | none => g.tq
                     slice := match sl with | some n => BitVec.ofNat 16 n | none => g.slice })

/-- A mask of the listed numbers. -/
def numsMask (n : Nat) (l : List Nat) : BitVec n := l.foldl (fun m i => m ||| BitVec.ofNat n (2 ^ i)) 0

/-- SAG_MASK (R195, R292). -/
def hSagMask : Handler := fun w c =>
  withArg (argSag c) w fun s =>
    withArg (argNums (c.arg 1) 255) w fun l => (ok0, w.modSag s fun g => { g with cmask := numsMask 256 l })

/-- Words as pairs of a data line. -/
def wordPairs (l : List Nat) : List Byte :=
  joinText (txt " ") (l.zipIdx.map fun x => 0x77 :: decText x.2 ++ 0x3D :: hexText 8 x.1)

def recordWords : List String := ["trap", "fault", "poison"]

/-- SAG_REC (R292): er 406 for an empty record. -/
def hSagRec : Handler := fun w c =>
  withArg (argSag c) w fun s =>
    withArg (argWord (c.arg 1) recordWords) w fun k =>
      let g := w.dev.sag s
      let words (l : List Word) : List Byte := wordPairs (l.map BitVec.toNat)
      match k with
      | 0 => (if g.tfull then okLine (words g.trec) else er 406, w)
      | 1 => (if g.ffull then okLine (words g.frec) else er 406, w)
      | _ => (if g.poison = [] then er 406 else c.page (g.poison.map fun p => wordPairs [p.word, p.count.toNat]), w)

/-- SAG_ACK_TRAP, SAG_ACK_FAULT and SAG_ACK_POISON (R171, R172, R192, R292). -/
def hSagAck : Handler := fun w c =>
  withArg (argSag c) w fun s =>
    withArg (argWord (c.arg 1) recordWords) w fun k =>
      let g := w.dev.sag s
      if k ≠ 0 ∧ (c.cmd.param "resume").isSome then (er 302, w)
      else match k with
        | 0 => withArg (c.flag "resume") w fun r =>
          if g.tfull then (ok0, w.sagTstat s (if r then 0x80000001 else 0x80000000)) else (er 406, w)
        | 1 => if g.ffull then (ok0, w.sagFstat s 0x80000000) else (er 406, w)
        | _ => withArg (argNum (c.arg 2) 0 0xFFFFFFFF) w fun v =>
          if g.poison.any fun p => p.word == v then (ok0, w.sagPack s (BitVec.ofNat 32 v)) else (er 406, w)

/-- SAG_COUNT (R292): ROW.DEGEN and ROW.NANX are cleared by being listed. -/
def hSagCount : Handler := fun w c =>
  withArg (argSag c) w fun s =>
    withArg (c.flag "clear") w fun f =>
      let g := w.dev.sag s
      let w := w.modSag s fun g => { g with degen := 0, nanx := 0 }
      (okLine (pairsText [("sat", decText g.csat.toNat), ("flush", decText g.cflush.toNat), ("degen", decText g.degen.toNat),
                          ("nanx", decText g.nanx.toNat)]), if f then w.sagCclr s 3 else w)

end Sys2Proof.Machine
end

