-- ==== Sys2Proof/Machine/Registers.lean ====
section
/-!
DEFINITION. Writes to registers under their access codes (R10, R503–R510) and the register commands of the host and of
threads. A register that has a row of its own does the same here as by that row.
-/
namespace Sys2Proof.Machine

/-- Replace word `k` of a value of `n` bits, with the reserved bits of the word cleared by a mask (R8, R9). -/
def putWord {n : Nat} (x : BitVec n) (k : Nat) (v : Word) (mask : Nat := 0xFFFFFFFF) : BitVec n :=
  (x &&& ~~~(BitVec.ofNat n (0xFFFFFFFF * 2 ^ (32 * k)))) ||| BitVec.ofNat n ((v.toNat &&& mask) * 2 ^ (32 * k))

/-- HUB (R35, R497). -/
def W.writeHub (w : W) (o : Nat) (v : Word) : W :=
  if o = 0x40 then w.modHub fun h => { h with d2dFail := h.d2dFail &&& ~~~(BitVec.ofNat 3 (bits v.toNat 18 16)) }
  else if o = 0x50 then w.aclk (v.truncate 4)
  else if 0x100 ≤ o ∧ o < 0x114 then w.stgWrite ((o - 0x100) / 4) v
  else if o = 0x160 then w.stgCommit
  else if o = 0x168 then w.modStage fun s => { s with range := s.range && !v.getLsbD 2, lost := s.lost && !v.getLsbD 1 }
  else w

/-- PCI (R246). -/
def W.writePci (w : W) (o : Nat) (v : Word) : W :=
  if o = 8 then w.modPci fun p => { p with dup := p.dup && !v.getLsbD 0 }
  else if 0x100 ≤ o ∧ o < 0x200 then w.vfmap ((o - 0x100) / 4) v
  else w

/-- FAB (R362). -/
def W.writeFab (w : W) (o : Nat) (v : Word) : W :=
  if o = 0x10 then w.setChipov v
  else if o = 0x14 then w.setSliceid (v.setWidth 16)
  else if o = 0x18 then w.modFab fun f => { f with errTwist := f.errTwist && !v.getLsbD 0 }
  else if 0x20 ≤ o ∧ o < 0x38 then w.twistReg ((o - 0x20) / 4) v
  else if 0x800 ≤ o ∧ o < 0xC00 then
    let s := (o - 0x800) / 8
    if o % 8 = 0 then w.modFab fun f => { f with view := Tab.put f.view s (v &&& 0x0FFF0FFF) }
    else w.modFab fun f => { f with viewx := Tab.put f.viewx s (v &&& 0x80007F7F) }
  else w

/-- LNK (R314, R317, R333): `park` acts where both bits of LNK.TRAIN are set (log entry 30). -/
def W.writeLnk (w : W) (o : Nat) (v : Word) : W :=
  if 0xC00 ≤ o then w
  else
    let p := o / 0x100
    match o % 0x100 with
    | 0 => if v.getLsbD 1 then w.parkPort p else if v.getLsbD 0 then w.trainPort p else w
    | 4 => w.modPort p fun x => { x with encreq := v.getLsbD 0 }
    | _ => w

/-- CRV (R128): LCTL and COMMIT are triggers. -/
def W.writeCrv (w : W) (o : Nat) (v : Word) : W :=
  let c := w.dev.cmp.crv
  if o = 0 then w.lctl v.toNat c.lsrc
  else if o = 4 ∨ o = 8 then w.modCrv fun c => { c with lsrc := putWord c.lsrc (o / 4 - 1) v }
  else if o = 0xC then w.modCrv fun c => { c with lost := c.lost && !v.getLsbD 30 }
  else if 0x1000 ≤ o ∧ o < 0x3000 then
    let s := (o - 0x1000) / 0x40
    let r := o % 0x40
    if r < 0x20 then w.modCpage s fun p => { p with binds := Tab.put p.binds (r / 4) (v &&& 0x8000003F) }
    else if r < 0x30 then w.modCpage s fun p => { p with rperm := putWord p.rperm ((r - 0x20) / 4) v }
    else if r = 0x30 then w.modCpage s fun p => { p with bexo := v.getLsbD 1, boundsOnly := v.getLsbD 0 }
    else if r = 0x34 then w.crvCommit s
    else if r = 0x38 then w.modCpage s fun p => { p with refused := p.refused && !v.getLsbD 30 }
    else w
  else w

/-- THR (R197). A size outside 4–8 and the low bits of a base, which are ignored in use, are kept and read back (DESIGN CHOICE, log entry
43). -/
def W.writeThr (w : W) (o : Nat) (v : Word) : W :=
  let s := o / 0x40
  match o % 0x40 with
  | 0x00 => w.modRing s 0 fun r => { r with base := putWord r.base 0 v }
  | 0x04 => w.modRing s 0 fun r => { r with base := putWord r.base 1 v }
  | 0x08 => w.modRing s 0 fun r => { r with size := v.truncate 4 }
  | 0x0C => w.l0prod s (v.truncate 16)
  | 0x14 => w.modRing s 1 fun r => { r with base := putWord r.base 0 v }
  | 0x18 => w.modRing s 1 fun r => { r with base := putWord r.base 1 v }
  | 0x1C => w.modRing s 1 fun r => { r with size := v.truncate 4 }
  | 0x28 => w.modThr s fun t => { t with barto := v.truncate 24 }
  | 0x2C => w.lerr s v
  | _ => w

/-- SAG (R198). -/
def W.writeSag (w : W) (o : Nat) (v : Word) : W :=
  let s := o / 0x100
  let p := o % 0x100
  if 0x10 ≤ p ∧ p < 0x30 then w.modSag s fun g => { g with cmask := putWord g.cmask ((p - 0x10) / 4) v }
  else match p with
    | 0x00 => w.sagCtl s v
    | 0x04 => if bits v.toNat 1 0 = 3 then w else w.modSag s fun g => { g with ntrap := v.truncate 2 }
    | 0x08 => w.modSag s fun g => { g with tq := BitVec.ofNat 8 (bits v.toNat 23 16), cmax := v.truncate 9 }
    | 0x0C => w.modSag s fun g => { g with slice := v.truncate 16 }
    | 0x40 => w.sagCclr s v
    | 0x48 => w.sagTstat s v
    | 0x4C => w.sagFstat s v
    | 0x5C => w.sagPack s v
    | _ => w

/-- A word of a 48-bit address whose low bits are reserved (R9, R220). -/
def putPage (x : DWord) (k : Nat) (v : Word) : DWord := putWord x k v (if k = 0 then 0xFFFFF000 else 0xFFFFFFFF)

/-- A page of MEM (R219). -/
def W.writeMemPage (w : W) (s p : Nat) (v : Word) : W :=
  let stage (f : MemSet → MemSet) : W := w.modMem s fun x => { x with staged := f x.staged }
  match p with
  | 0x00 => stage fun m => { m with root := putWord m.root 0 v 0xFFFFF001 }
  | 0x04 => stage fun m => { m with root := putWord m.root 1 v 0xFFFF }
  | 0x08 => stage fun m => { m with gvc := v.truncate 3 }
  | 0x0C => w.memCommit s
  | 0x10 => w.modMem s fun x => { x with refused := x.refused && !v.getLsbD 30 }
  | 0x18 => w.modMem s fun x => { x with inva := putWord x.inva 0 v }
  | 0x1C => w.modMem s fun x => { x with inva := putWord x.inva 1 v }
  | 0x20 => w.memInv s (bits v.toNat 1 0)
  | 0x24 => w.modMem s fun x => { x with invLost := x.invLost && !v.getLsbD 30 }
  | 0x28 => w.modMem s fun x => { x with mvsrc := putWord x.mvsrc 0 v }
  | 0x2C => w.modMem s fun x => { x with mvsrc := putWord x.mvsrc 1 v }
  | 0x30 => w.modMem s fun x => { x with mvpte := putWord x.mvpte 0 v }
  | 0x34 => w.modMem s fun x => { x with mvpte := putWord x.mvpte 1 v }
  | 0x38 => w.moveStart s
  | 0x3C => w.modMem s fun x => { x with mvLost := x.mvLost && !v.getLsbD 30 }
  | 0x40 => w.modMem s fun x => { x with lfValid := x.lfValid && !v.getLsbD 31 }
  | _ => w

/-- MEM (R219, R220). -/
def W.writeMem (w : W) (o : Nat) (v : Word) : W :=
  if o < 0x4000 then w.writeMemPage (o / 0x80) (o % 0x80) v
  else if o < 0x5000 then
    let stage (f : MemSet → MemSet) : W := w.modMem ((o - 0x4000) / 0x20) fun x => { x with staged := f x.staged }
    match o % 0x20 with
    | 0x00 => stage fun m => { m with save := putPage m.save 0 v }
    | 0x04 => stage fun m => { m with save := putPage m.save 1 v }
    | 0x08 => stage fun m => { m with hi := BitVec.ofNat 8 (bits v.toNat 23 16), lo := v.truncate 8 }
    | 0x10 => stage fun m => { m with base := putPage m.base 0 v }
    | 0x14 => stage fun m => { m with base := putPage m.base 1 v }
    | 0x18 => stage fun m => { m with lim := putPage m.lim 0 v }
    | 0x1C => stage fun m => { m with lim := putPage m.lim 1 v }
    | _ => w
  else if 0x6000 ≤ o ∧ o < 0x7000 then
    w.modCmp fun c =>
      { c with nsec := (List.range 4).foldl (fun t j => Tab.put t (o - 0x6000 + j) (BitVec.ofNat 8 (v.toNat / 2 ^ (8 * j)))) c.nsec }
  else w

/-- DMA (R245). -/
def W.writeDma (w : W) (o : Nat) (v : Word) : W :=
  let q := o / 0x40
  match o % 0x40 with
  | 0x00 => w.qring q fun x => { x with base := putWord x.base 0 v }
  | 0x04 => w.qring q fun x => { x with base := putWord x.base 1 v }
  | 0x08 => w.qring q fun x => { x with size := v.truncate 4 }
  | 0x0C => w.qprod q (v.truncate 16)
  | 0x18 => w.qctl q v
  | 0x1C => w.modQ q fun x => { x with overd := x.overd && !v.getLsbD 29 }
  | _ => w

/-- CON (R278). -/
def W.writeCon (w : W) (o : Nat) (v : Word) : W :=
  if o = 0 then w.modCon fun c => { c with uop := v.getLsbD 16, idle := v.truncate 16 }
  else if o = 0xC then w.rctl v
  else if o = 0x10 then w.modCon fun c => { c with overd := c.overd && !v.getLsbD 0 }
  else if o = 0x14 then w.iprod (v.truncate 16)
  else if o = 0x20 then w.ocons (v.truncate 16)
  else if 0x100 ≤ o ∧ o < 0x140 then w.driverClaim ((o - 0x100) / 4) (bits v.toNat 31 30)
  else if 0x1000 ≤ o ∧ o < 0x1400 then
    w.modCon fun c =>
      { c with inBuf := (List.range 4).foldl (fun t j => Tab.put t (o - 0x1000 + j) (BitVec.ofNat 8 (v.toNat / 2 ^ (8 * j)))) c.inBuf }
  else w

/-- PWR (R408). -/
def W.writePwr (w : W) (o : Nat) (v : Word) : W :=
  if o = 0x1000 then w.pwrReq v
  else if o = 0x1004 then w.modPwr fun p => { p with denied := p.denied && !v.getLsbD 30, lost := p.lost && !v.getLsbD 29 }
  else if o = 0x100C then w.modPwr fun p => { p with retry := v.truncate 16 }
  else if o = 0x3FF0 then w.modPwr fun p => { p with reftab := [] }
  else w

/-- The blocks of the always-on domain: SUP, AON, LOG (R433, R434, R481). -/
def W.writeAlways (w : W) (b o : Nat) (v : Word) : W :=
  if b = 0x3000 ∧ o = 0x28 then (if v.getLsbD 31 then w.modSup fun s => { s with lock := false } else w)
  else if b = 0x4000 ∧ o = 0 then w.modAon fun a => { a with bakcfg := v &&& 0x03FFFFFF }
  else if b = 0x4000 ∧ o = 0x18 then w.modAon fun a => { a with unsaved := a.unsaved && !v.getLsbD 0 }
  else if b = 0x5000 ∧ o = 0x10 then w.logSel v
  else w

/-- An entry of an MSI-X table (R228). -/
def W.writeMsix (w : W) (fn o : Nat) (v : Word) : W :=
  let vec := o / 16
  let put (f : Vec → Vec) : W :=
    w.modPci fun p => { p with vecs := Tab.put p.vecs (vecKey fn vec) (f (Tab.look Vec.reset p.vecs (vecKey fn vec))) }
  match o % 16 with
  | 0 => put fun x => { x with addr := putWord x.addr 0 v 0xFFFFFFFC }
  | 4 => put fun x => { x with addr := putWord x.addr 1 v }
  | 8 => put fun x => { x with data := v }
  | 12 => w.vecMask fn vec (v.getLsbD 0)
  | _ => w

/-- A write to an aligned register; RO, RC and reserved registers ignore it (R10, R12, R503). -/
def W.regWrite (w : W) (r : RegRef) (v : Word) : W :=
  match r with
  | .blk b o =>
    match b with
    | 0x0 => w.writeHub o v
    | 0x1000 => w.writePci o v
    | 0x2000 => w.writeFab o v
    | 0xA000 => w.writeThr o v
    | 0xC000 => w.writeLnk o v
    | 0x1C000 => w.writeCrv o v
    | 0x20000 => w.writeDma o v
    | 0x24000 => w.writeCon o v
    | 0x28000 => if o % 0x100 = 0 then w.modNum (o / 0x100) fun n => { n with relaxed := v.getLsbD 0 } else w
    | 0x30000 => w.writeSag o v
    | 0x38000 => w.writeMem o v
    | 0x40000 => w.writePwr o v
    | _ => w.writeAlways b o v
  | .msix f o => w.writeMsix f o v
  | _ => w

/-- A memory read of a BAR that completes with Unsupported Request (R222, R418, R444, R445). -/
def Dev.readUnsupported (d : Dev) (ag : Agent) (p : RegPlace) : Bool :=
  match ag with
  | .con | .reg _ => false
  | _ => d.pci.up && !d.pci.perst && (d.pci.slow || (p ≠ .aon && !d.hubServes))

/-- A host access of the wrong size or alignment (R227): counted; a read completes with Unsupported Request. -/
def W.badReg (w : W) (ag : Agent) (off : Nat) (isWrite : Bool) : W :=
  match ag with
  | .pf | .vf _ =>
    let w := w.modPci fun p => { p with bad := satBv p.bad 1 }
    if isWrite then w else w.out (.unsupported ag off)
  | _ => w

/-- Read a register for an agent, which is answered under an offset. -/
def W.readOut (w : W) (ag : Agent) (r : RegRef) (off : Nat) : W :=
  let (v, w) := w.regRead r
  w.out (.regRead ag off (BitVec.ofNat 32 v))

/-- What a register access does once it reaches its registers (R10, R227): one of 8 bytes reads or writes both words at the same
moment (R505). -/
def W.regOp (w : W) (ag : Agent) (op : RegOp) : W :=
  match op with
  | .read r off => w.readOut ag r off
  | .write r v => w.regWrite r v
  | .read2 lo hi off => (w.readOut ag lo off).readOut ag hi (off + 4)
  | .write2 lo hi v => (w.regWrite lo (v.setWidth 32)).regWrite hi ((v >>> 32).setWidth 32)
  | .bad off isWrite => w.badReg ag off isWrite

/-- The offset under which a read is answered. -/
def RegOp.answered : RegOp → Option Nat
  | .read _ off | .read2 _ _ off | .bad off false => some off
  | .write _ _ | .write2 _ _ _ | .bad _ true => none

/-- The accesses held at the endpoint take effect, in their order, once the hub takes accesses again (R387, R403 step 13). While the link is
slow a read completes with Unsupported Request and a write is discarded (R222). -/
def W.serveHeld (w : W) : W :=
  if w.dev.admits hubDom ∧ w.dev.pwr.returning = [] ∧ w.dev.hubServes then
    w.dev.pci.held.foldl (fun w h =>
      if w.dev.linkServes h.ag && w.dev.sees h.ag h.place then w.regOp h.ag h.op
      else match h.op.answered with
        | some off => if w.dev.readUnsupported h.ag h.place then w.out (.unsupported h.ag off) else w
        | none => w) (w.modPci fun p => { p with held := [] })
  else w

/-- Make a register access of an agent (R222, R227): one of a wrong alignment reaches no field, so none is read-only for it (R510). -/
def W.agentAccess (w : W) (ag : Agent) (off size : Nat) (wr : Bool) (op : RegOp) : W :=
  let good := off % size = 0
  let p := w.dev.refPlace ag (w.dev.regRef ag off) (wr && good)
  let op : RegOp := if good then op else .bad off wr
  if !wr ∧ w.dev.readUnsupported ag p then w.out (.unsupported ag off)
  else w.regAccess ag p op fun w => w.regOp ag op

/-- A read of a register by an agent, or of two in one access of 8 bytes (R10, R227, R505). -/
def W.agentRead (w : W) (ag : Agent) (off : RegOff) : W :=
  let r := w.dev.regRef ag off.off
  if off.wide then w.agentAccess ag off.off 8 false (.read2 r (w.dev.regRef ag (off.off + 4)) off.off)
  else w.agentAccess ag off.off 4 false (.read r off.off)

/-- REGISTER_WRITE (R10, R222, R227, R503–R510). -/
def execRegisterWrite (ag : Agent) (off : Nat) (v : RegData) : State → Res := checked (regAccessWf ag off v.wide) fun w =>
  match v with
  | .word v => w.agentAccess ag off 4 true (.write (w.dev.regRef ag off) v)
  | .pair v => w.agentAccess ag off 8 true (.write2 (w.dev.regRef ag off) (w.dev.regRef ag (off + 4)) v)

/-- REGISTER_READ_CLEAR (R10, R11, R505). -/
def execRegisterReadClear (ag : Agent) (off : RegOff) : State → Res := checked (regAccessWf ag off.off off.wide) fun w => w.agentRead ag off

/-- BAD_REGISTER_ACCESS (R227). -/
def execBadRegisterAccess (ag : Agent) (off size : Nat) (isWrite : Bool) : State → Res :=
  checked (decide (off < agentSpace ag) && badAccess off size) fun w =>
    let p := w.dev.refPlace ag (w.dev.regRef ag off) false
    if !isWrite ∧ w.dev.readUnsupported ag p then w.out (.unsupported ag off)
    else w.regAccess ag p (.bad off isWrite) fun w => w.badReg ag off isWrite

/-- Where an agent finds NUM.HINT[s][h] (R61, R499, R500). -/
def hintOff (ag : Agent) (s h : Nat) : Nat :=
  match ag with
  | .pf | .con => 0x28000 + 0x100 * s + 0x40 + 4 * h
  | _ => 0x40 + 4 * h

/-- HINT_READ (R60). -/
def execHintRead (ag : Agent) (s : Fin 128) (h : Fin 16) : State → Res := act fun w =>
  if w.dev.readUnsupported ag (.view s false) then w.out (.unsupported ag (hintOff ag s h))
  else w.regAccess ag (.view s false) (.read (.blk 0x28000 (0x100 * s + 0x40 + 4 * h)) (hintOff ag s h)) fun w =>
    let v := Tab.look 0 (w.dev.num s).hint h
    (w.clearHint s h).out (.regRead ag (hintOff ag s h) (v.setWidth 32))

end Sys2Proof.Machine
end

