-- ==== Sys2Proof/Machine/ConCmdC.lean ====
section
/-!
DEFINITION. What the curve-table, log, stage, key, reset and test commands do (R293–R300), with the listing of the log
(R476).
-/
namespace Sys2Proof.Machine

/-- A name as the console shows it (R110, R113): up to its first NUL, with ? for what a string may not hold. -/
def labelText (l : List Byte) : List Byte :=
  (l.takeWhile (· ≠ 0)).map fun b => if 0x20 ≤ b.toNat ∧ b.toNat ≤ 0x7E ∧ b ≠ 0x22 ∧ b ≠ 0x5C then b else 0x3F

/-- CRV_SHOW (R293). -/
def hCrvShow : Handler := fun w c =>
  withArg (argWord (c.arg 0) ["tables", "recipes"]) w fun k =>
    let top := if k = 0 then 63 else 127
    let slots := match c.cmd.param "n" with | some v => valNums v top | none => .ok (List.range (top + 1))
    withArg slots w fun l =>
      (c.page (l.map fun n =>
        let x := w.dev.storeSlot (k == 1) n
        pairsText
          [("slot", decText n), ("state", nameAt ["empty", "loading", "loaded"] x.state.val), ("cert", flagText x.cert),
           ("bound", decText x.bound.toNat), ("id", hexText 8 x.ident.toNat), ("name", txt "\"" ++ labelText x.name ++ txt "\"")]), w)

/-- A slot of the table store named by two arguments (R293): recipe, slot. -/
def argSlot (c : CmdCtx) : Except Nat (Bool × Nat) :=
  match argWord (c.arg 0) ["table", "recipe"] with
  | .error e => .error e
  | .ok k =>
    match argNum (c.arg 1) 0 (if k = 0 then 63 else 127) with
    | .ok n => .ok (k == 1, n)
    | .error e => .error e

/-- The status names of R121, in lower case as data words. -/
def loadNames : List String :=
  ["load_ok", "bad_magic", "bad_version", "bad_layout", "slot_in_use", "source_fault", "stamp_invalid"]

/-- The answer of a request to the table store that has ended (R293). -/
def Dev.storeAnswer (d : Dev) (lines : List (List Byte)) : CmdOut :=
  let code := d.cmp.crv.code.toNat
  if code = 0x30 then .done 0 lines
  else .done 402 [pairsText [("code", decText code), ("name", nameAt loadNames (code - 0x30))]]

/-- The answer of `crv load`. -/
def Dev.crvLoaded (d : Dev) (recipe : Bool) (n : Nat) : CmdOut :=
  let x := d.storeSlot recipe n
  d.storeAnswer [pairsText [("slot", decText n), ("id", hexText 8 x.ident.toNat), ("cert", flagText x.cert), ("bound", decText x.bound.toNat)]]

/-- CRV_LOAD (R121, R293, R302): from flash; `off=` must be given; a load that is refused leaves everything as it was. -/
def hCrvLoad : Handler := fun w c =>
  withArg (argSlot c) w fun x =>
    withArg (c.num "off" 0 (2 ^ 64 - 1)) w fun o =>
      match o with
      | none => (er 103, w)
      | some off =>
        if w.dev.cmp.crv.busy.isSome then (er 405, w)
        else
          let old := w.dev.cmp.crv.lsrc
          let slot := w.dev.storeSlot x.1 x.2
          let w := w.modCrv fun k => { k with lsrc := BitVec.ofNat 64 off }
          let w := w.lctl ((if x.1 then 2 else 1) * 2 ^ 30 + 2 ^ 29 + x.2) (BitVec.ofNat 64 off)
          if w.dev.cmp.crv.busy.isSome then
            (.wait .crvLoad, w.modCrv fun k => { k with busy := k.busy.map fun l => { l with undo := some old } })
          else (w.dev.crvLoaded x.1 x.2, (w.modCrv fun k => { k with lsrc := old }).modStore x.1 x.2 fun _ => slot)

/-- CRV_UNLOAD_CMD (R121, R293). -/
def hCrvUnload : Handler := fun w c =>
  withArg (argSlot c) w fun x =>
    if w.dev.cmp.crv.busy.isSome then (er 405, w)
    else
      let w := w.lctl (3 * 2 ^ 30 + (if x.1 then 2 ^ 28 else 0) + x.2) 0
      (w.dev.storeAnswer [], w)

/-- A slot or `none` (R293). -/
def argBind (t : Option Tok) : Except Nat Word :=
  match t with
  | some (.val (.word x)) => if x = txt "none" then .ok 0 else .error 301
  | _ => match argNum t 0 63 with | .ok n => .ok (BitVec.ofNat 32 (2 ^ 31 + n)) | .error e => .error e

/-- CRV_BIND (R123, R293): staged. -/
def hCrvBind : Handler := fun w c =>
  withArg (argSag c) w fun s =>
    withArg (argNum (c.arg 1) 0 7) w fun b =>
      withArg (argBind (c.arg 2)) w fun v =>
        if (w.dev.cpage s).pend then (er 407, w)
        else (ok0, w.modCpage s fun p => { p with binds := Tab.put p.binds b v })

/-- CRV_PERM (R123, R293): staged as exactly the listed slots. -/
def hCrvPerm : Handler := fun w c =>
  withArg (argSag c) w fun s =>
    withArg (argNums (c.arg 1) 127) w fun l =>
      if (w.dev.cpage s).pend then (er 407, w)
      else (ok0, w.modCpage s fun p => { p with rperm := numsMask 128 l })

/-- CRV_MODE (R120, R293). -/
def hCrvMode : Handler := fun w c =>
  withArg (argSag c) w fun s =>
    withArg (c.num "bexo" 0 1) w fun b =>
      withArg (c.num "bounds" 0 1) w fun k =>
        if w.dev.cmp.crv.busy.isSome then (er 405, w)
        else (ok0, w.modCpage s fun p =>
          { p with bexo := match b with | some n => n == 1 | none => p.bexo
                   boundsOnly := match k with | some n => n == 1 | none => p.boundsOnly })

/-- The answer of `crv commit` once pend is 0. -/
def Dev.crvCommitted (d : Dev) (s : Nat) : CmdOut := okLine (kvText "gen" (decText (d.cpage s).gen.toNat))

/-- CRV_COMMIT (R123, R293, R302): waits for pend = 0; a refused one has no effect. -/
def hCrvCommit : Handler := fun w c =>
  withArg (argSag c) w fun s =>
    if (w.dev.cpage s).pend then (er 407, w)
    else
      let v := w.crvCommit s
      if (v.dev.cpage s).pend then (.wait (.crvCommit s), v)
      else (.done 402 [pairsText [("code", decText 0), ("name", txt "refused")]], w)

/-- An entry as `log show` lists it (R470, R476), from its 128 bytes. -/
def entryLine (b : List Byte) : List Byte :=
  let w10 := leAt b 0x10 4
  let w18 := leAt b 0x18 4
  let code := bits w10 15 0
  let data := (b.drop 0x20).take 64
  pairsText
    [("seq", decText (leAt b 4 4)), ("class", txt (className (bits (leAt b 0 4) 25 24))), ("time", decText (leAt b 8 8 % 2 ^ 63)),
     ("trusted", flagText (!bit (leAt b 8 8) 63)), ("src", srcName (leAt b 0x14 4)), ("code", txt (codeInfo code).1),
     ("sag", if bit w18 7 then decText (bits w18 6 0) else txt "none"), ("rep", decText (bits w10 31 16)),
     ("text", txt "\"" ++ eventText code data ++ txt "\"")]

/-- A record as `log show` lists it (R427, R476). -/
def recordLine (b : List Byte) : List Byte :=
  let t := leAt b 0x18 4
  pairsText
    [("rec", nameAt ["", "closing", "brown", "brownnostore"] (leAt b 3 1)), ("episode", decText (leAt b 4 4)), ("first", decText (leAt b 8 4)),
     ("next", decText (leAt b 0xC 4)), ("time", decText (leAt b 0x10 8 % 2 ^ 63)), ("vaux", decText (bits t 15 0)),
     ("vbak", decText (bits t 31 16)), ("energy", decText (leAt b 0x1C 4))]

/-- An item of the log as it is listed: its sequence number and class, none for a record, and its line. -/
structure LogItem where
  key : Option (Nat × Nat)
  line : List Byte
  deriving DecidableEq, Repr

def logItem (b : List Byte) : LogItem :=
  if isEntry b then ⟨some (leAt b 4 4, bits (leAt b 0 4) 25 24), entryLine b⟩ else ⟨none, recordLine b⟩

/-- Entries and records in the order in which the mirror and the ring hold them (R476); an entry in both is listed once. -/
def W.logItems (w : W) : List LogItem :=
  let l := w.dev.log
  let mirror := (validSlots w.mem (2 * l.mpage)).map (slotBytes w.mem)
  let held := mirror.filter fun b => !isEntry b || l.inMirror (BitVec.ofNat 32 (leAt b 4 4))
  let ring := (l.ring.filter fun e => !l.inMirror e.seq).map LogEntry.bytes
  (held ++ ring).map logItem

/-- Where a page of the log of at most `k` items may end: before an entry, which `from=` can name. -/
def pageEnd (l : List LogItem) : Nat → Option (Nat × Nat)
  | 0 => none
  | k + 1 =>
    match (l[k + 1]?).bind LogItem.key with
    | some (q, _) => some (k + 1, q)
    | none => pageEnd l k

/-- A page of the log that does not end the listing (R281, R294): it ends before an entry, whose number continues it; where
records alone follow, before the next entry there is, or the next there will be (log entry 35). -/
def logPage (next m : Nat) (l : List LogItem) : List (List Byte) :=
  let (k, q) := (pageEnd l (m - 1)).getD (m - 1, ((((l.drop m).filterMap LogItem.key).head?).map Prod.fst).getD next)
  (l.take k).map LogItem.line ++ [kvText "more" (decText q)]

/-- LOG_SHOW (R294, R425, R476): the read of the mirror waits for a flash operation in progress. `from=` names the first entry at or after a sequence number; records carry no class and are always
listed (log entry 35). -/
def hLogShow : Handler := fun w c =>
  let classes := ["info", "warn", "fault", "crit"]
  withArg (match c.cmd.param "min" with | some v => argWord (some (.val v)) classes | none => .ok 0) w fun lo =>
    withArg (c.num "from" 0 0xFFFFFFFF) w fun from_ =>
      withArg (c.num "max" 2 128) w fun mx =>
        if !w.dev.log.ops.isEmpty then (.wait .flashRead, w)
        else
        let m := mx.getD 128
        let all := w.logItems.filter fun x => match x.key with | some k => decide (lo ≤ k.2) | none => true
        let l := match from_ with
          | some q => all.dropWhile fun x => match x.key with | some k => decide (2 ^ 31 ≤ (k.1 + 2 ^ 32 - q) % 2 ^ 32) | none => true
          | none => all
        (.done 0 (if l.length ≤ m then l.map LogItem.line else logPage w.dev.log.next.toNat m l), w)

/-- LOG_MARK (R294, R478). -/
def hLogMark : Handler := fun w c =>
  match c.arg 0 with
  | some (.val (.str s)) => (ok0, w.eventBytes 0x0800 (srcOf 0x0A c.sess) (zeroPad 64 s))
  | some (.val (.word _)) => (er 301, w)
  | _ => (er 300, w)

/-- LOG_CLEAR (R294, R425): the erase of the mirror's 2,048 sectors, from the one ahead of its page on, each under the energy rule;
er 502 on VBAK or where that refuses. -/
def hLogClear : Handler := fun w _ =>
  if w.dev.aon.vbakSrc ∨ !w.dev.aon.mayFlash eraseCost then (er 502, w)
  else (.wait .flash, (w.modLog fun l => { l with cfgRes := none }).askOp
    ⟨true, logArea + (w.dev.log.mpage / 16 + 1) % 2048 * 4096, [], .clear true 2047⟩)

def settingNames : List String := ["pwr.idle.clu", "pwr.idle.hbm", "pwr.idle.port", "lnk.reprobe", "col.timeout"]

/-- STAGE_SHOW (R296, R297, R491). -/
def hStageShow : Handler := fun w c =>
  let s := w.dev.stage
  let line (k : Nat) : List Byte :=
    pairsText [("name", nameAt settingNames k), ("force", decText (Tab.look 0 s.force k).toNat),
               ("staged", orNone ((s.stg.find? fun x => x.1 == k).map fun x => decText x.2.toNat))]
  (c.page ((List.range 5).map line ++ [kvText "gen" (decText s.cgen.toNat)]), w)

/-- STAGE_SET (R296, R297, R487). -/
def hStageSet : Handler := fun w c =>
  withArg (argWord (c.arg 0) settingNames) w fun k =>
    withArg (argNum (c.arg 1) 0 60000) w fun v =>
      if !stageRange k v then (er 300, w)
      else if w.dev.stage.pend then (er 407, w)
      else (ok0, w.stgWrite k (BitVec.ofNat 32 (2 ^ 31 + v)))

/-- STAGE_DROP (R296, R487). -/
def hStageDrop : Handler := fun w _ =>
  if w.dev.stage.pend then (er 407, w) else (ok0, w.modStage fun s => { s with stg := [] })

def Dev.commitDone (d : Dev) : CmdOut := okLine (kvText "gen" (decText d.stage.cgen.toNat))

/-- COMMIT (R296, R487, R488). -/
def hCommit : Handler := fun w _ =>
  if w.dev.stage.pend then (er 407, w)
  else
    let w := w.stgCommit
    (if w.dev.stage.pend then .wait .commit else w.dev.commitDone, w)

/-- KEY_SHOW (R298). -/
def hKeyShow : Handler := fun w _ =>
  let k := w.dev.start.cfg.kid
  (okLine (if k = 0 then pairsText [("key", txt "none"), ("kid", txt "none")]
           else pairsText [("key", txt "present"), ("kid", hexText 8 k.toNat)]), w)

/-- The kid and key of `key set` (R284, R299): er 303 for a wrong form. -/
def argKey (c : CmdCtx) : Except Nat (Nat × List Byte) :=
  match c.arg 0, c.arg 1 with
  | some (.val (.num k)), some (.hex g) =>
    if k = 0 ∨ g.length ≠ 32 then .error 303 else if 0xFFFFFFFF < k then .error 300 else .ok (k, g)
  | _, _ => .error 303

/-- The setting of `key set` (R299). -/
def CmdCtx.keySetting (c : CmdCtx) : Setting := fun w =>
  withArg (argKey c) w fun x => w.startSetting { w.dev.start.cfg with kid := BitVec.ofNat 32 x.1, key := x.2 } (some c.sess)

/-- KEY_SET (R283, R299). -/
def hKeySet : Handler := fun w c => withArg (argKey c) w fun _ => setSetting w c c.keySetting

/-- The setting of `key clear` (R298). -/
def CmdCtx.clearSetting (c : CmdCtx) : Setting := fun w =>
  w.startSetting { w.dev.start.cfg with kid := 0, key := List.replicate 32 0 } (some c.sess)

/-- KEY_CLEAR (R283, R298). -/
def hKeyClear : Handler := fun w c => setSetting w c c.clearSetting

/-- RESET (R300): the reset itself waits for its response to drain. -/
def hReset : Handler := fun w c =>
  withArg (argWord (c.arg 0) ["warm", "cold"]) w fun k =>
    (ok0, w.modCon fun x => { x with resetCmd := some (k == 1) })

/-- A line of `test result` (R455). -/
def testLine (unit : List Byte) (ran bad repaired : Bool) : List Byte :=
  pairsText [("unit", unit), ("result", txt (if !ran then "skipped" else if bad then "fail" else if repaired then "repaired" else "pass"))]

/-- TEST_RESULT (R298, R455): clusters, die-to-die links, stacks, boot entries. -/
def hTestResult : Handler := fun w c =>
  let s := w.dev.start
  let ran (k : Nat) : Bool := s.ran.getLsbD k
  let boot (i : Nat) : List Byte :=
    match s.boots[i]? with
    | some (some code) => testLine (txt "boot." ++ decText i) true (code ≠ 0x30) false
    | _ => testLine (txt "boot." ++ decText i) false false false
  (c.page
    (((List.range 256).map fun n => testLine (domName n) (ran 0) (s.clusterBad.getLsbD n) (s.clusterRep.getLsbD n)) ++
     ((List.range 3).map fun k => testLine (srcName (srcOf 7 k)) (ran 1) (s.d2dFail.getLsbD k) (s.d2dRep.getLsbD k)) ++
     ((List.range 8).map fun k => testLine (domName (hbmDom k)) (ran 2) (s.hbmFail.getLsbD k) (s.hbmRep.getLsbD k)) ++
     (List.range s.cfg.boots.length).map boot), w)

/-- TEST_BSCAN (R298, R452). -/
def hTestBscan : Handler := fun w c =>
  withArg (argWord (c.arg 0) ["off", "on"]) w fun k =>
    if w.dev.atLoad then (er 403, w) else (ok0, w.modStart fun s => { s with owner := k == 1 })

end Sys2Proof.Machine
end

