-- ==== Sys2Proof/Machine/ConCmds.lean ====
section
/-!
DEFINITION. How a command of the console runs from its line to its response: its domains, its claims, its wait, its end
(R272, R277, R279, R282, R283).
-/
namespace Sys2Proof.Machine

/-- The handler of each command. -/
def W.handle (w : W) (c : CmdCtx) : CmdOut × W :=
  match c.cmd.spec.cmd with
  | .mode => hMode w c
  | .priv => hPriv w c
  | .privAnswer => hPrivAnswer w c
  | .claim => hClaim w c
  | .release => hRelease w c
  | .claimBreak => hClaimBreak w c
  | .claims => hClaims w c
  | .notify => hNotify w c
  | .help => hHelp w c
  | .colophon => hColophon w c
  | .status => hStatus w c
  | .clu => hClu w c
  | .flashInfo => hFlashInfo w c
  | .aclk => hAclk w c
  | .aclkSet => hAclkSet w c
  | .pwrShow => hPwrShow w c
  | .pwrReq => hPwrReq w c
  | .pwrRefusals => hPwrRefusals w c
  | .supRails => hSupRails w c
  | .supPhases => hSupPhases w c
  | .supBak => hSupBak w c
  | .lnkShow => hLnkShow w c
  | .lnkTrain => hLnkTrain w c
  | .lnkPark => hLnkPark w c
  | .lnkAlloc => hLnkAlloc w c
  | .fabShow => hFabShow w c
  | .fabRoute => hFabRoute w c
  | .fabChip => hFabChip w c
  | .fabSlice => hFabSlice w c
  | .timeShow => hTimeShow w c
  | .timeSet => hTimeSet w c
  | .colShow => hColShow w c
  | .sagShow => hSagShow w c
  | .sagEn => hSagEn w c
  | .sagDis => hSagDis w c
  | .sagKill => hSagKill w c
  | .sagQuota => hSagQuota w c
  | .sagMask => hSagMask w c
  | .sagRec => hSagRec w c
  | .sagAck => hSagAck w c
  | .sagCount => hSagCount w c
  | .crvShow => hCrvShow w c
  | .crvLoad => hCrvLoad w c
  | .crvUnload => hCrvUnload w c
  | .crvBind => hCrvBind w c
  | .crvPerm => hCrvPerm w c
  | .crvMode => hCrvMode w c
  | .crvCommit => hCrvCommit w c
  | .logShow => hLogShow w c
  | .logMark => hLogMark w c
  | .logClear => hLogClear w c
  | .stageShow => hStageShow w c
  | .stageSet => hStageSet w c
  | .stageDrop => hStageDrop w c
  | .commit => hCommit w c
  | .keyShow => hKeyShow w c
  | .keySet => hKeySet w c
  | .keyClear => hKeyClear w c
  | .reset => hReset w c
  | .testResult => hTestResult w c
  | .testBscan => hTestBscan w c

/-- The first domain that a command needs and that is not powered (R30, R279). -/
def W.unpowered (w : W) (c : CmdCtx) : Option Nat := c.needs.find? fun d => !w.dev.poweredFor d

/-- er 400 with the domain (R279). -/
def needLine (d : Nat) : List (List Byte) := [kvText "need" (domName d)]

/-- A command begins to wait: it takes the free resources that it needs for its duration (R272), and keeps its domains awake
(R282). -/
def W.startWait (w : W) (c : CmdCtx) (x : CmdWait) : W :=
  let me := BitVec.ofNat 2 (c.sess + 1)
  let free := c.cmd.claims.filter fun k => claimHolder w.dev.con k == 0
  let w := free.foldl (fun w k => w.setClaim k me) w
  w.modCon fun k => { k with run := some ⟨c.sess, true, c.line, c.machine, x, w.dev.now, free, c.keeps, false⟩ }

/-- Run a command whose line has been taken (R252, R279): a needed domain that sleeps is woken first (R387). -/
def W.beginCmd (w : W) (c : CmdCtx) : W :=
  match w.unpowered c with
  | some d => w.finishCmd c true 400 (needLine d)
  | none =>
    let asleep := c.needs.filter fun d => !w.dev.admits d
    if asleep ≠ [] then (asleep.foldl (fun w d => w.raiseWake d true) w).startWait c .wake
    else match w.handle c with
      | (.done code lines, w) => w.finishCmd c true code lines
      | (.wait x, w) => w.startWait c x

/-- The setting of a command marked "u" (R283). -/
def CmdCtx.setting (c : CmdCtx) : Setting :=
  match c.cmd.spec.cmd with
  | .lnkAlloc => c.laneSetting
  | .fabChip => c.chipSetting
  | .fabSlice => c.sliceSetting
  | .keySet => c.keySetting
  | .keyClear => c.clearSetting
  | _ => fun w => (ok0, w)

/-- The running command ends; what its drain stopped is enabled again before the response (R283 step 4). -/
def W.endAll (w : W) (code : Nat) (lines : List (List Byte)) : W := w.drainEnd.endRun code lines

/-- Step 3 of R283 has answered. -/
def W.settingAnswer (w : W) (o : CmdOut) : W :=
  match o with
  | .done 0 lines => w.endAll 0 (lines ++ drainLines w.dev.con)
  | .done code lines => w.endAll code lines
  | .wait x => w.modCon fun c => { c with run := c.run.map fun r => { r with wait := x, since := w.dev.now } }

/-- A record has reached the flash: what the command does then, and its answer (R290, R291, R294, R299). -/
def W.flashDone (w : W) (c : CmdCtx) : List (List Byte) × W :=
  match c.cmd.spec.cmd with
  | .lnkAlloc =>
    match argLanes (c.arg 0) with
    | .ok l => ([kvText "alloc" (joinText (txt ",") (l.map decText))], w.relane.serveHeld)
    | .error _ => ([], w)
  | .fabSlice =>
    match argNum (c.arg 0) 0 0xFFFF with
    | .ok n => ([kvText "slice" (decText n)], w.setSliceid (BitVec.ofNat 16 n))
    | .error _ => ([], w)
  | .keySet =>
    match argKey c with
    | .ok (k, _) => ([kvText "kid" (hexText 8 k)], w)
    | .error _ => ([], w)
  | .keyClear => ([kvText "key" (txt "none")], w)
  | _ => ([], w)

/-- The session gives up the claim key once the response of a key change is placed (R299). -/
def W.dropKeyClaim (w : W) (c : CmdCtx) : W :=
  let key := c.cmd.spec.cmd = .keySet ∨ c.cmd.spec.cmd = .keyClear
  if key ∧ claimHolder w.dev.con 11 = BitVec.ofNat 2 (c.sess + 1) then w.setClaim 11 0 else w

/-- A command can run now that what it had to wait for has come. -/
def W.runNow (w : W) (c : CmdCtx) : W :=
  match w.handle c with
  | (.done code lines, w) => w.endRun code lines
  | (.wait x, w) => w.rewait x

/-- What a waiting command has come to, if its wait is over. -/
def W.waitOver (w : W) (r : Running) (c : CmdCtx) : W :=
  match r.wait with
  | .wake =>
    match w.unpowered c with
    | some d => w.endRun 400 (needLine d)
    | none =>
      if c.needs.all w.dev.admits then w.runNow c else w
  | .flashRead => if w.dev.log.ops.isEmpty then w.runNow c else w
  | .aclk => if !w.dev.hub.changing then w.settingAnswer w.dev.aclkDone else w
  | .pwr l f => if w.dev.reqsDone l then w.settingAnswer (w.dev.reqsAnswer l f) else w
  | .lnkTrain p => if w.dev.training p then w.settingAnswer ok0 else w
  | .lnkPark p => if (w.dev.port p).state = .parked then w.settingAnswer ok0 else w
  | .sagOff s => if (w.dev.sag s).st = .off then w.settingAnswer ok0 else w
  | .crvLoad =>
    if w.dev.cmp.crv.busy.isSome then w
    else match argSlot c with
      | .ok x => w.settingAnswer (w.dev.crvLoaded x.1 x.2)
      | .error _ => w
  | .crvCommit s => if (w.dev.cpage s).pend then w else w.settingAnswer (w.dev.crvCommitted s)
  | .commit => if w.dev.stage.pend then w else w.settingAnswer w.dev.commitDone
  | .drain => w
  | .flash =>
    match w.dev.log.cfgRes with
    | none => w
    | some code =>
      let w := w.modLog fun l => { l with cfgRes := none }
      if code = 0 then
        let (lines, w) := w.flashDone c
        (w.settingAnswer (.done 0 lines)).dropKeyClaim c
      else w.endAll code []

/-- A cancel has been requested (R277, R282, R283, R288): a command that may not be cancelled runs on. -/
def W.cancelRun (w : W) (r : Running) (c : CmdCtx) : W :=
  if r.mayCancel c.cmd then
    let w := match r.wait with | .pwr l _ => l.foldl W.withdraw w | _ => w
    w.endAll 601 []
  else w.modCon fun k => { k with run := k.run.map fun r => { r with cancel := false } }

/-- The management core looks at the running command. -/
def W.settleCmd (w : W) : W :=
  match w.dev.con.run with
  | none => w
  | some r =>
    match r.ctx with
    | none => w
    | some c => if r.cancel then w.cancelRun r c else w.waitOver r c

/-- Cut output into its lines. -/
def cutLines : List Byte → List Byte → List (List Byte)
  | acc, [] => if acc = [] then [] else [acc.reverse]
  | acc, b :: t => if b = 0x0A then (b :: acc).reverse :: cutLines [] t else cutLines (b :: acc) t

/-- Send the stored response again (R263). -/
def W.resend (w : W) (n : Nat) : W := (cutLines [] (w.dev.sess n).lastResp).foldl (fun w l => w.conPut n l true) w

/-- The command that a line spells, whatever session sent it. -/
def QLine.command (q : QLine) : Option CmdLine :=
  match tokensOf (lineText q.machine q.bytes) with
  | .ok ts => match parseCmd ts with | .ok c => some c | .error _ => none
  | .error _ => none

/-- What the management core does whenever it runs: it reads the receive buffer, and sees to the running command. -/
def W.conTask (w : W) : W := w.conWake.settleCmd

/-- The management core takes the front line of a session if it is a command of the row (R252, R263). -/
def W.cmdRow (w : W) (n : Nat) (mine : CmdLine → Bool) : W :=
  if !w.dev.aon.powered then w
  else
    let w := w.conTask.skipIgnored n
    if !w.dev.conTurn n then w
    else match (w.dev.sess n).queue.head? with
      | none => w
      | some q =>
        match (w.checkLine n q).1 with
        | .run c => if mine c.cmd then (w.popLine n).beginCmd c else w
        | .again => if q.command.any mine then (w.popLine n).resend n else w
        | .fail _ _ _ => w

/-- A line that fails a check is answered with its error (R252, R253, R255, R262, R263); a line sent again is answered with the
stored response where it names no command. -/
def W.failRow (w : W) (n : Nat) : W :=
  if !w.dev.aon.powered then w
  else
    let w := w.conTask.skipIgnored n
    if !w.dev.conTurn n then w
    else match (w.dev.sess n).queue.head? with
      | none => w
      | some q =>
        match w.checkLine n q with
        | (.run _, _) => w
        | (.again, _) => if q.command.isNone then (w.popLine n).resend n else w
        | (.fail code tag keep, crc) =>
          let w := w.popLine n
          let w := if crc then w.modCon fun c => { c with crc := satBv c.crc 1 } else w
          w.respond n q.machine tag code [] (if keep && q.machine then some q.bytes else none)

end Sys2Proof.Machine
end

