-- ==== Sys2Proof/Machine/ConRows.lean ====
section
/-!
DEFINITION. The commands of the console's two ports, its timers, and one row for each command of the command reference (R248–R300).
-/
namespace Sys2Proof.Machine

/-- A row that the management core carries out: nothing while the always-on domain is without power. -/
def conAct (f : W → W) : State → Res := actMem fun w => if w.dev.aon.powered then f w else w

/-- UART_BYTE (R248, R253, R256, R257). -/
def execUartByte (b : Byte) (framing awake : Bool) : State → Res := conAct fun w => w.uartIn b framing awake

/-- UART_BREAK (R275). -/
def execUartBreak : State → Res := conAct fun w => w.conWake.resetSess 0

/-- RING_INPUT_PRODUCE (R249). -/
def execRingInputProduce (v : Word) : State → Res := actMem fun w =>
  w.regAccess .pf .glob (.write (.blk 0x24000 0x14) v) fun w => w.iprod (v.setWidth 16)

/-- RING_OUTPUT_CONSUME (R249). -/
def execRingOutputConsume (v : Word) : State → Res := actMem fun w =>
  w.regAccess .pf .glob (.write (.blk 0x24000 0x20) v) fun w => w.ocons (v.setWidth 16)

/-- RING_SESSION_RESET (R275, R278): CON.RCTL with reset set and irq as it stands. -/
def execRingSessionReset : State → Res := actMem fun w =>
  let v : Word := if w.dev.con.irq then 3 else 1
  w.regAccess .pf .glob (.write (.blk 0x24000 0xC) v) fun w => w.rctl v

/-- DRIVER_CLAIM (R272, R278). -/
def execDriverClaim (k : Fin 16) : State → Res := actMem fun w =>
  w.regAccess .pf .glob (.write (.blk 0x24000 (0x100 + 4 * k)) 0x40000000) fun w => w.driverClaim k 1

/-- DRIVER_RELEASE (R272, R278). -/
def execDriverRelease (k : Fin 16) : State → Res := actMem fun w =>
  w.regAccess .pf .glob (.write (.blk 0x24000 (0x100 + 4 * k)) 0x80000000) fun w => w.driverClaim k 2

/-- LINE_CHECK_FAIL (R252, R253, R255, R262, R263). -/
def execLineCheckFail (n : Fin 2) : State → Res := conAct fun w => w.failRow n

/-- PARTIAL_LINE_TIMEOUT (R274): the partial line is discarded and answered in its turn. -/
def execPartialLineTimeout (n : Fin 2) : State → Res := conAct fun w =>
  let w := w.conWake
  let s := w.dev.sess n
  if (s.partl = [] ∧ !s.lossy ∧ !s.long) ∨ w.dev.now < s.lastByte + 30000000000 then w
  else w.modSess n fun s =>
    { s with partl := [], long := false, lossy := false, esc := [], histPos := none, queue := s.queue ++ [⟨[], s.machine, some 110⟩] }

/-- CHALLENGE_TIMEOUT (R274). -/
def execChallengeTimeout (n : Fin 2) : State → Res := conAct fun w =>
  w.modSess n fun s => if s.challenge.any fun x => decide (x.2 ≤ w.dev.now) then { s with challenge := none } else s

/-- SERVICE_LOCKOUT_END (R269, R274). -/
def execServiceLockoutEnd (n : Fin 2) : State → Res := conAct fun w =>
  w.modSess n fun s => if s.lockUntil.any fun t => decide (t ≤ w.dev.now) then { s with lockUntil := none } else s

/-- SESSION_IDLE_TIMEOUT (R274, R276). -/
def execSessionIdleTimeout (n : Fin 2) : State → Res := conAct fun w =>
  let w := w.conWake
  if w.dev.sessUp n && (w.dev.sess n).idleOver (w.dev.sess n).idle w.dev.now then w.idleEnd n else w

/-- The running command reaches its limit (R274, R282, R288): a handshake before its commit point ends, a flash write goes no
further. -/
def W.timeOut (w : W) (r : Running) : W :=
  let w := match r.wait with
    | .pwr l _ => l.foldl W.withdraw w
    | .flash => w.modLog Log.giveUp
    | _ => w
  w.endAll 600 []

/-- COMMAND_TIMEOUT (R274, R282). -/
def execCommandTimeout : State → Res := conAct fun w =>
  let w := w.conTask
  match w.dev.con.run with
  | none => w
  | some r =>
    match r.ctx with
    | none => w
    | some c => if r.wait = .drain ∨ w.dev.now < r.since + c.cmd.spec.limit * 1000000 then w else w.timeOut r

/-- DRAIN_COMPLETE (R283): steps 3 and 4. -/
def execDrainComplete : State → Res := conAct fun w =>
  let w := w.conTask
  match w.dev.con.run with
  | none => w
  | some r =>
    match r.ctx with
    | none => w
    | some c =>
      if r.wait ≠ .drain ∨ w.dev.atLoad then w
      else
        let (o, w) := c.setting w
        w.settingAnswer o

/-- DRAIN_TIMEOUT (R283): step 4 without step 3. -/
def execDrainTimeout : State → Res := conAct fun w =>
  let w := w.conTask
  match w.dev.con.run, w.dev.con.drain with
  | some r, some d =>
    if r.wait ≠ .drain ∨ !w.dev.atLoad ∨ w.dev.now < d.since + 30000000000 then w else w.endAll 600 []
  | _, _ => w

/-- RESET_START (R300): once the response of `reset` has drained; the lines behind it are discarded. -/
def execResetStart : State → Res := conAct fun w =>
  let c := w.dev.con
  match c.resetCmd with
  | none => w
  | some cold =>
    if (w.dev.sess c.lastSess).out ≠ [] ∨ (c.lastSess = 0 ∧ c.tx ≠ []) then w
    else
      let drop (s : Session) : Session := { s with queue := [] }
      let w := w.modCon fun c => { c with s0 := drop c.s0, s1 := drop c.s1, resetCmd := none }
      w.modStart fun s => s.ask (if cold then 0x02 else 0x05)

/-- A row of one command of the command reference. -/
def cmdAct (n : Fin 2) (k : Cmd) : State → Res := actMem fun w => w.cmdRow n fun c => c.spec.cmd == k

/-- MODE (R264). -/
def execMode (n : Fin 2) : State → Res := cmdAct n .mode

/-- PRIV (R268, R269). -/
def execPriv (n : Fin 2) : State → Res := cmdAct n .priv

/-- PRIV_ANSWER (R269). -/
def execPrivAnswer (n : Fin 2) : State → Res := cmdAct n .privAnswer

/-- CLAIM (R272, R285). -/
def execClaim (n : Fin 2) : State → Res := cmdAct n .claim

/-- RELEASE (R272, R285). -/
def execRelease (n : Fin 2) : State → Res := cmdAct n .release

/-- CLAIM_BREAK (R272, R285). -/
def execClaimBreak (n : Fin 2) : State → Res := cmdAct n .claimBreak

/-- CLAIMS (R285). -/
def execClaims (n : Fin 2) : State → Res := cmdAct n .claims

/-- NOTIFY (R285, R295). -/
def execNotify (n : Fin 2) : State → Res := cmdAct n .notify

/-- HELP (R285). -/
def execHelp (n : Fin 2) : State → Res := cmdAct n .help

/-- COLOPHON (R286, R450). -/
def execColophon (n : Fin 2) : State → Res := cmdAct n .colophon

/-- STATUS (R286). -/
def execStatus (n : Fin 2) : State → Res := cmdAct n .status

/-- CLU (R286). -/
def execClu (n : Fin 2) : State → Res := cmdAct n .clu

/-- FLASH_INFO (R286). -/
def execFlashInfo (n : Fin 2) : State → Res := cmdAct n .flashInfo

/-- ACLK (R287). -/
def execAclk (n : Fin 2) : State → Res := cmdAct n .aclk

/-- ACLK_SET (R26, R287). -/
def execAclkSet (n : Fin 2) : State → Res := cmdAct n .aclkSet

/-- PWR_SHOW (R287). -/
def execPwrShow (n : Fin 2) : State → Res := cmdAct n .pwrShow

/-- PWR_REQ (R287, R288). -/
def execPwrReq (n : Fin 2) : State → Res := cmdAct n .pwrReq

/-- PWR_REFUSALS (R287, R398). -/
def execPwrRefusals (n : Fin 2) : State → Res := cmdAct n .pwrRefusals

/-- SUP_RAILS (R289). -/
def execSupRails (n : Fin 2) : State → Res := cmdAct n .supRails

/-- SUP_PHASES (R289). -/
def execSupPhases (n : Fin 2) : State → Res := cmdAct n .supPhases

/-- SUP_BAK (R289). -/
def execSupBak (n : Fin 2) : State → Res := cmdAct n .supBak

/-- LNK_SHOW (R290). -/
def execLnkShow (n : Fin 2) : State → Res := cmdAct n .lnkShow

/-- LNK_TRAIN (R290). -/
def execLnkTrain (n : Fin 2) : State → Res := cmdAct n .lnkTrain

/-- LNK_PARK (R290). -/
def execLnkPark (n : Fin 2) : State → Res := cmdAct n .lnkPark

/-- LNK_ALLOC (R283, R291). -/
def execLnkAlloc (n : Fin 2) : State → Res := cmdAct n .lnkAlloc

/-- FAB_SHOW (R290). -/
def execFabShow (n : Fin 2) : State → Res := cmdAct n .fabShow

/-- FAB_ROUTE (R290, R362). -/
def execFabRoute (n : Fin 2) : State → Res := cmdAct n .fabRoute

/-- FAB_CHIP (R283, R290). -/
def execFabChip (n : Fin 2) : State → Res := cmdAct n .fabChip

/-- FAB_SLICE (R283, R290). -/
def execFabSlice (n : Fin 2) : State → Res := cmdAct n .fabSlice

/-- TIME_SHOW (R290). -/
def execTimeShow (n : Fin 2) : State → Res := cmdAct n .timeShow

/-- TIME_SET (R290, R357). -/
def execTimeSet (n : Fin 2) : State → Res := cmdAct n .timeSet

/-- COL_SHOW (R290, R384). -/
def execColShow (n : Fin 2) : State → Res := cmdAct n .colShow

/-- SAG_SHOW (R292). -/
def execSagShow (n : Fin 2) : State → Res := cmdAct n .sagShow

/-- SAG_EN (R165, R292). -/
def execSagEn (n : Fin 2) : State → Res := cmdAct n .sagEn

/-- SAG_DIS (R165, R292). -/
def execSagDis (n : Fin 2) : State → Res := cmdAct n .sagDis

/-- SAG_KILL (R166, R292). -/
def execSagKill (n : Fin 2) : State → Res := cmdAct n .sagKill

/-- SAG_QUOTA (R198, R292). -/
def execSagQuota (n : Fin 2) : State → Res := cmdAct n .sagQuota

/-- SAG_MASK (R195, R292). -/
def execSagMask (n : Fin 2) : State → Res := cmdAct n .sagMask

/-- SAG_REC (R292). -/
def execSagRec (n : Fin 2) : State → Res := cmdAct n .sagRec

/-- SAG_COUNT (R292). -/
def execSagCount (n : Fin 2) : State → Res := cmdAct n .sagCount

/-- CRV_SHOW (R293). -/
def execCrvShow (n : Fin 2) : State → Res := cmdAct n .crvShow

/-- CRV_LOAD (R121, R293). -/
def execCrvLoad (n : Fin 2) : State → Res := cmdAct n .crvLoad

/-- CRV_UNLOAD_CMD (R121, R293). -/
def execCrvUnloadCmd (n : Fin 2) : State → Res := cmdAct n .crvUnload

/-- CRV_BIND (R123, R293). -/
def execCrvBind (n : Fin 2) : State → Res := cmdAct n .crvBind

/-- CRV_PERM (R123, R293). -/
def execCrvPerm (n : Fin 2) : State → Res := cmdAct n .crvPerm

/-- CRV_MODE (R120, R293). -/
def execCrvMode (n : Fin 2) : State → Res := cmdAct n .crvMode

/-- CRV_COMMIT (R123, R293). -/
def execCrvCommit (n : Fin 2) : State → Res := cmdAct n .crvCommit

/-- LOG_SHOW (R294, R476). -/
def execLogShow (n : Fin 2) : State → Res := cmdAct n .logShow

/-- LOG_MARK (R294). -/
def execLogMark (n : Fin 2) : State → Res := cmdAct n .logMark

/-- LOG_CLEAR (R294). -/
def execLogClear (n : Fin 2) : State → Res := cmdAct n .logClear

/-- STAGE_SHOW (R296). -/
def execStageShow (n : Fin 2) : State → Res := cmdAct n .stageShow

/-- STAGE_SET (R296, R297). -/
def execStageSet (n : Fin 2) : State → Res := cmdAct n .stageSet

/-- STAGE_DROP (R296). -/
def execStageDrop (n : Fin 2) : State → Res := cmdAct n .stageDrop

/-- COMMIT (R296, R488). -/
def execCommit (n : Fin 2) : State → Res := cmdAct n .commit

/-- KEY_SHOW (R298). -/
def execKeyShow (n : Fin 2) : State → Res := cmdAct n .keyShow

/-- KEY_SET (R283, R299). -/
def execKeySet (n : Fin 2) : State → Res := cmdAct n .keySet

/-- KEY_CLEAR (R283, R298). -/
def execKeyClear (n : Fin 2) : State → Res := cmdAct n .keyClear

/-- RESET (R300). -/
def execReset (n : Fin 2) : State → Res := cmdAct n .reset

/-- TEST_RESULT (R298, R455). -/
def execTestResult (n : Fin 2) : State → Res := cmdAct n .testResult

/-- TEST_BSCAN (R298, R452). -/
def execTestBscan (n : Fin 2) : State → Res := cmdAct n .testBscan

/-- `sag ack` has three forms; a second word that names none is answered in the first. -/
def CmdLine.acks (c : CmdLine) (word : String) : Bool := c.spec.cmd == .sagAck && (c.pos[1]?).any fun t => t.isWordTok word

/-- SAG_ACK_TRAP (R172, R292). -/
def execSagAckTrap (n : Fin 2) : State → Res := actMem fun w =>
  w.cmdRow n fun c => c.spec.cmd == .sagAck && !c.acks "fault" && !c.acks "poison"

/-- SAG_ACK_FAULT (R171, R292). -/
def execSagAckFault (n : Fin 2) : State → Res := actMem fun w => w.cmdRow n fun c => c.acks "fault"

/-- SAG_ACK_POISON (R192, R292). -/
def execSagAckPoison (n : Fin 2) : State → Res := actMem fun w => w.cmdRow n fun c => c.acks "poison"

end Sys2Proof.Machine
end

