-- ==== Sys2Proof/Machine/Clock.lean ====
section
/-!
DEFINITION. What happens at a tick: time passes, the UART sends, the management core looks at its work (log entry 7).
-/
namespace Sys2Proof.Machine

/-- Fabric time advances with the hub's reference; while an offset is left it slews by 500 ppm, one nanosecond in 2,000
(R357). -/
def tickFab (f : Fab) : Fab :=
  if f.slewLeft = 0 then { f with time := f.time + 1, slewFrac := 0 }
  else if f.slewFrac + 1 < 2000 then { f with time := f.time + 1, slewFrac := f.slewFrac + 1 }
  else if 0 < f.slewLeft then { f with time := f.time + 2, slewFrac := 0, slewLeft := f.slewLeft - 1 }
  else { f with slewFrac := 0, slewLeft := f.slewLeft + 1 }

/-- A period of the crystal, in 10⁻⁶ ns (R472). -/
def crystalTick : Nat := 30517578125

/-- The always-on domain goes on counting fabric time while the hub does not (R472): by one crystal period at each of its ticks, from
the last value the hub gave. -/
def tickAon (d : Dev) : Dev :=
  let c := d.aon.crys + 1000000
  if c < crystalTick then { d with aon := { d.aon with crys := c } }
  else
    let r := d.aon.crysRem + crystalTick
    { d with aon := { d.aon with crys := c - crystalTick, crysRem := r % 1000000 }
             fab := { d.fab with time := d.fab.time + BitVec.ofNat 64 (r / 1000000) } }

/-- Time passes by one nanosecond. -/
def tickTime (d : Dev) : Dev :=
  let d := { d with now := d.now + 1 }
  if d.hubLive then { d with fab := tickFab d.fab, aon := { d.aon with crys := 0, crysRem := 0 } } else tickAon d

/-- The UART has sent a character (R247, R248): room for output that waits. -/
def W.uartOut (w : W) : W :=
  match w.dev.con.tx with
  | b :: t =>
    if w.dev.now < w.dev.con.txAt + w.dev.charNs then w
    else ((w.modCon fun c => { c with tx := t, txAt := w.dev.now }).out (.uart b)).conPump 0
  | [] => w

/-- One nanosecond with no command waiting (log entry 7). -/
def tick : State → Res := act fun w =>
  let w := { w with dev := tickTime w.dev }
  if w.dev.aon.powered then w.commitWaiting.uartOut.conTask else w

end Sys2Proof.Machine
end

