-- ==== Sys2Proof/Machine/MemOps.lean ====
section
/-!
DEFINITION. Loads, stores and atomics of threads (R178–R182, R190–R192, R204, R514): every access of an instruction is
checked, in lane order, before any is performed (log entry 31).
-/
namespace Sys2Proof.Machine

/-- Bytes per lane, or per bundle for the 64-byte form. -/
def memBytes : MemWidth → Nat
  | .w1 => 1
  | .w2 => 2
  | .w4 => 4
  | .w8 => 8
  | .w64 => 64

/-- A run of consecutive bytes of an access: lane, offset in the lane's data, address, length. -/
structure Piece where
  lane : Nat
  off : Nat
  addr : Nat
  len : Nat
  deriving DecidableEq, Repr

/-- The lanes active in a mask, rising. -/
def lanesOf (act : BitVec 16) : List Nat := (List.range 16).filter fun l => act.getLsbD l

/-- The runs that the active lanes access, cut at 4 KiB. The 64-byte form holds word l for lane l (log entry 31). -/
def memPieces (a : MemArgs) (act : BitVec 16) : List Piece :=
  let cut (lane off addr len : Nat) : List Piece :=
    (piecesOf addr len).map fun x => ⟨lane, off + (x.1 - addr), x.1, x.2⟩
  let at0 := (a.addrs.headD 0).toNat
  match a.width with
  | .w64 => if act = 0xFFFF then cut 0 0 at0 64 else (lanesOf act).flatMap fun l => cut 0 (4 * l) (at0 + 4 * l) 4
  | k => (lanesOf act).flatMap fun l => cut l 0 (a.addrs.getD l 0).toNat (memBytes k)

/-- The element that holds word `k` of a lane's data. -/
def memElement (a : MemArgs) (lane k : Nat) : Nat :=
  match a.width with
  | .w64 => 4 * k + a.elem
  | _ => 4 * lane + (a.elem + k) % 4

/-- Replace one byte of a word. -/
def putByte (x : Word) (i : Nat) (b : Byte) : Word :=
  (x &&& ~~~(BitVec.ofNat 32 (0xFF * 2 ^ (8 * i)))) ||| BitVec.ofNat 32 (b.toNat * 2 ^ (8 * i))

/-- Put loaded bytes into the destination. -/
def Bundle.patch (b : Bundle) (a : MemArgs) (lane off : Nat) (l : List Byte) : Bundle :=
  l.zipIdx.foldl (fun b x =>
    let i := off + x.2
    let e := memElement a lane (i / 4)
    b.setElem a.reg e (putByte (b.elem a.reg e) (i % 4) x.1)) b

/-- Bytes that have arrived for a load. -/
def W.patchLoad (w : W) (x : At) (a : MemArgs) (lane off : Nat) (l : List Byte) : W :=
  w.modBundle x.cl x.vu fun b => b.patch a lane off l

/-- The bytes of a run of a store. -/
def Bundle.storeBytes (b : Bundle) (a : MemArgs) (p : Piece) : List Byte :=
  (rangeFrom p.off p.len).map fun i =>
    BitVec.ofNat 8 ((b.elem a.reg (memElement a p.lane (i / 4))).toNat / 2 ^ (8 * (i % 4)))

/-- How the checks on the runs of an instruction end (R514): with their places (none where the link between the cluster
dies cuts one off), at the first that faults, or held. -/
inductive Resolved where
  | all (l : List (Piece × Option Place))
  | fault (f : AFault) (addr : Nat)
  | asleep (dom : Nat)
  | moving
  deriving DecidableEq, Repr

def W.resolve (w : W) (s : Nat) (u : Use) : List Piece → List (Piece × Option Place) → Resolved × W
  | [], acc => (.all acc.reverse, w)
  | p :: t, acc =>
    match w.access s p.addr p.len u with
    | (.ok (.reg v o), w) =>
      if w.dev.admits hubDom then W.resolve w s u t ((p, some (.reg v o)) :: acc) else (.asleep hubDom, w)
    | (.ok q, w) => W.resolve w s u t ((p, some q) :: acc)
    | (.cut, w) => W.resolve w s u t ((p, none) :: acc)
    | (.fault f, w) => (.fault f p.addr, w)
    | (.asleep d, w) => (.asleep d, w)
    | (.moving _, w) => (.moving, w)

/-- Hold an instruction until a domain is ACTIVE or a page move has ended (R28, R214). -/
def W.holdInstr (w : W) (h : Held) (dom : Option Nat) : W :=
  let w := (w.modCmp fun c => { c with held := c.held ++ [h] }).modBundle h.at_.cl h.at_.vu fun b => { b with memOut := b.memOut + 1 }
  match dom with
  | some d => w.raiseWake d true
  | none => w

/-- A memory operation of a bundle leaves for the host or another chip. -/
def W.memSent (w : W) (x : At) : W := w.modBundle x.cl x.vu fun b => { b with memOut := b.memOut + 1 }

/-- Whether a place lies on a channel of a saggar that is poisoned (R190–R192). -/
def Dev.placePoisoned (d : Dev) (s : Nat) : Option Place → Bool
  | none => true
  | some (.remote chip vc _) => (d.sag s).poisoned 0 vc chip 0
  | some _ => false

/-- A failure on the channel of a place is counted (R191 step 4). -/
def W.poisonPlace (w : W) (s : Nat) : Option Place → W
  | none => w.poison s 2 0 0 2 1
  | some (.remote chip vc _) => w.poison s 0 vc chip 0 1
  | some _ => w

/-- A store's failure on the channel of a place: its entry waits for the bundle's report (R191). -/
def W.owePlace (w : W) (x : At) (s : Nat) : Option Place → W
  | none => w.poisonOwed x.cl x.vu s 2 0 0 2 1
  | some (.remote chip vc _) => w.poisonOwed x.cl x.vu s 0 vc chip 0 1
  | some _ => w

/-- The channels that an instruction's runs lie on, each once: a place for each (R190; log entry 42). -/
def channelsOf (l : List (Option Place)) : List (Option Place) :=
  (l.map fun q => match q with | some (.remote chip vc _) => some (.remote chip vc 0) | q => q).eraseDups

/-- Count the failure of an instruction on each poisoned channel that its runs lie on. -/
def W.poisonPlaces (w : W) (s : Nat) (l : List (Option Place)) : W :=
  (channelsOf (l.filter (w.dev.placePoisoned s))).foldl (fun w q => w.poisonPlace s q) w

/-- What the error-correcting code finds as a thread reads a place: the line in error, or corrected errors counted (R211,
R459). -/
def W.eccPlace (w : W) (s va : Nat) (u : Use) (e : Ecc) : W :=
  match (w.access s va 1 u).1 with
  | .ok (.hbm a) => w.eccRead (srcOf 4 (hbmStack a)) s va u e
  | .ok (.near a) => w.eccRead (srcOf 1 (a / 2 ^ 20)) s va u e
  | _ => w

def Place.onHost : Place → Bool
  | .host _ _ => true
  | _ => false

/-- The address of a run of an access, by its lane and its offset in the lane. -/
def runAddr (a : MemArgs) (act : BitVec 16) (lane off : Nat) : Nat :=
  match (memPieces a act).find? fun p => p.lane == lane && p.off == off with | some p => p.addr | none => 0

/-- Perform a run of a load. -/
def W.loadPiece (w : W) (x : At) (s : Nat) (a : MemArgs) (p : Piece) : Place → W
  | .host t h =>
    if w.dev.pci.up then
      (w.memSent x).hostRead (w.dev.fnOf t) h p.len (.load x a p.lane p.off) true
    else
      let (l, w) := w.drawBytes p.len
      w.patchLoad x a p.lane p.off l
  | .reg t o =>
    let (v, w) := w.regRead (w.dev.regRef (.reg (Fin.ofNat 128 t)) o)
    w.patchLoad x a p.lane p.off (leBytes 4 v)
  | .remote chip vc o =>
    (w.memSent x).sendRemote s chip vc p.addr (.load x a p.lane p.off)
      (w.dev.mkPkt 2 chip (w.dev.viewTsag s) s 0 o p.len 0 [] false)
  | q => w.patchLoad x a p.lane p.off (w.getPlace q p.len)

/-- A 1- or 2-byte load sets the unused high bits of its element to zero (R157). -/
def W.narrow (w : W) (x : At) (a : MemArgs) : W :=
  if memBytes a.width < 4 then
    w.modBundle x.cl x.vu fun b => (lanesOf x.act).foldl (fun b l => b.setElem a.reg (memElement a l 0) 0) b
  else w

/-- Perform a load (R178); `x.act` holds the lanes active for it. -/
def W.doLoad (w : W) (x : At) (a : MemArgs) (e : Ecc) : W :=
  match w.dev.bundle x.cl x.vu with
  | none => w
  | some b =>
    let s := b.sag
    let u : Use := .load (memBytes a.width)
    let ps := memPieces a x.act
    let w : W := { w with die := some (dieOf x.cl), inst := w.dev.cmp.nextId }
    let w := match ps with | p :: _ => w.eccPlace s p.addr u e | [] => w
    let held : Held := ⟨some (a, .ok), none, none, x⟩
    match w.resolve s u ps [] with
    | (.fault f addr, w) => w.faultAt x x.act f.code.1 f.code.2 addr
    | (.asleep d, w) => w.holdInstr held (some d)
    | (.moving, w) => w.holdInstr held none
    | (.all l, w) =>
      match l.find? fun p => w.dev.placePoisoned s p.2 with
      | some p => (w.poisonPlaces s (l.map Prod.snd)).faultAt x x.act 4 0 p.1.addr
      | none =>
        let host := (l.filter fun p => p.2.any Place.onHost).length
        if !w.dev.tagsFree host then w.holdInstr held none
        else l.foldl (fun w p => match p.2 with | some q => w.loadPiece x s a p.1 q | none => w) (w.narrow x a)

/-- Write a word at a place of a saggar's register view: what the view does not let it write stays (R204, R498). -/
def W.viewWrite (w : W) (s o : Nat) (l : List Byte) : W :=
  let r := w.dev.regRef (.reg (Fin.ofNat 128 s)) o
  match w.dev.refPlace (.reg (Fin.ofNat 128 s)) r true with
  | .view _ true => w
  | _ => w.regWrite r (BitVec.ofNat 32 (leVal l))

/-- Perform a run of a store. -/
def W.storePiece (w : W) (x : At) (s : Nat) (p : Piece) (l : List Byte) : Place → W
  | .reg t o => w.viewWrite t o l
  | .remote chip vc o =>
    (w.memSent x).sendRemote s chip vc p.addr (.store x) (w.dev.mkPkt 1 chip (w.dev.viewTsag s) s 0 o 0 0 l false)
  | q => w.putPlace q l

/-- Perform the runs of a store whose places are known. -/
def W.storeRuns (w : W) (x : At) (s : Nat) (b : Bundle) (a : MemArgs) (l : List (Piece × Option Place)) : W :=
  let (bad, good) := l.partition fun p => w.dev.placePoisoned s p.2
  let w := (channelsOf (bad.map Prod.snd)).foldl (fun w q => w.owePlace x s q) w
  good.foldl (fun w p => match p.2 with | some q => w.storePiece x s p.1 (b.storeBytes a p.1) q | none => w) w

/-- Whether a place of a saggar's register view posts work (R162, R184, R229): THR.L0PROD, or DMA.QPROD of one of its queues. -/
def Dev.posts (d : Dev) : Option Place → Bool
  | some (.reg s o) =>
    (match d.regRef (.reg (Fin.ofNat 128 s)) o with
    | .blk base r => (base == 0xA000 && r % 0x40 == 0xC) || (base == 0x20000 && r % 0x40 == 0xC)
    | _ => false)
  | _ => false

/-- Perform a store (R178). A run on a poisoned channel fails, to be reported by the bundle's next fence, release or exit; a store that
posts work is such a release, and waits for the bundle's earlier operations (R184, R191). -/
def W.doStore (w : W) (x : At) (a : MemArgs) : W :=
  match w.dev.bundle x.cl x.vu with
  | none => w
  | some b =>
    let s := b.sag
    let w : W := { w with die := some (dieOf x.cl), inst := w.dev.cmp.nextId }
    let held : Held := ⟨none, some a, none, x⟩
    match w.resolve s (.store (memBytes a.width)) (memPieces a x.act) [] with
    | (.fault f addr, w) => w.faultAt x x.act f.code.1 f.code.2 addr
    | (.asleep d, w) => w.holdInstr held (some d)
    | (.moving, w) => w.holdInstr held none
    | (.all l, w) =>
      if l.any fun p => w.dev.posts p.2 then
        if b.memOut ≠ 0 then w.holdInstr held none
        else if b.storePoison then w.reportStores x x.act
        else w.storeRuns x s b a l
      else w.storeRuns x s b a l

/-- What an atomic leaves in memory (R180). -/
def amoNew (op : AmoOp) (n old x cmp : Nat) : Nat :=
  let lt (a b : Nat) : Bool := decide (sext (8 * n) a < sext (8 * n) b)
  match op with
  | .load => old
  | .store | .swap => x
  | .cas => if old = cmp then x else old
  | .add => (old + x) % 2 ^ (8 * n)
  | .fadd => code32 (Val.addX .rne (Fmt.b32.decode old) (Fmt.b32.decode x)).1
  | .smin => if lt x old then x else old
  | .smax => if lt old x then x else old
  | .umin => min old x
  | .umax => max old x
  | .and => old &&& x
  | .or => old ||| x
  | .xor => old ^^^ x

/-- The code of an atomic's operation (R180), and the operation of a code. -/
def amoCodes : List AmoOp := [.load, .store, .swap, .cas, .add, .fadd, .smin, .smax, .umin, .umax, .and, .or, .xor]
def amoCode (op : AmoOp) : Nat := amoCodes.findIdx (· == op)

def amoReads (op : AmoOp) : Bool := op != .store
def amoWrites (op : AmoOp) : Bool := op != .load

/-- Perform an atomic at a place of this chip: the value that stood there, and the working state after. -/
def W.amoAt (w : W) (q : Place) (op : AmoOp) (n x cmp : Nat) : Nat × W :=
  let old := leVal (w.getPlace q n)
  (old, if amoWrites op then w.putPlace q (leBytes n (amoNew op n old x cmp)) else w)

/-- A value of an atomic in a register: element 0 of the lane, with element 1 above it for 64 bits (log entry 31). -/
def Bundle.amoVal (b : Bundle) (r lane : Nat) (size64 : Bool) : Nat :=
  (b.elem r (4 * lane)).toNat + (if size64 then (b.elem r (4 * lane + 1)).toNat * 2 ^ 32 else 0)

def Bundle.setAmo (b : Bundle) (r lane : Nat) (size64 : Bool) (v : Nat) : Bundle :=
  let b := b.setElem r (4 * lane) (BitVec.ofNat 32 v)
  if size64 then b.setElem r (4 * lane + 1) (BitVec.ofNat 32 (v / 2 ^ 32)) else b

/-- The result of an atomic reaches its destination; a store has none. -/
def W.amoResult (w : W) (x : At) (op : AmoOp) (a : AmoArgs) (lane v : Nat) : W :=
  if amoReads op then w.modBundle x.cl x.vu fun b => b.setAmo a.dst lane a.size64 v else w

/-- An ATOMIC packet's arg (R340). -/
def amoArg (op : AmoOp) (a : AmoArgs) : Nat := amoCode op + b2n a.size64 * 16 + a.ord.val * 32 + a.scope.val * 128

/-- Perform an atomic of one lane. -/
def W.amoLane (w : W) (x : At) (s : Nat) (op : AmoOp) (a : AmoArgs) (b : Bundle) (p : Piece) (q : Place) : W :=
  let v := b.amoVal a.src p.lane a.size64
  let c := b.amoVal a.cmp p.lane a.size64
  match q with
  | .remote chip vc o =>
    let data := (if op = .load then [] else leBytes p.len v) ++ (if op = .cas then leBytes p.len c else [])
    (w.memSent x).sendRemote s chip vc p.addr (.amo x a p.lane)
      (w.dev.mkPkt 3 chip (w.dev.viewTsag s) s 0 o (amoArg op a) 0 data false)
  | q =>
    let (old, w) := w.amoAt q op p.len v c
    w.amoResult x op a p.lane old

/-- Perform an atomic (R180): lanes in rising order. -/
def W.doAmo (w : W) (x : At) (op : AmoOp) (a : AmoArgs) : W :=
  match w.dev.bundle x.cl x.vu with
  | none => w
  | some b =>
    let s := b.sag
    let n := if a.size64 then 8 else 4
    let w : W := { w with die := some (dieOf x.cl), inst := w.dev.cmp.nextId }
    let held : Held := ⟨none, none, some (op, a), x⟩
    let ps : List Piece := (lanesOf x.act).map fun l => ⟨l, 0, (a.addrs.getD l 0).toNat, n⟩
    match w.resolve s (.amo n (amoReads op) (amoWrites op)) ps [] with
    | (.fault f addr, w) => w.faultAt x x.act f.code.1 f.code.2 addr
    | (.asleep d, w) => w.holdInstr held (some d)
    | (.moving, w) => w.holdInstr held none
    | (.all l, w) =>
      let bad := l.find? fun p => w.dev.placePoisoned s p.2
      let report := amoRelease a && a.scope ≠ 0 && b.storePoison
      if report then
        (w.reportStores x x.act).poisonPlaces s (l.map Prod.snd)
      else match bad with
        | some p => (w.poisonPlaces s (l.map Prod.snd)).faultAt x x.act 4 0 p.1.addr
        | none => l.foldl (fun w p => match p.2 with | some q => w.amoLane x s op a b p.1 q | none => w) w

/-- Issue a memory instruction. -/
def W.memInstr (w : W) (x : At) (regs : List Nat) (f : W → At → W) : W :=
  if w.dev.memWaits x then w else w.instrR x regs fun w _ act => f w { x with act }

/-- Perform what a wake or the end of a page move releases, of halted bundles too (R164, R166); what still cannot be performed is held
again. -/
def W.performHeld (w : W) : W :=
  let l := w.dev.cmp.held
  l.foldl (fun w h =>
    let w := w.memDone h.at_
    match h.load, h.store, h.amo with
    | some a, _, _ => w.doLoad h.at_ a.1 a.2
    | _, some a, _ => w.doStore h.at_ a
    | _, _, some a => w.doAmo h.at_ a.1 a.2
    | _, _, _ => w) (w.modCmp fun c => { c with held := [] })

/-- An operation of a bundle at the host or another chip has ended: what is held is tried again, since it may have waited for that. -/
def W.retryHeld (w : W) : W := if w.dev.cmp.held = [] then w else w.performHeld

/-- LOAD (R178, R204, R514). -/
def execLoad (at_ : At) (a : MemArgs) (ecc : Ecc) : State → Res := checkedMem a.wf fun w =>
  w.memInstr at_ [a.reg] fun w x => w.doLoad x a ecc

/-- STORE (R178, R204, R514). -/
def execStore (at_ : At) (a : MemArgs) : State → Res := checkedMem a.wf fun w =>
  w.memInstr at_ [a.reg] fun w x => w.doStore x a

/-- An atomic (R180, R181): binary32 add has 32 bits only; a release waits for the bundle's earlier operations. -/
def W.amo (w : W) (x : At) (op : AmoOp) (a : AmoArgs) : W :=
  if amoRelease a ∧ !w.dev.fenceOpen x (a.scope == 2) then w
  else w.memInstr x [a.dst, a.src, a.cmp] fun w x =>
    if op = .fadd ∧ a.size64 then w.faultAt x x.act 1 0 0 else w.doAmo x op a

/-- AMO_LOAD (R180). -/
def execAmoLoad (at_ : At) (a : AmoArgs) : State → Res := checkedMem a.wf fun w => w.amo at_ .load a

/-- AMO_STORE (R180). -/
def execAmoStore (at_ : At) (a : AmoArgs) : State → Res := checkedMem a.wf fun w => w.amo at_ .store a

/-- AMO_SWAP (R180). -/
def execAmoSwap (at_ : At) (a : AmoArgs) : State → Res := checkedMem a.wf fun w => w.amo at_ .swap a

/-- AMO_COMPARE_AND_SWAP (R180). -/
def execAmoCompareAndSwap (at_ : At) (a : AmoArgs) : State → Res := checkedMem a.wf fun w => w.amo at_ .cas a

/-- AMO_INTEGER_ADD (R180). -/
def execAmoIntegerAdd (at_ : At) (a : AmoArgs) : State → Res := checkedMem a.wf fun w => w.amo at_ .add a

/-- AMO_BINARY32_ADD (R180). -/
def execAmoBinary32Add (at_ : At) (a : AmoArgs) : State → Res := checkedMem a.wf fun w => w.amo at_ .fadd a

/-- AMO_SIGNED_MIN (R180). -/
def execAmoSignedMin (at_ : At) (a : AmoArgs) : State → Res := checkedMem a.wf fun w => w.amo at_ .smin a

/-- AMO_SIGNED_MAX (R180). -/
def execAmoSignedMax (at_ : At) (a : AmoArgs) : State → Res := checkedMem a.wf fun w => w.amo at_ .smax a

/-- AMO_UNSIGNED_MIN (R180). -/
def execAmoUnsignedMin (at_ : At) (a : AmoArgs) : State → Res := checkedMem a.wf fun w => w.amo at_ .umin a

/-- AMO_UNSIGNED_MAX (R180). -/
def execAmoUnsignedMax (at_ : At) (a : AmoArgs) : State → Res := checkedMem a.wf fun w => w.amo at_ .umax a

/-- AMO_AND (R180). -/
def execAmoAnd (at_ : At) (a : AmoArgs) : State → Res := checkedMem a.wf fun w => w.amo at_ .and a

/-- AMO_OR (R180). -/
def execAmoOr (at_ : At) (a : AmoArgs) : State → Res := checkedMem a.wf fun w => w.amo at_ .or a

/-- AMO_XOR (R180). -/
def execAmoXor (at_ : At) (a : AmoArgs) : State → Res := checkedMem a.wf fun w => w.amo at_ .xor a

end Sys2Proof.Machine
end

