-- ==== Sys2Proof/Machine/WakeDone.lean ====
section
/-!
DEFINITION. The end of a wake (R27, R28, R399–R403, R461), of a page move (R210, R214, R215), of an invalidation (R210) and of the commit
of a translation set (R217).
-/
namespace Sys2Proof.Machine

/-- The page moves whose walk waited for a domain are tried again (R214, R218). -/
def W.retryMoves (w : W) : W :=
  ((List.range 128).filter fun s => (w.dev.mpage s).mvWait).foldl (fun w s =>
    (w.modMem s fun p => { p with mvWait := false }).moveTry s) w

/-- What a wake or a page move releases: held accesses, waiting records, moves, stalled lnchs (R28, R162, R214). -/
def W.release (w : W) : W :=
  let w := w.performHeld.flushRecs.retryMoves
  (List.range 128).foldl W.unstall w

/-- The retention flip-flops of a cluster were in error (R461): it is offline until cold reset, its bundles do not run, its
slots are lost; its near store, whose memory step came before the flip-flops were restored (R402), stays readable. -/
def W.retentionLost (w : W) (n : Nat) : W :=
  let who := (w.dev.cl n).owner
  let slots := (w.dev.cl n).liveSlots.length
  let vus := (List.range 4).filter fun v => (w.dev.bundle n v).isSome
  let w := vus.foldl (fun w v => (w.modVu n v fun x => { x with sfuQ := [] }).lostBundle n v 0) w
  let w := w.modCl n fun c => { c with online := false, nearKept := true, owner := none, prev := c.owner.getD c.prev, slots := [], switching := none }
  let w := w.modDom n fun x => { x with cur := .offline, tgt := .offline, wake := none }
  let w := w.modPwr fun p => { p with returning := p.returning.filter fun k => k ≠ n }
  w.event 0x0304 (srcOf 1 n) who [(4, 2), (4, vus.length), (4, slots)]

/-- A request for ACTIVE finds its domain OFFLINE at the end of the wake: it is refused (R288, R393, R395). -/
def W.wakeRefused (w : W) (n : Nat) : W :=
  let x := w.dev.dom n
  if (x.fromReg ∨ x.fromCon) ∧ x.reqTgt = .active then
    (w.countRefusal n (refCode 0x15 0)).reqDone n 1 [refCode 0x15 0]
  else w

/-- Retained bundles and slot lines of a cluster are in error (R461): each such bundle does not run, each such line becomes NaN, and
an entry names the cluster and its saggar for either case. -/
def W.retainedBad (w : W) (n : Nat) (e : RetErr) : W :=
  let who := (w.dev.cl n).owner
  let lost := (List.range 4).filter fun v => e.bundles.getLsbD v && (w.dev.bundle n v).isSome
  let w := lost.foldl (fun w v => w.lostBundle n v 0) w
  let bad (i l : Nat) : Bool := e.lines.any fun y => y.1.val == i && y.2.val == l
  let hit := (w.dev.cl n).liveSlots.filter fun x => e.lines.any fun y => y.1.val == x.1
  let w := w.modCl n fun c =>
    { c with slots := hit.foldl (fun t x => Tab.put t x.1 (x.2.hurt (bad x.1))) c.slots }
  let w := if lost = [] then w else w.event 0x0304 (srcOf 1 n) who [(4, 0), (4, lost.length), (4, 0)]
  if hit = [] then w else w.event 0x0304 (srcOf 1 n) who [(4, 1), (4, 0), (4, hit.length)]

/-- The hub is ACTIVE again (R403, R406, R410): the dependents its entry took down go back to the states they held, the
wakes that waited for it start, and a DVFS transition that waited starts; under the phase lock no dependent wakes (R418). -/
def W.hubAwake (w : W) : W :=
  let w := (w.modSup fun s => { s with activeAt := w.dev.now }).setVcore (vcoreSet w.dev.hub.cur.toNat)
  if w.dev.lockedOut then w
  else
    let prior := w.dev.pwr.cascp
    let back := (List.range 277).filter fun k => w.dev.pwr.casc.getLsbD k && (w.dev.dom k).cur == .banked
    let w := w.modPwr fun p => { p with casc := 0, cascp := [], returning := back }
    let w := back.foldl (fun w k => w.beginWake k (Tab.look .active prior k)) w
    ((List.range 277).foldl W.tryStart w).dvfsStart

/-- A port whose domain has woken returns to DETECT, or to PARKED (R332): reprobes whose time fell into the sleep are past (R313). -/
def W.portAwake (w : W) (p : Nat) : W :=
  match (w.dev.port p).state with
  | .parked => w.modPort p fun x => { x with lastProbe := w.dev.now, probing := none }
  | .off => w
  | _ => w.enterDetect p

/-- WAKE_COMPLETE (R27, R28, R401–R403, R461): the domain has passed the four steps; a dependent of the hub is ACTIVE only under an
ACTIVE hub. `ret` says what of the state that a cluster kept in BANKED is in error. -/
def execWakeComplete (d : Fin 278) (ret : RetErr) : State → Res := actMem fun w =>
  let n := d.val
  let w := w.bring ret.ecc
  match (w.dev.dom n).wake with
  | none => w
  | some k =>
    if !k.started ∨ k.step ≠ 5 ∨ (n ≠ hubDom ∧ n < 277 ∧ (w.dev.dom hubDom).cur ≠ .active) then w
    else if ret.flops ∧ n < 256 ∧ (w.dev.dom n).cur = .banked then
      ((((w.retentionLost n).wakeRefused n).release).nextReq n).cascadeStep.serveHeld
    else
      let w := if n < 256 ∧ (w.dev.dom n).cur = .banked then w.retainedBad n ret else w
      let w := w.modDom n fun x => { x with cur := k.into, tgt := k.into, wake := none, idleAt := w.dev.now }
      let w := w.modPwr fun p => { p with returning := p.returning.filter fun k => k ≠ n }
      let w := if n = hubDom then w.hubAwake else if 257 ≤ n ∧ n < 269 then w.portAwake (n - 257) else w
      let x := w.dev.dom n
      let w := if (x.fromReg ∨ x.fromCon) ∧ x.reqTgt = .active then w.reqDone n 0 [] else w
      ((w.release.nextReq n).cascadeStep).serveHeld.conWake

/-- FORCED_ENTRY (R390, R396, R407, R493): the entry that a console command or the supplies have commanded. It waits for an
entry past its commit point and for a wake; on the hub it then stops the work, waits for what R396 steps 3 and 4 name and for the wakes
of its dependents, and takes these down. A page move that it ends releases its held accesses to the old place (R215). -/
def execForcedEntry (d : Fin 278) : State → Res := actMem fun w =>
  let x := w.dev.dom d
  let take (w : W) : W := if w.dev.hubHolds then w else w.takeDown
  if d.val = hubDom ∧ x.taking then (if w.dev.hubHolds then w else w.takeDown.release)
  else match x.forceReq with
  | none => w
  | some tgt =>
    if x.committed ∨ x.wake.isSome then w
    else if x.cur = .off ∨ x.cur = .offline ∨ x.cur.reaches tgt then w.forceEnds d
    else
      let tgt := if 257 ≤ d.val ∧ d.val < 269 then .banked else tgt
      (if d.val = hubDom then take (w.forceHub tgt) else w.forceOne d tgt).release

/-- The memory that a leaf's page lies in, and its address there. -/
def leafSpace (e : Nat) : Option (Space × Nat) :=
  match pteTgt e with
  | 0 => some (.hbm, pteAddr e)
  | 1 => some (.near, pteAddr e)
  | 2 => some (.host, pteAddr e)
  | _ => none

/-- The domains a move needs awake. -/
def Move.doms (m : Move) : List Nat := (((List.range 8).map hbmDom) ++ List.range 256).filter m.usesDom

/-- Whether an access to the page issued before the hold has not been performed yet (R214 step 3): one at another chip, or a read of
the host, by whatever use, of the page's old place there. -/
def Dev.moveWaits (d : Dev) (s : Nat) (m : Move) : Bool :=
  let len := 2 ^ pageBits m.level
  let inPage (a : Nat) : Bool := a / len == m.va / len
  (d.fab.ops.any fun o => o.sag == s && inPage o.addr.toNat && (match o.use with | .move _ _ _ _ => false | _ => true)) ||
  (pteTgt m.old.toNat == 2 && d.pci.reads.any fun r =>
    r.fn == d.fnOf s && pteAddr m.old.toNat ≤ r.addr && r.addr < pteAddr m.old.toNat + len &&
    (match r.use with | .move _ _ _ | .crv _ _ => false | _ => true))

/-- Where a part of a page at an end of a move stands, checked as it is accessed (R201, R206, R214, R349): the owner of a near-store
sector, the host link, the routing view and its channel; at the own chip, what the target checks. -/
def W.moveAcc (w : W) (s e off len : Nat) (rd : Bool) : Acc × W :=
  let a := pteAddr e + off
  match pteTgt e with
  | 0 => (.ok (.hbm a), w)
  | 1 => (match w.dev.nearCause s a rd with | some c => .fault (.mem c) | none => .ok (.near a), w)
  | 2 => (if w.dev.pci.up then .ok (.host s a) else .cut, w)
  | _ =>
    let own := w.dev.fab.chip.isSome && pteChip e == w.dev.ownChip
    if !w.dev.viewOk s (pteChip e) (pteVc e) own then (.fault (.mem 0x0D), w)
    else if (w.dev.sag s).poisoned 0 (pteVc e) (pteChip e) 0 then (.cut, w)
    else if own then w.loopAcc s (pteVc e) a len (if rd then .load len else .store len)
    else (.ok (.remote (pteChip e) (pteVc e) a), w)

/-- Whether an access of a move fails. -/
def Acc.fails : Acc → Bool
  | .fault _ | .cut => true
  | _ => false

/-- Copy a page between two memories; a line in error stays in error at the new place (R215). -/
def W.copyPage (w : W) (f : Space) (a : Nat) (t : Space) (b len : Nat) : W :=
  let bad := (badLines w.mem f).filter fun l => a ≤ 64 * l && 64 * l < a + len
  bad.foldl (fun w l => w.put (.bad t ((64 * l - a + b) / 64))) (w.put (.copy f a t b len))

/-- A request of a move has been answered. -/
def W.moveAnswered (w : W) (s id : Nat) : W := w.modMove s id fun m => { m with out := m.out - 1 }

/-- The bytes that one request of a move carries (R340). -/
def moveChunk : Nat := 128

/-- Write a part of the page at its new place: to another chip as a WRITE packet, whose answer is awaited (R214 step 4). One that
cannot be written yet, as where the domain of that place sleeps (R28), is read again later. -/
def W.movePut (w : W) (s : Nat) (m : Move) (off : Nat) (l : List Byte) : W :=
  let again (w : W) : W := w.modMove s m.id fun m => { m with asked := min m.asked off }
  match w.moveAcc s m.new.toNat off l.length false with
  | (.ok (.remote chip vc o), w) =>
    (w.modMove s m.id fun m => { m with out := m.out + 1 }).sendRemote s chip vc (m.va + off) (.move s m.id off false)
      (w.dev.mkPkt 1 chip (w.dev.viewTsag s) s 0 o 0 0 l false)
  | (.ok p, w) =>
    match (placeDom p).filter fun d => (w.dev.dom d).cur ≠ .offline with
    | some d => if w.dev.admits d then (w.touch d).putPlace p l else (again w).raiseWake d true
    | none => w.putPlace p l
  | (.asleep d, w) => (again w).raiseWake d true
  | (.moving _, w) => again w
  | (_, w) => w.modMove s m.id fun m => { m with bad := some (m.bad.getD 0x54) }

/-- A part of the page has been read at the host or another chip: it goes to the new place. -/
def W.moveArrive (w : W) (s id off : Nat) (l : List Byte) : W :=
  match (w.dev.mpage s).mv with
  | some m => if m.id = id then (w.moveAnswered s id).movePut s m off l else w
  | none => w

/-- Ask for the next part of a page at the place where its old end stands, or take it there. -/
def W.moveGet (w : W) (s : Nat) (m : Move) (p : Place) : W :=
  let off := m.asked
  let sent (w : W) : W := w.modMove s m.id fun m => { m with asked := off + moveChunk, out := m.out + 1 }
  match p with
  | .host t a => if w.dev.tagFree then (sent w).hostRead (w.dev.fnOf t) a moveChunk (.move s m.id off) true else w
  | .remote chip vc o =>
    (sent w).sendRemote s chip vc (m.va + off) (.move s m.id off true)
      (w.dev.mkPkt 2 chip (w.dev.viewTsag s) s 0 o moveChunk 0 [] false)
  | p => (w.modMove s m.id fun m => { m with asked := off + moveChunk }).movePut s m off (w.getPlace p moveChunk)

/-- Whether both ends of a move lie in this chip's memory. -/
def Move.onChip (m : Move) : Bool :=
  let near (e : Nat) : Bool := pteTgt e == 0 || pteTgt e == 1
  near m.old.toNat && near m.new.toNat

/-- Where the word that a wait names stands as the tables are now (R177, R214, R217): translated anew, with the checks of a wait. A word
whose domain or table sleeps is found by its leaf. -/
def W.waitPlace (w : W) (s va : Nat) : Except AFault (Option (Bool × Nat)) × W :=
  match w.access s va 4 .wait with
  | (.ok (.near a), w) => (.ok (some (true, a)), w)
  | (.ok (.hbm a), w) => (.ok (some (false, a)), w)
  | (.fault f, w) => (.error f, w)
  | (.asleep _, w) =>
    (.ok (match leafAt w.mem 4 va 1 (bits (w.dev.mpage s).cur.root.toNat 47 12 * 4096) with
      | some (level, e) => if pteTgt e < 2 then some (pteTgt e == 1, pteAddr e + va % 2 ^ pageBits level) else none
      | none => none), w)
  | (_, w) => (.ok none, w)

/-- Translate a wait anew. -/
def Waiting.at (near : Bool) (pa : Nat) : Waiting → Waiting
  | .word _ _ va c v t dst act => .word near pa va c v t dst act
  | x => x

/-- The address that a wait on a word names, and its lanes. -/
def Waiting.named : Waiting → Option (Nat × BitVec 16)
  | .word _ _ va _ _ _ _ act => some (va, act)
  | _ => none

/-- Waits of a saggar on words of some addresses are translated anew, those of resident and of saved bundles; one that its checks refuse
faults its bundle (R171, R177, R514). From then on the words are tested at their new places (log entry 32). -/
def W.waitsAnew (w : W) (s : Nat) (mine : Nat → Bool) : W :=
  let w := w.settleWaits
  let w := w.dev.cmp.vus.foldl (fun w v =>
    let cl := v.1 / 4
    let vu := v.1 % 4
    match w.dev.bundle cl vu with
    | some b =>
      match b.waiting.named with
      | some (va, act) =>
        if b.sag ≠ s ∨ !mine va then w
        else match W.waitPlace { w with die := some (dieOf cl) } s va with
          | (.ok (some (near, pa)), w) => w.modBundle cl vu fun b => { b with waiting := b.waiting.at near pa }
          | (.ok none, w) => w
          | (.error f, w) => w.faultBundle cl vu f.code.1 f.code.2 b.pc va act
      | none => w
    | none => w) w
  let w := (w.dev.sag s).saved.foldl (fun w x =>
    match x.bundle.waiting.named with
    | some (va, act) =>
      if !mine va then w
      else match W.waitPlace { w with die := some (dieOf x.cl) } s va with
        | (.ok (some (near, pa)), w) => w.modSag s fun g =>
            { g with saved := g.saved.map fun y =>
                if y.cl = x.cl ∧ y.vu = x.vu then { y with bundle := { y.bundle with waiting := y.bundle.waiting.at near pa } } else y }
        | (.ok none, w) => w
        | (.error f, w) => w.faultSaved s x f.code.1 f.code.2 va act
    | none => w) w
  { w with was := w.mem, skip := w.ws.length }

/-- Steps 4 and 5 of R214: a page within this chip is copied at once, then the leaf is rewritten and the page invalidated. -/
def W.moveCopy (w : W) (s : Nat) (m : Move) : W :=
  let w := match leafSpace m.old.toNat, leafSpace m.new.toNat with
    | some (f, a), some (t, b) => if m.onChip then w.copyPage f a t b (2 ^ pageBits m.level) else w
    | _, _ => w
  let w := (w.store .hbm m.slotAddr (leBytes 8 m.new.toNat)).invalidate s m.va (pageBits m.level)
  w.redoDoms s

/-- Go on with a move whose parts are accessed at two places: copy a page within the chip, ask for the next part of another, or
end when every part has arrived. -/
def W.moveStep (w : W) (s : Nat) (m : Move) (p : Place) : W :=
  let w := m.doms.foldl W.touch w
  if !m.onChip ∧ m.asked < 2 ^ pageBits m.level then w.moveGet s m p
  else if m.out ≠ 0 then w
  else (((w.moveCopy s m).moveEnd s 0x50).waitsAnew s fun va => va / 2 ^ pageBits m.level == m.va / 2 ^ pageBits m.level).release

/-- Whether a line of the page in error cannot be carried to its new place, which keeps no such state (R215, log entry 32). -/
def W.moveLoses (w : W) (m : Move) : Bool :=
  match leafSpace m.old.toNat with
  | some (f, a) => !m.onChip && w.mem.inError f a (2 ^ pageBits m.level)
  | none => false

/-- What the error-correcting code finds in the page that a move copies (R211). -/
def W.moveFinds (w : W) (m : Move) : W :=
  match leafSpace m.old.toNat with
  | some (f, a) => w.findAll f a
  | none => w

/-- PAGE_MOVE_DONE (R210, R214, R215): the move goes on as far as it can. `srcBad` and `dstBad` say that the source read, or the write
at the new place, failed; a request to the host or another chip that fails says the same of its end. -/
def execPageMoveDone (s : Fin 128) (srcBad : Found Bool) (dstBad : Bool) : State → Res := actMem fun w =>
  let w := w.bring srcBad.ecc
  match (w.dev.mpage s).mv with
  | none => w
  | some m =>
    match m.doms.filter fun n => (w.dev.dom n).cur ≠ .offline && !w.dev.admits n with
    | n :: t => (n :: t).foldl (fun w n => w.raiseWake n true) w
    | [] =>
      if w.dev.moveWaits s m then w
      else
        let off := min m.asked (2 ^ pageBits m.level - moveChunk)
        let (src, w) := w.moveAcc s m.old.toNat off moveChunk true
        let (dest, w) := w.moveAcc s m.new.toNat off moveChunk false
        let w := w.moveFinds m
        let stop := if srcBad.of ∨ w.moveLoses m ∨ src.fails then some 0x53 else if dstBad ∨ dest.fails then some 0x54 else m.bad
        match stop, src, dest with
        | some code, _, _ => (w.moveEnd s code).release
        | none, .asleep d, _ | none, _, .asleep d => w.raiseWake d true
        | none, .ok p, .ok _ => w.moveStep s m p
        | none, _, _ => w

/-- INVALIDATION_DONE (R210): not while a page move of the saggar is in progress. The domains that its descriptors touch, and the
words that its bundles wait on in the range, follow the tables (R177, R243; log entry 32). -/
def execInvalidationDone (s : Fin 128) : State → Res := actMem fun w =>
  match (w.dev.mpage s).inv, (w.dev.mpage s).mv with
  | some i, none =>
    let k := 2 ^ invBits i.size
    ((((w.invalidate s i.va (invBits i.size)).modMem s fun p => { p with inv := none }).redoDoms s).waitsAnew s fun va =>
      va % 2 ^ 48 / k == i.va % 2 ^ 48 / k)
  | _, _ => w

/-- Whether a saggar has an access in flight that its tables have translated already: a page move; at the host, at another chip, or for
another chip on its behalf (R217). -/
def Dev.translatedOut (d : Dev) (s : Nat) : Bool :=
  (d.mpage s).mv.isSome || (d.fab.ops.any fun o => o.sag == s) ||
  d.pci.reads.any fun r => match r.use with
    | .load x _ _ _ => (match d.bundle x.cl x.vu with | some b => b.sag == s | none => false)
    | .dma q _ _ _ => q / 2 == s
    | .fetch q _ => q / 2 == s
    | .launch x _ => x == s
    | .remote _ k => (pktOf k).tsag == s
    | .move x _ _ => x == s
    | .crv _ _ => false

/-- MEM_COMMIT_DONE (R217, R483): the set is in force everywhere, once every cluster outside its range is given up, no switch brings one in,
and the accesses already translated have completed. Waits are translated anew, and the domains of its descriptors follow (R177, R243). -/
def execMemCommitDone (s : Fin 128) : State → Res := actMem fun w =>
  let p := w.dev.mpage s
  let outside := w.dev.cmp.clusters.any fun c =>
    (c.2.owner == some s.val || (match c.2.switching with | some k => k.into == some s.val | none => false)) &&
      !(p.next.lo.toNat ≤ c.1 && c.1 ≤ p.next.hi.toNat)
  if p.pend ∧ !outside ∧ !w.dev.translatedOut s ∧ w.dev.genOpen w.dev.cmp.memGenAt then
    ((((w.modMem s fun p => { p with cur := p.next, pend := false, genv := p.genv + 1, tlb := [] }).modCmp fun c =>
      { c with memGenAt := some w.dev.now }).redoDoms s).waitsAnew s fun _ => true)
  else w

end Sys2Proof.Machine
end

