-- ==== Sys2Proof/Machine/D2d.lean ====
section
/-!
DEFINITION. Failed die-to-die links (R462).
-/
namespace Sys2Proof.Machine

/-- The accesses of bundles that still wait, and the records that do, can be performed no more: the accesses end POISONED, the
records are lost (R462, log entry 40). -/
def W.endWaiting (w : W) : W :=
  let recs := w.dev.cmp.recs
  recs.foldl W.recEnded ((w.poisonHeld fun _ => true).modCmp fun c => { c with recs := [] })

/-- The die-to-die link of a die to the hub has failed (R462): every channel over it is poisoned, the chip enters FAILED at once, so
no operation under way completes and each ends with POISONED (log entry 40), every saggar is killed, an ended page move releases its
held accesses (R215), and the chip leaves its slice, which ends its collectives (R377). The reports come first, then the poison entries,
then the log's entries in the order of their sources, that of the state that is entered first of all (R466, R472, R479). -/
def W.cutDie (w : W) (link : Nat) : W := w.eventsFirst fun w =>
  let w := (List.range 277).foldl (fun w n => if n < 256 ∨ 269 ≤ n then w.abortWork n 0x12 else w) w
  let w := (List.range 128).foldl (fun w s => w.poison s 2 0 0 link 1) w
  let w := (List.range 128).foldl (fun w s => if (w.dev.sag s).st = .off then w else w.sagKill s) w
  (w.release.leaveSlice.endWaiting.event 0x0303 (srcOf 7 link) none [(4, 128)]).enterFailed 1

/-- Whether accesses of a cluster for a saggar need the failed link C0–C1. -/
def W.crosses (w : W) (cl s : Nat) (ranges : List (Use × Nat × Nat)) : Bool :=
  let w : W := { w with die := some (dieOf cl) }
  ranges.any fun x => (piecesOf x.2.1 x.2.2).any fun p => (w.access s p.1 p.2 x.1).1 == .cut

/-- End the tensor operation at the head of a cluster's queue where it needs the failed link C0–C1 (R457, R462). -/
def W.cutTensor (w : W) (cl : Nat) : W :=
  match (w.dev.cl cl).tq with
  | t :: _ =>
    let c := tcmdOf t.cmd
    let s := t.who.sag
    w.afterReports [.record (.tensor cl)] fun w =>
    if c.op = 1 ∧ w.crosses cl s (tmmaRanges c) then (w.tmmaFails cl t c 0x12).afterFail s .cut
    else if c.op = 2 ∧ t.fail = none ∧ w.crosses cl s (treadAccesses c (epiOf (t.cmd.drop 64))) then
      ((w.dropBatches cl fun j => match j with | .batch tq id _ => tq && id == t.id | _ => false).treadFails cl t c 0x12).afterFail s .cut
    else w
  | [] => w

/-- End a running row operation where it needs the failed link C0–C1 (R457, R462). -/
def W.cutRow (w : W) (o : RowOp) : W :=
  let c := rcmdOf o.cmd
  if o.started && w.crosses o.who.cl o.who.sag (rowRanges c (rparOf (o.cmd.drop 64))) then
    w.afterReports [.record o.who.rows] fun w => (w.endRow o 0x12).afterFail o.who.sag .cut
  else w

/-- Saggars whose channel over C0–C1 is poisoned. -/
def Dev.cutSags (d : Dev) : List Nat :=
  (List.range 128).filter fun s => ((d.sag s).poison ++ (d.sag s).owed).any fun x => x.kind == 2 && x.unit == 2

/-- The link C0–C1 has failed (R457, R462): operations under way that need it end with POISONED and poison their saggars'
channels on it; held accesses that need it do so as they are tried again. -/
def W.cutCross (w : W) : W :=
  let before := w.dev.cutSags
  let w := ((w.dev.cmp.clusters.map Prod.fst).foldl W.cutTensor w)
  let w := w.dev.cmp.rowOps.foldl W.cutRow w
  let w := w.release
  w.afterReports (w.dev.cmp.recs.filterMap fun r => r.queue.map .record) fun w =>
    w.event 0x0303 (srcOf 7 2) none [(4, (w.dev.cutSags.filter fun s => !before.contains s).length)]

/-- D2D_LINK_FAIL (R462): links C0–H, C1–H and C0–C1. -/
def execD2dLinkFail (link : Fin 3) : State → Res := actMem fun w =>
  if w.dev.start.state ≠ .ready ∨ w.dev.hub.d2dDead.getLsbD link then w
  else
    let m := BitVec.ofNat 3 (2 ^ link.val)
    let w := w.modHub fun h => { h with d2dFail := h.d2dFail ||| m, d2dUp := h.d2dUp &&& ~~~m, d2dDead := h.d2dDead ||| m }
    if link.val = 2 then w.cutCross else w.cutDie link

end Sys2Proof.Machine
end

