-- ==== Sys2Proof/Machine/FabPkt.lean ====
section
/-!
DEFINITION. Sequenced packets at their destination and at their source (R200, R201, R340–R345): WRITE, READ, ATOMIC, RESP,
ACK, CLOSE and CLOSED, resends, failure and close of streams.
-/
namespace Sys2Proof.Machine

/-- Answer a request with a RESP, in a stream of the responder (R340, R342; log entry 33). -/
def W.sendResp (w : W) (vc : Nat) (k : Pkt) (status cause : Nat) (data : List Byte) : W :=
  let (id, w) := w.newId
  let (key, w) := w.streamFor k.tsag k.src vc
  w.streamSend key id (w.dev.mkPkt 4 k.src k.ssag k.tsag 0 0 (status * 2 ^ 24 + cause) k.seq data false)

/-- The checks of a request at its destination (R200, R201, R514): the places of its pieces, a cause, or not now. -/
inductive Target where
  | places (l : List (Nat × Nat × Place))
  | cause (c : Nat)
  | notNow
  deriving DecidableEq, Repr

def W.target (w : W) (s : Nat) (u : Use) : List (Nat × Nat) → List (Nat × Nat × Place) → Target × W
  | [], acc => (.places acc.reverse, w)
  | (a, n) :: t, acc =>
    match w.localAcc s a n u true true with
    | (.ok p, w) => W.target w s u t ((a, n, p) :: acc)
    | (.fault f, w) => (.cause f.memCause, w)
    | (.asleep d, w) => (.notNow, w.raiseWake d true)
    | (_, w) => (.notNow, w)

/-- Write a run of a WRITE at its place. -/
def W.targetWrite (w : W) (p : Place) (l : List Byte) : W :=
  match p with
  | .reg t o => w.viewWrite t o l
  | p => w.putPlace p l

/-- WRITE at its destination. -/
def W.performWrite (w : W) (vc : Nat) (k : Pkt) : W × Bool :=
  match w.target k.tsag (.store k.data.length) (piecesOf k.addr k.data.length) [] with
  | (.notNow, w) => (w, false)
  | (.cause c, w) => (w.sendResp vc k 0x11 c [], true)
  | (.places l, w) =>
    let w := l.foldl (fun w x => w.targetWrite x.2.2 ((k.data.drop (x.1 - k.addr)).take x.2.1)) w
    (w.sendResp vc k 0 0 [], true)

/-- The bytes of a READ, from register or memory places. -/
def W.targetRead (w : W) (l : List (Nat × Nat × Place)) : List Byte × W :=
  l.foldl (fun acc x =>
    match x.2.2 with
    | .reg t o =>
      let (v, w) := acc.2.regRead (acc.2.dev.regRef (.reg (Fin.ofNat 128 t)) o)
      (acc.1 ++ leBytes 4 v, w)
    | .host _ _ =>
      let (b, w) := acc.2.drawBytes x.2.1
      (acc.1 ++ b, w)
    | p => (acc.1 ++ acc.2.getPlace p x.2.1, acc.2)) ([], w)

/-- READ at its destination. A HOST leaf accepts loads and stores (R204), and only atomics there are refused (R211): the chip reads
host memory itself and answers with a RESP of its own when the data has come, while the link is down with open bytes. R24 lets no path
forward traffic between host link and fabric; that these accesses, which the target performs itself (R200), are none of that is
DEDUCED (log entry 40). -/
def W.performRead (w : W) (vc : Nat) (k : Pkt) : W × Bool :=
  let n := k.arg
  if n = 0 ∨ 128 < n then (w, true)
  else
    match w.target k.tsag (.load n) (piecesOf k.addr n) [] with
    | (.notNow, w) => (w, false)
    | (.cause c, w) => (w.sendResp vc k 0x11 c [], true)
    | (.places [(_, _, .host t h)], w) =>
      if !w.dev.pci.up then
        let (b, w) := w.drawBytes n
        (w.sendResp vc k 0 0 b, true)
      else if w.dev.tagFree then (w.hostRead (w.dev.fnOf t) h n (.remote vc k.bytes) true, true)
      else (w, false)
    | (.places l, w) =>
      let (b, w) := w.targetRead l
      (w.sendResp vc k 0 0 b, true)

/-- ATOMIC at its destination: the operation and its operands from the packet (R180, R340). A reserved operation, size or
alignment is performed with no effect (log entry 33). -/
def W.performAtomic (w : W) (vc : Nat) (k : Pkt) : W × Bool :=
  let n := if bit k.arg 4 then 8 else 4
  match amoCodes[bits k.arg 3 0]? with
  | none => (w, true)
  | some op =>
    let v := leAt k.data 0 n
    let c := leAt k.data n n
    if (op = .fadd ∧ n = 8) ∨ k.addr % n ≠ 0 then (w, true)
    else match w.target k.tsag (.amo n (amoReads op) (amoWrites op)) [(k.addr, n)] [] with
      | (.notNow, w) => (w, false)
      | (.cause c, w) => (w.sendResp vc k 0x11 c [], true)
      | (.places ((_, _, p) :: _), w) =>
        let (old, w) := w.amoAt p op n v c
        (w.sendResp vc k 0 0 (if amoReads op then leBytes n old else []), true)
      | (.places [], w) => (w, true)

/-- A remote operation ends with a cause of its target (R201, R211): a thread's takes a MEM fault, a record fills
MEM.LASTF. -/
def W.remoteCause (w : W) (o : RemoteOp) (cause : Nat) : W :=
  let c := if cause < 0x80 then 0x80 + cause else cause
  let at_ (x : At) : W := (w.memDone x).faultBundle x.cl x.vu 3 c x.pc o.addr.toNat x.act
  match o.use with
  | .load x _ _ _ => at_ x
  | .amo x _ _ => at_ x
  | .store x => at_ x
  | .record => w.lastFault o.sag c o.addr.toNat
  | .move s id _ rd => w.moveFailed s id (if rd then 0x53 else 0x54)

/-- A remote operation ends with its data. -/
def W.remoteDone (w : W) (o : RemoteOp) (data : List Byte) : W :=
  match o.use with
  | .load x a lane off => (w.patchLoad x a lane off data).memDone x
  | .amo x a lane =>
    (if data = [] then w
     else w.modBundle x.cl x.vu fun b => b.setAmo a.dst lane a.size64 (leVal data)).memDone x
  | .store x => w.memDone x
  | .record => w
  | .move s id off rd => if rd then w.moveArrive s id off data else w.moveAnswered s id

/-- RESP at the source of its request (R340, R343). -/
def W.performResp (w : W) (vc : Nat) (k : Pkt) : W × Bool :=
  let mine (o : RemoteOp) : Bool := o.sag == k.tsag && o.chip == k.src && o.vc == vc && o.seq == some (BitVec.ofNat 32 k.rseq)
  match w.dev.fab.ops.find? mine with
  | none => (w, true)
  | some o =>
    let w := w.modFab fun f => { f with ops := f.ops.filter fun x => x.id ≠ o.id }
    ((if bits k.arg 31 24 = 0 then w.remoteDone o k.data else w.remoteCause o (bits k.arg 7 0)).retryHeld, true)

/-- Perform a sequenced packet at its destination, if it can be performed now. -/
def W.performPkt (w : W) (vc : Nat) (k : Pkt) : W × Bool :=
  match k.ptype with
  | 1 => w.performWrite vc k
  | 2 => w.performRead vc k
  | 3 => w.performAtomic vc k
  | _ => w.performResp vc k

/-- The receiving stream of a packet (R343). -/
def RecvStream.is (r : RecvStream) (k : Pkt) (vc : Nat) : Bool := r.src == k.src && r.ssag == k.ssag && r.vc == vc

def W.modRecv (w : W) (k : Pkt) (vc : Nat) (f : RecvStream → RecvStream) : W :=
  w.modFab fun x => { x with recvs := x.recvs.map fun r => if r.is k vc then f r else r }

/-- Acknowledge a stream up to a sequence number (R340, R343). -/
def W.sendAck (w : W) (k : Pkt) (vc : Nat) (seq : Word) : W :=
  w.emit 7 (w.dev.mkPkt 5 k.src k.ssag k.tsag seq.toNat 0 vc 0 [] false)

/-- Perform the packets held next in order (R343). -/
def W.drainHeld : Nat → W → Pkt → Nat → W
  | 0, w, _, _ => w
  | n + 1, w, k, vc =>
    match w.dev.fab.recvs.find? fun r => r.is k vc with
    | none => w
    | some r =>
      match r.held.find? fun x => x.1 == r.e with
      | none => w
      | some x =>
        match w.performPkt vc (pktOf x.2) with
        | (w, true) =>
          W.drainHeld n (w.modRecv k vc fun r => { r with e := r.e + 1, held := r.held.filter fun y => y.1 ≠ x.1 }) k vc
        | (w, false) => w

/-- A sequenced packet in a stream that is known (R343). -/
def W.inStream (w : W) (vc : Nat) (k : Pkt) (r : RecvStream) : W × Bool :=
  let seq := BitVec.ofNat 32 k.seq
  let d := (seq - r.e).toNat
  if d = 0 then
    match w.performPkt vc k with
    | (w, true) =>
      let w := w.modRecv k vc fun r => { r with e := r.e + 1, held := r.held.filter fun y => y.1 ≠ seq }
      let w := W.drainHeld 257 w k vc
      (match w.dev.fab.recvs.find? fun r => r.is k vc with
       | some r => w.sendAck k vc (r.e - 1)
       | none => w, true)
    | (w, false) => (w, false)
  else if d ≤ 256 then
    (w.modRecv k vc fun r => { r with held := (r.held.filter fun y => y.1 ≠ seq) ++ [(seq, k.bytes)] }, true)
  else if d < 2 ^ 31 then (w.fabCnt 6 1, true)
  else (w.sendAck k vc (r.e - 1), true)

/-- A sequenced packet at its destination (R342, R343): up to 8,192 receiving streams; an open packet that finds no room
is discarded, and its source sends it again. -/
def W.recvSeq (w : W) (vc : Nat) (k : Pkt) : W × Bool :=
  match w.dev.fab.recvs.find? fun r => r.is k vc with
  | some r => w.inStream vc k r
  | none =>
    if !k.opn then (w.fabCnt 3 1, true)
    else if 8192 ≤ w.dev.fab.recvs.length then (w, true)
    else
      let r : RecvStream := ⟨k.src, k.ssag, vc, 0, []⟩
      (w.modFab fun f => { f with recvs := f.recvs ++ [r] }).inStream vc k r

/-- WRITE (R200, R343). -/
def execWrite (p : Fin 12) (vc : Found (Fin 8)) : State → Res := actMem fun w => (w.bring vc.ecc).recvPkt p vc.of 1 fun w k => w.recvSeq vc.of k

/-- READ (R200, R343). -/
def execRead (p : Fin 12) (vc : Found (Fin 8)) : State → Res := actMem fun w => (w.bring vc.ecc).recvPkt p vc.of 2 fun w k => w.recvSeq vc.of k

/-- ATOMIC (R180, R200, R343). -/
def execAtomic (p : Fin 12) (vc : Found (Fin 8)) : State → Res := actMem fun w => (w.bring vc.ecc).recvPkt p vc.of 3 fun w k => w.recvSeq vc.of k

/-- RESP (R343). -/
def execResp (p : Fin 12) (vc : Found (Fin 8)) : State → Res := actMem fun w => (w.bring vc.ecc).recvPkt p vc.of 4 fun w k => w.recvSeq vc.of k

/-- The sending stream of a channel (R342). -/
def Dev.sendStream (d : Dev) (k : Pkt) : Option SendStream :=
  d.fab.sends.find? fun s => s.ssag == k.tsag && s.dst == k.src && s.vc == bits k.arg 2 0

/-- ACK (R343, R344): the packets it covers are released. -/
def execAck (p : Fin 12) : State → Res := act fun w => w.recvPkt p 7 5 fun w k =>
  match w.dev.sendStream k with
  | some s =>
    (w.modSend s.key fun s =>
      { s with unacked := s.unacked.filter fun x => 2 ^ 31 ≤ (BitVec.ofNat 32 k.seq - x.seq).toNat }, true)
  | none => (w, true)

/-- CLOSE (R345): the destination frees the stream, with the packets it holds, and answers CLOSED. -/
def execClose (p : Fin 12) : State → Res := act fun w => w.recvPkt p 7 6 fun w k =>
  let vc := bits k.arg 2 0
  let w := w.modFab fun f => { f with recvs := f.recvs.filter fun r => !r.is k vc }
  (w.emit 7 (w.dev.mkPkt 7 k.src k.ssag k.tsag 0 0 vc 0 [] false), true)

/-- A stream's sending entry is freed (R342, R345): what waited on the channel opens a new stream, and streams that waited
for room open. -/
def W.freeSend (w : W) (s : SendStream) : W :=
  let w :=
    if s.waiting = [] then w.modFab fun f => { f with sends := f.sends.filter fun x => x.key ≠ s.key }
    else w.modSend s.key fun x => { x with next := 0, opened := false, unacked := [], closing := none, abandoned := false, doomed := false }
  (w.dev.fab.sends.filter fun x => x.waiting ≠ []).foldl (fun w x => w.streamFlush x.key) w

/-- CLOSED (R345). -/
def execClosed (p : Fin 12) : State → Res := act fun w => w.recvPkt p 7 7 fun w k =>
  match w.dev.sendStream k with
  | some s => if s.closing.isSome ∨ s.abandoned then (w.freeSend s, true) else (w, true)
  | none => (w, true)

/-- PACKET_RESEND_TIMER (R344): 1 ms after its last send, up to three times. -/
def execPacketResendTimer (key : Nat) (seq : Word) : State → Res := act fun w =>
  match w.dev.sendOf key with
  | some s =>
    match s.unacked.find? fun x => x.seq == seq with
    | some x => if x.last + 1000000 ≤ w.dev.now ∧ x.resends < 3 ∧ !s.abandoned ∧ !s.doomed then w.resendSeq key seq else w
    | none => w
  | none => w

/-- STREAM_FAILURE_DECLARED (R191, R344, R353, R361): the route or the membership has ended, also where both have come back since, or
1 ms has passed since a third resend; never sooner than 800 µs after the last send of any unacknowledged packet. A stream with nothing under way
fails too once its destination has left. -/
def execStreamFailureDeclared (key : Nat) : State → Res := act fun w =>
  match w.dev.sendOf key with
  | some s =>
    let spent := s.unacked.any fun x => match x.third with | some t => decide (t + 1000000 ≤ w.dev.now) | none => false
    let quiet := s.unacked.all fun x => decide (x.last + 800000 ≤ w.dev.now)
    if !s.abandoned ∧ quiet ∧ (spent ∨ s.doomed ∨ !w.dev.reachable s) then (w.failStream s).retryHeld else w
  | none => w

/-- STREAM_CLOSE (R345): everything acknowledged, nothing waited for, and nothing sent for 1 ms. -/
def execStreamClose (key : Nat) : State → Res := act fun w =>
  match w.dev.sendOf key with
  | some s =>
    if s.opened ∧ s.unacked = [] ∧ s.waiting = [] ∧ s.closing.isNone ∧ !s.abandoned ∧ !s.doomed ∧ s.lastAct + 1000000 ≤ w.dev.now then
      (w.modSend key fun x => { x with closing := some w.dev.now }).emit 7 (w.dev.closePkt s false)
    else w
  | none => w

/-- ABANDON_CLOSE_TIMER (R345): CLOSE again every 1 ms until CLOSED arrives or the destination leaves the slice. -/
def execAbandonCloseTimer (key : Nat) : State → Res := act fun w =>
  match w.dev.sendOf key with
  | some s =>
    if !s.abandoned then w
    else if !w.dev.fab.memberChips.contains (BitVec.ofNat 12 s.dst) then w.freeSend s
    else if s.lastAct + 1000000 ≤ w.dev.now then
      (w.modSend key fun x => { x with lastAct := w.dev.now }).emit 7 (w.dev.closePkt s true)
    else w
  | none => w

end Sys2Proof.Machine
end

