-- ==== Sys2Proof/Machine/HostDone.lean ====
section
/-!
DEFINITION. What comes back over the host link: completions, errors and timeouts of host reads (R237–R239, R242), translation
answers (R226); loss of the link and PERST# (R240, R448); function-level resets (R241, R512); the end of a table load (R121).
-/
namespace Sys2Proof.Machine

/-- The host read that carries a tag. -/
def Dev.hostReadOf (d : Dev) (tag : Nat) : Option HostRead := d.pci.reads.find? fun r => r.tag == tag

/-- A host read is outstanding no longer. -/
def W.endRead (w : W) (tag : Nat) : W := w.modPci fun p => { p with reads := p.reads.filter fun r => r.tag ≠ tag }

/-- One host read of a descriptor has ended. -/
def W.chunkHome (w : W) (q : Nat) (index : BitVec 16) : W := w.modDesc q index fun d => { d with waiting := d.waiting - 1 }

/-- Whether a descriptor still takes data. -/
def DmaQ.takes (x : DmaQ) (index : BitVec 16) : Bool := x.descs.any fun d => d.index == index && d.ended.isNone

/-- Data of a chunk whose source is the host (R233, R236): written to its destination, checked again there. A destination
that sleeps or moves holds the completion (R28, R214). -/
def W.dmaArrive (w : W) (r : HostRead) (q : Nat) (index : BitVec 16) (dst : Nat) (data : List Byte) : W :=
  let s := q / 2
  let fail (w : W) (cause : Nat) : W := (((w.endRead r.tag).chunkHome q index).lastFault s cause dst).endDesc q index 0x11 cause
  if !(w.dev.q q).takes index then (w.endRead r.tag).chunkHome q index
  else match w.blocked s (.dma true) [(dst, data.length)] with
    | some g => w.hold g
    | none =>
      match w.access s dst data.length (.dma true) with
      | (.ok p, w) =>
        if p.isHost then fail w 0x0C
        else ((w.endRead r.tag).putPlace p data).chunkHome q index
      | (.fault f, w) => fail w f.memCause
      | (_, w) => w

/-- A part of an image has come from the host (R121, R122): the rest is asked for once its length is known. -/
def W.crvArrive (w : W) (r : HostRead) (off : Nat) (data : List Byte) : W :=
  let w := w.endRead r.tag
  match w.dev.cmp.crv.busy with
  | some l =>
    let w := w.store .host (l.src.toNat + off) data
    let n := if l.asked < 64 then 64 else imageLen (w.mem.bytes .host l.src.toNat 64)
    if !crvOutstanding w.dev ∧ l.asked < n then w.crvAsk l l.asked n else w
  | none => w

/-- HOST_READ_COMPLETION (R225, R230, R237): the whole answer of one read, as long as the read asked for. -/
def execHostReadCompletion (tag : Nat) (data : List Byte) : State → Res := actMem fun w =>
  match w.dev.hostReadOf tag with
  | none => w
  | some r =>
    if data.length ≠ r.len then w
    else W.retryHeld <| match r.use with
      | .dma q index dst _ => w.afterReports [.desc q index] fun w => w.dmaArrive r q index dst data
      | .crv off _ => w.crvArrive r off data
      | .load x a lane off => ((w.endRead tag).patchLoad x a lane off data).memDone x
      | .launch s ring => (w.endRead tag).descTaken s ring data
      | .fetch q first =>
        if (w.dev.q q).reads.head?.any fun x => x.host && x.first == first then w.fetchReturn q .ok data else w
      | .remote vc k => (w.endRead tag).sendResp vc (pktOf k) 0 0 data
      | .move s id off => (w.endRead tag).moveArrive s id off data

/-- The error that a descriptor earns poisons its queue (R238, R242). -/
def W.descHostError (w : W) (q kind : Nat) (index : BitVec 16) : W := (w.noteHostError q kind index.toNat).failQueue q index false

/-- A host read ends with an error: of a descriptor or its fetch on the queue's channel (R238, R239), of a table load with
SOURCE_FAULT (R122), of a launch descriptor with its ring halted (R161), of a thread or another chip with open data (log
entry 34). -/
def W.readError (w : W) (r : HostRead) (kind : Nat) : W := W.retryHeld <|
  match r.use with
  | .dma q index _ _ =>
    let w := ((w.nonfatal r.fn).endRead r.tag).chunkHome q index
    if (w.dev.q q).descs.any fun d => d.index == index then w.descHostError q kind index
    else if (w.dev.q q).fail then w
    else (w.noteHostError q kind index.toNat).failRest q
  | .crv _ _ => w.crvSourceFault
  | .load x a lane off =>
    let (b, w) := ((w.nonfatal r.fn).endRead r.tag).drawBytes r.len
    (w.patchLoad x a lane off b).memDone x
  | .launch s ring => ((w.nonfatal r.fn).endRead r.tag).haltRing s ring 0x0F (((w.dev.thr s).ring ring).entryAddr ((w.dev.thr s).ring ring).cons.toNat)
  | .fetch q first => ((w.nonfatal r.fn).endRead r.tag).fetchFails q first (.host kind)
  | .remote vc k =>
    let (b, w) := ((w.nonfatal r.fn).endRead r.tag).drawBytes r.len
    w.sendResp vc (pktOf k) 0 0 b
  | .move s id _ => ((w.nonfatal r.fn).endRead r.tag).moveFailed s id 0x53

/-- The oldest descriptor of a queue in progress. -/
def DmaQ.oldest (x : DmaQ) : Option Desc := x.descs.find? fun d => d.started && d.ended.isNone

/-- HOST_SIDE_ERROR (R238, R242): on a read by its tag; on the data written for the descriptor that has a ring index, which may have
completed, or on the record of a queue's last one; a correctable error is counted and reported. -/
def execHostSideError (tag : Nat) (q : Fin 256) (kind : HostErr) : State → Res := act fun w =>
  if !w.dev.pci.up then w
  else match kind with
    | .read e =>
      match w.dev.hostReadOf tag with
      | some r => if e = .ok then w else w.readError r (hostErrKind e)
      | none => w
    | .write =>
      match (w.dev.q q).descs.find? fun d => d.started && d.index == BitVec.ofNat 16 tag with
      | some d => (w.nonfatal (w.dev.fnOf (q / 2))).descHostError q 2 d.index
      | none => ((w.nonfatal (w.dev.fnOf (q / 2))).noteHostError q 2 (tag % 65536)).failRest q
    | .record =>
      let last := (w.dev.q q).cons - 1
      ((w.nonfatal (w.dev.fnOf (q / 2))).noteHostError q 3 last.toNat).failRest q
    | .correctable => (w.modPci fun p => { p with correctable := satBv p.correctable 1 }).out (.err (w.dev.fnOf (q / 2)) 0)

/-- HOST_COMPLETION_TIMEOUT (R238): a read has waited for the function's completion timeout. -/
def execHostCompletionTimeout (tag : Nat) : State → Res := act fun w =>
  match w.dev.hostReadOf tag with
  | some r => if r.since + (w.dev.fn r.fn).timeout ≤ w.dev.now then w.readError r 1 else w
  | none => w

/-- The cause of a MEM_FAULT that the manual names none for (R226): an open one of those that are not reserved (R211, log entry
34). -/
def W.drawCause (w : W) : Nat × W :=
  let (n, w) := w.draw
  (1 + (Config.openByte n).toNat % 15, w)

/-- The source address of the part of a copy that goes to an address (R233). -/
def DmaQ.sourceOf (x : DmaQ) (index : BitVec 16) (dst : Nat) : Nat :=
  match x.descs.find? fun d => d.index == index with
  | some d => (dmaCmdOf d.bytes).src + (dst - (dmaCmdOf d.bytes).dst)
  | none => 0

/-- A read whose page gives it no access ends with MEM_FAULT (R226), at the address that the access has named (R211). -/
def W.readDenied (w : W) (r : HostRead) : W :=
  let (c, w) := w.drawCause
  let w := w.endRead r.tag
  match r.use with
  | .dma q index dst _ =>
    let w := w.chunkHome q index
    if (w.dev.q q).takes index then (w.lastFault (q / 2) c ((w.dev.q q).sourceOf index dst)).endDesc q index 0x11 c else w
  | .crv _ _ => w
  | .load x a lane off =>
    ((w.memDone x).faultBundle x.cl x.vu 3 c x.pc (runAddr a x.act lane off) x.act).retryHeld
  | .launch s ring => w.haltRing s ring c (((w.dev.thr s).ring ring).entryAddr ((w.dev.thr s).ring ring).cons.toNat)
  | .fetch q first => w.fetchFails q first (.fault c)
  | .remote vc k => w.sendResp vc (pktOf k) 0x11 c []
  | .move s id _ => w.moveFailed s id 0x53

/-- The reads of a function that wait for the translation of a page. The reads of a table image are untranslated and
concern no answer (R122). -/
def Dev.readsOf (d : Dev) (fn page : Nat) : List HostRead :=
  d.pci.reads.filter fun r => r.fn == fn && r.addr / 4096 == page && (match r.use with | .crv _ _ => false | _ => true)

/-- Hold a translation (R226): 4,096 entries, the oldest making room. -/
def Pci.cache (p : Pci) (e : AtcEntry) : Pci :=
  let l := p.atc.filter fun x => !(x.fn == e.fn && x.page == e.page)
  { p with atc := (if l.length < 4096 then l else l.drop 1) ++ [e] }

/-- The descriptors in progress that have written a host page whose translation they asked for (R226): queue, ring index and the address
written. -/
def Dev.writesOf (d : Dev) (fn page : Nat) : List (Nat × BitVec 16 × Nat) :=
  ((List.range 256).filter fun q => d.fnOf (q / 2) == fn).flatMap fun q =>
    (d.q q).descs.flatMap fun x =>
      if x.started && x.ended.isNone then (x.asked.filter fun a => a.1 == page).map fun a => (q, x.index, a.2) else []

/-- The translation of a page is not asked for any longer. -/
def W.askedDone (w : W) (fn page : Nat) : W :=
  (w.dev.writesOf fn page).foldl (fun w x => w.modDesc x.1 x.2.1 fun d => { d with asked := d.asked.filter fun a => a.1 ≠ page }) w

/-- A host write to a page that gives no access ends its descriptor with MEM_FAULT, with an open cause (R226, log entry 34). -/
def W.writeDenied (w : W) (x : Nat × BitVec 16 × Nat) : W :=
  let (c, w) := w.drawCause
  if (w.dev.q x.1).takes x.2.1 then (w.lastFault (x.1 / 2) c x.2.2).endDesc x.1 x.2.1 0x11 c else w

/-- ATS_TRANSLATION_COMPLETION (R226): the answer to a request of a function for a page. -/
def execAtsTranslationCompletion (fn : Fin 65) (page : DWord) (res : AtsEnd) : State → Res := act fun w =>
  let n := page.toNat / 4096
  if !w.dev.pci.atsReqs.contains (fn.val, n) then w
  else
    let w := w.modPci fun p => { p with atsReqs := p.atsReqs.erase (fn.val, n) }
    let reads := w.dev.readsOf fn n
    let writes := w.dev.writesOf fn n
    let w := w.askedDone fn n
    match res with
    | .page host r wr =>
      let w := if r || wr then w.modPci fun p => p.cache ⟨fn, n, host, r, wr⟩ else w
      let w := if r then w else reads.foldl W.readDenied w
      if wr then w else writes.foldl W.writeDenied w
    | .noAccess => writes.foldl W.writeDenied (reads.foldl W.readDenied w)
    | .error =>
      let w := reads.foldl (fun w r => if (w.dev.hostReadOf r.tag).isSome then w.readError r 0 else w) w
      writes.foldl (fun w x => (w.nonfatal fn).descHostError x.1 0 x.2.1) w

/-- Whether any page of an end of a descriptor in progress lies in host memory. -/
def W.descOnHost (w : W) (q : Nat) (d : Desc) : Bool :=
  let c := dmaCmdOf d.bytes
  let host (a : Nat) (u : Use) : Bool := (piecesOf a c.len).any fun p =>
    match (w.access (q / 2) p.1 1 u).1 with | .ok (.host _ _) => true | _ => false
  d.started && d.ended.isNone && c.op ≠ 3 && (host c.dst (.dma true) || (c.op == 1 && host c.src (.dma false)))

/-- Whether a queue has a host-side request in flight (R240). -/
def W.queueOnHost (w : W) (q : Nat) : Bool :=
  (w.dev.pci.reads.any fun r => r.use.queue? == some q) || (w.dev.q q).descs.any fun d => w.descOnHost q d

/-- A loss of the link on a queue (R240, R242): its fetches fail, its descriptors end with POISONED, and no record of theirs
reaches host memory. Its entry names the reads in flight as failed, or else the writes (DESIGN CHOICE, log entry 34). -/
def W.queueLost (w : W) (q : Nat) : W :=
  let reading := w.dev.pci.reads.any fun r => r.use.queue? == some q
  let fetching := w.dev.pci.reads.any fun r => r.use.fetches q
  let first : BitVec 16 := match (w.dev.q q).oldest with | some d => d.index | none => (w.dev.q q).fetch
  let w := (w.nonfatal (w.dev.fnOf (q / 2))).noteHostError q (if reading then 0 else 2) first.toNat
  let w := if fetching then ((w.modQ q fun x => { x with fetchFail := true, reads := [] }).poison (q / 2) 1 0 0 q 1).haltFetch q 0xFF else w
  let w := match (w.dev.q q).oldest with
    | some d => w.failQueue q d.index true
    | none => w.failRest q
  w.modQ q fun x => { x with descs := x.descs.map fun d => { d with norec := true, waiting := 0, asked := [] } }

/-- A host read of no queue meets a loss of the link. -/
def W.readLost (w : W) (r : HostRead) : W :=
  if r.use.queue?.isNone ∧ (w.dev.hostReadOf r.tag).isSome then w.readError r 0 else w

/-- The host link is lost (R240, R250, R273, R512): kind 0 down, 1 hot reset, 2 loss of the data link layer. PCI.LSTAT.slow stays until a
retrain reaches 16.0 GT/s (R222). -/
def W.linkLoss (w : W) (kind : Nat) : W :=
  if !w.dev.pci.up then w
  else
    let qs := (List.range 256).filter w.queueOnHost
    let w := qs.foldl W.queueLost w
    let w := w.dev.pci.reads.foldl W.readLost w
    let w := w.modPci fun p =>
      { p with up := false, reads := [], atc := [], atsReqs := [], held := p.held.filter fun h => !h.byHost }
    let lost := qs.flatMap fun q => ((w.dev.q q).descs.filter fun d => d.ended.isSome && !d.norec).map fun d => .desc q d.index
    (w.afterReports lost fun w => w.event 0x0402 (srcOf 13 0) none [(4, kind), (4, qs.length)]).ringReset.freeClaims 3

/-- PCIE_LINK_DOWN (R240, R250): a surprise link down, or a loss of the data link layer. -/
def execPcieLinkDown (dll : Bool) : State → Res := act fun w => w.linkLoss (if dll then 2 else 0)

/-- HOT_RESET (R240, R250, R273). -/
def execHotReset : State → Res := act fun w => w.linkLoss 1

/-- PERST_ASSERT (R448): the host link is held in reset; after READY the deassertion will cause a warm reset. -/
def execPerstAssert : State → Res := act fun w =>
  if w.dev.pci.perst then w
  else
    let w := (w.linkLoss 0).modPci fun p => { p with perst := true }
    w.modStart fun s => { s with perstPend := s.state == .ready }

/-- PERST_DEASSERT (R447, R448). -/
def execPerstDeassert : State → Res := act fun w =>
  let goes := w.dev.pci.perst && w.dev.start.perstPend
  let w := w.modPci fun p => { p with perst := false }
  if goes then w.modStart fun s => { s.ask 0x06 with perstPend := false } else w

/-- Steps 1 and 2 of a function-level reset for one saggar (R241): its queues stop, their descriptors end without a record,
the saggar is killed. -/
def W.flrStop (w : W) (s : Nat) : W :=
  let stop (w : W) (q : Nat) : W := w.modQ q fun x => { x with descs := [], reads := [] }
  let w := stop (stop w (2 * s)) (2 * s + 1)
  let w := w.modPci fun p => { p with reads := p.reads.filter fun r => match r.use with | .fetch q _ => q / 2 ≠ s | _ => true }
  if (w.dev.sag s).st = .off ∨ (w.dev.sag s).st = .killing then w else w.sagKill s

def W.flrMark (w : W) (fn : Nat) (on : Bool) : W :=
  w.modPci fun p => { p with fns := Tab.put p.fns fn { Tab.look PciFn.reset p.fns fn with flr := on } }

/-- The saggars that a reset of a function takes (R241): the mapped one, or all. -/
def Dev.flrSags (d : Dev) (fn : Nat) : List Nat :=
  if fn = 0 then List.range 128
  else
    let m := Tab.look 0 d.pci.vfmap (fn - 1)
    if d.pci.vfEnable && m.getLsbD 7 then [m.toNat % 128] else []

/-- FLR_VF (R241, R445). -/
def execFlrVf (v : Fin 64) : State → Res := act fun w =>
  let fn := vfFn v
  w.configReq fn fun w => if !w.dev.pci.vfEnable then w else (w.dev.flrSags fn).foldl W.flrStop (w.flrMark fn true)

/-- FLR_PF (R241, R250). -/
def execFlrPf : State → Res := act fun w =>
  w.configReq 0 fun w => ((w.dev.flrSags 0).foldl W.flrStop (w.flrMark 0 true)).ringReset

/-- The view of a saggar takes its reset values (R241 step 3, R512): the cumulative counters, saved work on slots, HBM3E
window, save area and near-store sectors are kept. -/
def W.viewReset (w : W) (s : Nat) : W :=
  let w := w.modSag s fun g => { Sag.reset with csat := g.csat, cflush := g.cflush, savedSlots := g.savedSlots }
  let w := (w.modThr s fun _ => .reset).modNum s fun _ => .reset
  let w := (w.modCpage s fun _ => .reset).modCmp fun c =>
    { c with clusters := Tab.mapV (fun _ x => if x.owner = some s then { x with bank := .none, bankPend := false } else x) c.clusters }
  let keep (m : MemSet) : MemSet := { m with root := 0, gvc := 0 }
  let w := w.modMem s fun m => { MemPage.reset with staged := keep m.staged, next := keep m.next, cur := keep m.cur }
  let w := (w.modQ (2 * s) fun _ => .reset).modQ (2 * s + 1) fun _ => .reset
  match w.dev.vfOf s with
  | some v => w.modPci fun p => { p with vecs := p.vecs.filter fun x => x.1 / 512 ≠ v + 1 }
  | none => w

/-- Whether steps 1 to 3 of a reset have come to their end for a saggar (R241). -/
def Dev.flrReady (d : Dev) (s : Nat) : Bool :=
  (d.sag s).st == .off && !(d.cpage s).pend && !(d.mpage s).pend && (d.mpage s).mv.isNone && !(d.mpage s).mvWait && (d.mpage s).inv.isNone

/-- FLR_DONE (R241, R512): every request of the function, and with the physical function of every function, has ended; the reset
completes. -/
def execFlrDone (fn : Fin 65) : State → Res := act fun w =>
  let sags := w.dev.flrSags fn
  let mine (f : Nat) : Bool := fn.val == 0 || f == fn.val
  if !(w.dev.fn fn).flr ∨ !(sags.all w.dev.flrReady) ∨ (w.dev.pci.reads.any fun r => mine r.fn) ∨ (w.dev.pci.atsReqs.any fun a => mine a.1) then w
  else
    let w := (sags.foldl W.viewReset w).flrMark fn false
    if fn.val = 0 then (w.modPci fun p => { p with vfEnable := false }).freeClaims 3 else w

/-- CRV_LOAD_DONE (R121, R122, R441 step 11): a load ends; one from flash when the flash is free. A boot entry's end starts
the next one. -/
def execCrvLoadDone (res : HostEnd) : State → Res := act fun w =>
  match w.dev.cmp.crv.busy with
  | none => w
  | some l =>
    if l.flash ∧ w.dev.log.ops ≠ [] then w
    else
      let w := w.crvDone res
      match l.boot with
      | some i =>
        if w.dev.cmp.crv.busy.isNone then (w.bootEnded i w.dev.cmp.crv.code.toNat l.recipe l.slot).bootFrom 33 (i + 1) else w
      | none => w

end Sys2Proof.Machine
end

