-- ==== Sys2Proof/Machine/Vector.lean ====
section
/-!
DEFINITION. Vector arithmetic and conversion (R40–R44, R52–R58, R515), and undefined instructions (R171).
-/
namespace Sys2Proof.Machine

/-- An element's result: the code written, its flags, and whether RELAXED replaced it (R44). -/
structure VecRes where
  code : Nat
  flags : Flags
  flushed : Bool
  deriving DecidableEq, Repr

/-- Round a floating result into the operation's format; in RELAXED a subnormal result becomes the zero of its sign,
raising underflow and inexact (R40–R44). -/
def vecRound (relaxed : Bool) (f : Fmt) (rm : RMode) (x : Val) (nv dz : Bool) : VecRes :=
  let r := f.round rm x
  let fl := r.flags.or ⟨nv, dz, false, false, false⟩
  if relaxed && f.isSub r.val then ⟨f.signCode r.val.sign 0, fl.or ⟨false, false, false, true, true⟩, true⟩
  else ⟨r.code, fl, false⟩

/-- The floating operations (R40, R41). Whether the sum of zero times infinity and a quiet NaN signals invalid is left to
the implementation by IEEE 754-2019 (log entry 1). -/
def vecFloat (relaxed : Bool) (op : VecOp) (f : Fmt) (rm : RMode) (a b c : Nat) : VecRes :=
  let x := relaxIn relaxed f (f.decode a)
  let y := relaxIn relaxed f (f.decode b)
  let z := relaxIn relaxed f (f.decode c)
  match op with
  | .fadd => let r := Val.addX rm x y; vecRound relaxed f rm r.1 r.2 false
  | .fsub => let r := Val.subX rm x y; vecRound relaxed f rm r.1 r.2 false
  | .fmul => let r := Val.mulX x y; vecRound relaxed f rm r.1 r.2 false
  | .fdiv => let r := Val.divX x y; vecRound relaxed f rm r.1 r.2.1 r.2.2
  | .fsqrt => let r := Val.sqrtX x; vecRound relaxed f rm r.1 r.2 false
  | _ => let p := Val.mulX x y
         let r := Val.addX rm p.1 z
         let zq := z.isNaN && !z.isSig && !x.isSig && !y.isSig
         vecRound relaxed f rm r.1 ((p.2 && (!zq || Config.fmaInvalid)) || r.2 || z.isSig) false

/-- The floating comparisons of IEEE 754-2019 (R40): `feq`, `fne`, `fqlt`, `fqle` and `funord` are quiet, `fseq`, `fsne`,
`flt` and `fle` signal; the others are these with the operands exchanged or the mask complemented. -/
def vecFCmp (relaxed : Bool) (op : VecOp) (f : Fmt) (a b : Nat) : Bool × Flags :=
  let x := relaxIn relaxed f (f.decode a)
  let y := relaxIn relaxed f (f.decode b)
  let sig := x.isSig || y.isSig
  let anyNaN := x.isNaN || y.isNaN
  match op with
  | .feq => (Val.eqv x y, ⟨sig, false, false, false, false⟩)
  | .fne => (!Val.eqv x y, ⟨sig, false, false, false, false⟩)
  | .fseq => (Val.eqv x y, ⟨anyNaN, false, false, false, false⟩)
  | .fsne => (!Val.eqv x y, ⟨anyNaN, false, false, false, false⟩)
  | .fqlt => (Val.lt x y, ⟨sig, false, false, false, false⟩)
  | .fqle => (Val.le x y, ⟨sig, false, false, false, false⟩)
  | .flt => (Val.lt x y, ⟨anyNaN, false, false, false, false⟩)
  | .fle => (Val.le x y, ⟨anyNaN, false, false, false, false⟩)
  | _ => (anyNaN, ⟨sig, false, false, false, false⟩)

/-- The integer operations on 32-bit elements (R37: INT32 is the vector integer format; log entry 12). -/
def vecInt (op : VecOp) (a b : Word) : Word :=
  match op with
  | .iadd => a + b
  | .isub => a - b
  | .imul => a * b
  | .iand => a &&& b
  | .ior => a ||| b
  | .ixor => a ^^^ b
  | .imins => if a.slt b then a else b
  | .imaxs => if a.slt b then b else a
  | .iminu => if a.ult b then a else b
  | _ => if a.ult b then b else a

def vecICmp (op : VecOp) (a b : Word) : Bool :=
  match op with
  | .ieq => a == b
  | .ilts => a.slt b
  | _ => a.ult b

/-- What an operation is. -/
inductive VecKind where
  | float | fcmp | int | icmp
  deriving DecidableEq, Repr

def vecKind : VecOp → VecKind
  | .fadd | .fsub | .fmul | .fdiv | .fma | .fsqrt => .float
  | .feq | .fne | .fseq | .fsne | .flt | .fle | .fqlt | .fqle | .funord => .fcmp
  | .ieq | .ilts | .iltu => .icmp
  | _ => .int

/-- One element of an arithmetic instruction. -/
def vecElem (relaxed : Bool) (a : VecArgs) (f : Fmt) (src dst : Bundle) (i : Nat) : Bundle × Nat :=
  let x := src.elem a.a i
  let y := src.elem a.b i
  match vecKind a.op with
  | .float =>
    let r := vecFloat relaxed a.op f (RMode.ofField a.rm) (narrow f x) (narrow f y) (narrow f (src.elem a.c i))
    ((dst.setElem a.dst i (BitVec.ofNat 32 r.code)).raise (i / 4) r.flags, b2n r.flushed)
  | .fcmp =>
    let r := vecFCmp relaxed a.op f (narrow f x) (narrow f y)
    ((dst.setMaskBit a.mdst i r.1).raise (i / 4) r.2, 0)
  | .int => (dst.setElem a.dst i (vecInt a.op x y), 0)
  | .icmp => (dst.setMaskBit a.mdst i (vecICmp a.op x y), 0)

/-- All elements of the active lanes: sources are read before any result is written. -/
def vecAll (relaxed : Bool) (a : VecArgs) (f : Fmt) (src : Bundle) (act : BitVec 16) : Bundle × Nat :=
  (activeElems act).foldl (fun r i => let e := vecElem relaxed a f src r.1 i; (e.1, r.2 + e.2)) (src, 0)

/-- Whether the format suits the operation (R37): long formats for floating work, INT32 for integer work. -/
def vecFmtOk (op : VecOp) (f : Fmt) : Bool :=
  match vecKind op with
  | .float | .fcmp => f.isLong
  | _ => f == .i32

/-- VECTOR_ARITHMETIC (R40–R44). A reserved format, or one outside its role, makes the instruction undefined: ILLEGAL
(R171; log entry 13). -/
def execVectorArithmetic (at_ : At) (a : VecArgs) : State → Res := act fun w =>
  w.instrR at_ [a.dst, a.a, a.b, a.c] fun w b act =>
    match Fmt.ofCode a.fmt with
    | some f =>
      if vecFmtOk a.op f then
        let r := vecAll (w.dev.num b.sag).relaxed a f { b with pc := at_.pc } act
        (w.modBundle at_.cl at_.vu fun _ => r.1).addCounts b.sag 0 r.2
      else w.faultAt at_ act 1 0 0
    | none => w.faultAt at_ act 1 0 0

/-- The intermediates a conversion names: none for code 0 in the second, and in the first where both are 0. -/
def cvtInts (i1 i2 : Nat) : Option (List Fmt) :=
  if i1 = 0 ∧ i2 = 0 then some []
  else
    match Fmt.ofCode i1, Fmt.ofCode i2 with
    | some a, some b => if i2 = 0 then some [a] else some [a, b]
    | _, _ => none

/-- The source value of an element (R49, R54). DESIGN CHOICE (log entry 38): a short source takes the instruction's one
scale byte in every element. -/
def cvtSource (a : CvtArgs) (sf : Fmt) (b : Bundle) (i : Nat) : Val :=
  decodeScaled sf a.sscale.toNat (narrow sf (b.elem a.src i))

/-- The scale of the signature that element `i` lies in (R57), over the active elements of it. -/
def cvtScale (relaxed : Bool) (a : CvtArgs) (sf df : Fmt) (b : Bundle) (act : BitVec 16) (i : Nat) : Nat :=
  let size := if a.sig16 then 16 else 32
  if a.block then
    blockScale df (((activeElems act).filter fun j => j / size == i / size).map
      fun j => relaxIn relaxed sf (cvtSource a sf b j))
  else a.gscale.toNat

/-- The conversion of element `i` (R52–R57): only a direct one between long formats rounds in the instruction's direction. -/
def cvtConv (relaxed : Bool) (a : CvtArgs) (sf df : Fmt) (ints : List Fmt) (b : Bundle) (act : BitVec 16) (i : Nat) : Conv :=
  convert relaxed sf ints df (if df.isShort then cvtScale relaxed a sf df b act i else 127)
    (if sf.isLong && df.isLong && ints = [] then RMode.ofField a.rm else .rne) (cvtSource a sf b i)

/-- One element of a vector conversion: the bundle so far, elements saturated and flushed. DESIGN CHOICE (log entry 38):
the scale byte of a short destination is delivered in the element's place of the register `sdst`. -/
def cvtElem (relaxed : Bool) (a : CvtArgs) (sf df : Fmt) (ints : List Fmt) (b : Bundle) (act : BitVec 16)
    (r : Bundle × Nat × Nat) (i : Nat) : Bundle × Nat × Nat :=
  let c := cvtConv relaxed a sf df ints b act i
  let x := (r.1.setElem a.dst i (BitVec.ofNat 32 c.code)).raise (i / 4) c.flags
  let x := if df.isShort then x.setElem a.sdst i (BitVec.ofNat 32 (cvtScale relaxed a sf df b act i)) else x
  (x, r.2.1 + b2n c.sat, r.2.2 + b2n c.flush)

/-- VECTOR_CONVERSION (R52–R58, R515). One that breaks an issue check of R38, R52 or R57 has no completion record to
carry a status: it takes ILLEGAL (log entry 13). -/
def execVectorConversion (at_ : At) (a : CvtArgs) : State → Res := act fun w =>
  w.instrR at_ [a.dst, a.src, a.sdst] fun w b act =>
    match Fmt.ofCode a.sfmt, Fmt.ofCode a.dfmt, cvtInts a.i1 a.i2 with
    | some sf, some df, some ints =>
      if pathValid ints df ∧ !(df.isShort && !a.block && a.gscale = 0xFF) then
        let relaxed := (w.dev.num b.sag).relaxed
        let r := (activeElems act).foldl (cvtElem relaxed a sf df ints b act) ({ b with pc := at_.pc }, 0, 0)
        let w := (w.modBundle at_.cl at_.vu fun _ => r.1).addCounts b.sag r.2.1 r.2.2
        if a.hint then
          w.raiseHint b.sag a.hidx
            (hintMax 0 ((activeElems act).map fun i => relaxIn relaxed sf (cvtSource a sf b i)))
        else w
      else w.faultAt at_ act 1 0 0
    | _, _, _ => w.faultAt at_ act 1 0 0

/-- ILLEGAL_INSTRUCTION (R171): an undefined instruction, or one with a non-zero reserved field. -/
def execIllegalInstruction (at_ : At) : State → Res := act fun w =>
  w.instr at_ fun w _ act => w.faultAt at_ act 1 0 0

end Sys2Proof.Machine
end

