-- ==== Sys2Proof/Machine/Dispatch.lean ====
section
/-!
DEFINITION. One arm per command.
-/
namespace Sys2Proof.Machine

/-- The effect of a command on everything but the queue. -/
def exec (i : Instr) (s : State) : Host.Outcome State Fault Refusal :=
  match i with
  | .registerWrite ag off v => Sys2Proof.Machine.execRegisterWrite ag off v s
  | .badRegisterAccess ag off size isWrite => Sys2Proof.Machine.execBadRegisterAccess ag off size isWrite s
  | .aclkTargetWrite ag v => Sys2Proof.Machine.execAclkTargetWrite ag v s
  | .dvfsTransitionDone => Sys2Proof.Machine.execDvfsTransitionDone s
  | .d2dLinkFail link => Sys2Proof.Machine.execD2dLinkFail link s
  | .hintRead ag sag h => Sys2Proof.Machine.execHintRead ag sag h s
  | .vectorConversion at_ a => Sys2Proof.Machine.execVectorConversion at_ a s
  | .tmma at_ cmd => Sys2Proof.Machine.execTmma at_ cmd s
  | .tread at_ cmd => Sys2Proof.Machine.execTread at_ cmd s
  | .tclr at_ cmd => Sys2Proof.Machine.execTclr at_ cmd s
  | .tmmaDone cl ecc => Sys2Proof.Machine.execTmmaDone cl ecc s
  | .treadDone cl ecc => Sys2Proof.Machine.execTreadDone cl ecc s
  | .tclrDone cl => Sys2Proof.Machine.execTclrDone cl s
  | .sfx at_ w => Sys2Proof.Machine.execSfx at_ w s
  | .sfuGrant cl u => Sys2Proof.Machine.execSfuGrant cl u s
  | .sfxDone cl u => Sys2Proof.Machine.execSfxDone cl u s
  | .sfuBankSwitch cl => Sys2Proof.Machine.execSfuBankSwitch cl s
  | .crvLoadTable ag v => Sys2Proof.Machine.execCrvLoadTable ag v s
  | .crvLoadRecipe ag v => Sys2Proof.Machine.execCrvLoadRecipe ag v s
  | .crvUnload ag v => Sys2Proof.Machine.execCrvUnload ag v s
  | .crvLoadDone res => Sys2Proof.Machine.execCrvLoadDone res s
  | .crvCommitWrite ag sag => Sys2Proof.Machine.execCrvCommitWrite ag sag s
  | .crvCommitDone sag => Sys2Proof.Machine.execCrvCommitDone sag s
  | .smax at_ cmd => Sys2Proof.Machine.execSmax at_ cmd s
  | .smaxp at_ cmd => Sys2Proof.Machine.execSmaxp at_ cmd s
  | .smaxf at_ cmd => Sys2Proof.Machine.execSmaxf at_ cmd s
  | .rmsn at_ cmd => Sys2Proof.Machine.execRmsn at_ cmd s
  | .mom at_ cmd => Sys2Proof.Machine.execMom at_ cmd s
  | .mnorm at_ cmd => Sys2Proof.Machine.execMnorm at_ cmd s
  | .topk at_ cmd => Sys2Proof.Machine.execTopk at_ cmd s
  | .rowEngineAcquire => Sys2Proof.Machine.execRowEngineAcquire s
  | .rowDone cl vu ecc => Sys2Proof.Machine.execRowDone cl vu ecc s
  | .l0prodWrite ag sag v => Sys2Proof.Machine.execL0prodWrite ag sag v s
  | .lnch at_ src => Sys2Proof.Machine.execLnch at_ src s
  | .launchTake sag => Sys2Proof.Machine.execLaunchTake sag s
  | .launchRingUnhalt ag sag v => Sys2Proof.Machine.execLaunchRingUnhalt ag sag v s
  | .bundleDispatch sag => Sys2Proof.Machine.execBundleDispatch sag s
  | .exit at_ => Sys2Proof.Machine.execExit at_ s
  | .bundleExit cl vu => Sys2Proof.Machine.execBundleExit cl vu s
  | .saggarEnable ag sag => Sys2Proof.Machine.execSaggarEnable ag sag s
  | .saggarDisable ag sag => Sys2Proof.Machine.execSaggarDisable ag sag s
  | .saggarKill ag sag => Sys2Proof.Machine.execSaggarKill ag sag s
  | .saggarKillDone sag => Sys2Proof.Machine.execSaggarKillDone sag s
  | .clusterTake cl => Sys2Proof.Machine.execClusterTake cl s
  | .sliceExpiry cl => Sys2Proof.Machine.execSliceExpiry cl s
  | .saggarSwitch cl => Sys2Proof.Machine.execSaggarSwitch cl s
  | .saggarSwitchDone cl restoreBad => Sys2Proof.Machine.execSaggarSwitchDone cl restoreBad s
  | .faultAck ag sag => Sys2Proof.Machine.execFaultAck ag sag s
  | .trapAckResume ag sag => Sys2Proof.Machine.execTrapAckResume ag sag s
  | .trapAckTerminate ag sag => Sys2Proof.Machine.execTrapAckTerminate ag sag s
  | .counterClearSat ag sag => Sys2Proof.Machine.execCounterClearSat ag sag s
  | .counterClearFlush ag sag => Sys2Proof.Machine.execCounterClearFlush ag sag s
  | .frd at_ dst => Sys2Proof.Machine.execFrd at_ dst s
  | .frc at_ dst => Sys2Proof.Machine.execFrc at_ dst s
  | .brk at_ => Sys2Proof.Machine.execBrk at_ s
  | .cbar at_ => Sys2Proof.Machine.execCbar at_ s
  | .sbar at_ b n => Sys2Proof.Machine.execSbar at_ b n s
  | .barrierTimeout sag b => Sys2Proof.Machine.execBarrierTimeout sag b s
  | .wait at_ addr cond v us dst => Sys2Proof.Machine.execWait at_ addr cond v us dst s
  | .waitTimeout cl vu => Sys2Proof.Machine.execWaitTimeout cl vu s
  | .load at_ a ecc => Sys2Proof.Machine.execLoad at_ a ecc s
  | .store at_ a => Sys2Proof.Machine.execStore at_ a s
  | .fenceC at_ => Sys2Proof.Machine.execFenceC at_ s
  | .fenceP at_ => Sys2Proof.Machine.execFenceP at_ s
  | .fenceG at_ => Sys2Proof.Machine.execFenceG at_ s
  | .amoLoad at_ a => Sys2Proof.Machine.execAmoLoad at_ a s
  | .amoStore at_ a => Sys2Proof.Machine.execAmoStore at_ a s
  | .amoSwap at_ a => Sys2Proof.Machine.execAmoSwap at_ a s
  | .amoCompareAndSwap at_ a => Sys2Proof.Machine.execAmoCompareAndSwap at_ a s
  | .amoIntegerAdd at_ a => Sys2Proof.Machine.execAmoIntegerAdd at_ a s
  | .amoBinary32Add at_ a => Sys2Proof.Machine.execAmoBinary32Add at_ a s
  | .amoSignedMin at_ a => Sys2Proof.Machine.execAmoSignedMin at_ a s
  | .amoSignedMax at_ a => Sys2Proof.Machine.execAmoSignedMax at_ a s
  | .amoUnsignedMin at_ a => Sys2Proof.Machine.execAmoUnsignedMin at_ a s
  | .amoUnsignedMax at_ a => Sys2Proof.Machine.execAmoUnsignedMax at_ a s
  | .amoAnd at_ a => Sys2Proof.Machine.execAmoAnd at_ a s
  | .amoOr at_ a => Sys2Proof.Machine.execAmoOr at_ a s
  | .amoXor at_ a => Sys2Proof.Machine.execAmoXor at_ a s
  | .poisonAck ag sag v => Sys2Proof.Machine.execPoisonAck ag sag v s
  | .inv4k ag sag => Sys2Proof.Machine.execInv4k ag sag s
  | .inv2m ag sag => Sys2Proof.Machine.execInv2m ag sag s
  | .inv1g ag sag => Sys2Proof.Machine.execInv1g ag sag s
  | .invAll ag sag => Sys2Proof.Machine.execInvAll ag sag s
  | .invalidationDone sag => Sys2Proof.Machine.execInvalidationDone sag s
  | .pageMove ag sag => Sys2Proof.Machine.execPageMove ag sag s
  | .pageMoveDone sag srcBad dstBad => Sys2Proof.Machine.execPageMoveDone sag srcBad dstBad s
  | .memCommit ag sag => Sys2Proof.Machine.execMemCommit ag sag s
  | .memCommitDone sag => Sys2Proof.Machine.execMemCommitDone sag s
  | .pcieLinkTrained speed width flit cfg => Sys2Proof.Machine.execPcieLinkTrained speed width flit cfg s
  | .pcieLinkDown dll => Sys2Proof.Machine.execPcieLinkDown dll s
  | .hotReset => Sys2Proof.Machine.execHotReset s
  | .perstAssert => Sys2Proof.Machine.execPerstAssert s
  | .perstDeassert => Sys2Proof.Machine.execPerstDeassert s
  | .atsInvalidation fn addr pages => Sys2Proof.Machine.execAtsInvalidation fn addr pages s
  | .msixUnmask fn vec => Sys2Proof.Machine.execMsixUnmask fn vec s
  | .vfEnable => Sys2Proof.Machine.execVfEnable s
  | .vfDisable => Sys2Proof.Machine.execVfDisable s
  | .vfmapWrite ag v val => Sys2Proof.Machine.execVfmapWrite ag v val s
  | .flrVf v => Sys2Proof.Machine.execFlrVf v s
  | .flrPf => Sys2Proof.Machine.execFlrPf s
  | .flrDone fn => Sys2Proof.Machine.execFlrDone fn s
  | .qprodWrite ag q v => Sys2Proof.Machine.execQprodWrite ag q v s
  | .queueEnable ag q v => Sys2Proof.Machine.execQueueEnable ag q v s
  | .queueDisable ag q v => Sys2Proof.Machine.execQueueDisable ag q v s
  | .descriptorFetch q => Sys2Proof.Machine.execDescriptorFetch q s
  | .descriptorFetchReturn q res data => Sys2Proof.Machine.execDescriptorFetchReturn q res data s
  | .copy q => Sys2Proof.Machine.execCopy q s
  | .fill q => Sys2Proof.Machine.execFill q s
  | .recordOnly q => Sys2Proof.Machine.execRecordOnly q s
  | .dmaChunk ecc => Sys2Proof.Machine.execDmaChunk ecc s
  | .dmaComplete q => Sys2Proof.Machine.execDmaComplete q s
  | .hostSideError tag q kind => Sys2Proof.Machine.execHostSideError tag q kind s
  | .hostCompletionTimeout tag => Sys2Proof.Machine.execHostCompletionTimeout tag s
  | .uartByte b framing awake => Sys2Proof.Machine.execUartByte b framing awake s
  | .uartBreak => Sys2Proof.Machine.execUartBreak s
  | .ringInputProduce v => Sys2Proof.Machine.execRingInputProduce v s
  | .ringOutputConsume v => Sys2Proof.Machine.execRingOutputConsume v s
  | .ringSessionReset => Sys2Proof.Machine.execRingSessionReset s
  | .driverClaim k => Sys2Proof.Machine.execDriverClaim k s
  | .driverRelease k => Sys2Proof.Machine.execDriverRelease k s
  | .lineCheckFail sess => Sys2Proof.Machine.execLineCheckFail sess s
  | .partialLineTimeout sess => Sys2Proof.Machine.execPartialLineTimeout sess s
  | .challengeTimeout sess => Sys2Proof.Machine.execChallengeTimeout sess s
  | .serviceLockoutEnd sess => Sys2Proof.Machine.execServiceLockoutEnd sess s
  | .sessionIdleTimeout sess => Sys2Proof.Machine.execSessionIdleTimeout sess s
  | .commandTimeout => Sys2Proof.Machine.execCommandTimeout s
  | .mode sess => Sys2Proof.Machine.execMode sess s
  | .priv sess => Sys2Proof.Machine.execPriv sess s
  | .privAnswer sess => Sys2Proof.Machine.execPrivAnswer sess s
  | .claim sess => Sys2Proof.Machine.execClaim sess s
  | .release sess => Sys2Proof.Machine.execRelease sess s
  | .claimBreak sess => Sys2Proof.Machine.execClaimBreak sess s
  | .claims sess => Sys2Proof.Machine.execClaims sess s
  | .notify sess => Sys2Proof.Machine.execNotify sess s
  | .help sess => Sys2Proof.Machine.execHelp sess s
  | .colophon sess => Sys2Proof.Machine.execColophon sess s
  | .status sess => Sys2Proof.Machine.execStatus sess s
  | .clu sess => Sys2Proof.Machine.execClu sess s
  | .flashInfo sess => Sys2Proof.Machine.execFlashInfo sess s
  | .aclk sess => Sys2Proof.Machine.execAclk sess s
  | .aclkSet sess => Sys2Proof.Machine.execAclkSet sess s
  | .pwrShow sess => Sys2Proof.Machine.execPwrShow sess s
  | .pwrReq sess => Sys2Proof.Machine.execPwrReq sess s
  | .pwrRefusals sess => Sys2Proof.Machine.execPwrRefusals sess s
  | .supRails sess => Sys2Proof.Machine.execSupRails sess s
  | .supPhases sess => Sys2Proof.Machine.execSupPhases sess s
  | .supBak sess => Sys2Proof.Machine.execSupBak sess s
  | .lnkShow sess => Sys2Proof.Machine.execLnkShow sess s
  | .lnkTrain sess => Sys2Proof.Machine.execLnkTrain sess s
  | .lnkPark sess => Sys2Proof.Machine.execLnkPark sess s
  | .lnkAlloc sess => Sys2Proof.Machine.execLnkAlloc sess s
  | .fabShow sess => Sys2Proof.Machine.execFabShow sess s
  | .fabRoute sess => Sys2Proof.Machine.execFabRoute sess s
  | .fabChip sess => Sys2Proof.Machine.execFabChip sess s
  | .fabSlice sess => Sys2Proof.Machine.execFabSlice sess s
  | .timeShow sess => Sys2Proof.Machine.execTimeShow sess s
  | .timeSet sess => Sys2Proof.Machine.execTimeSet sess s
  | .colShow sess => Sys2Proof.Machine.execColShow sess s
  | .sagShow sess => Sys2Proof.Machine.execSagShow sess s
  | .sagEn sess => Sys2Proof.Machine.execSagEn sess s
  | .sagDis sess => Sys2Proof.Machine.execSagDis sess s
  | .sagKill sess => Sys2Proof.Machine.execSagKill sess s
  | .sagQuota sess => Sys2Proof.Machine.execSagQuota sess s
  | .sagMask sess => Sys2Proof.Machine.execSagMask sess s
  | .sagRec sess => Sys2Proof.Machine.execSagRec sess s
  | .sagAckTrap sess => Sys2Proof.Machine.execSagAckTrap sess s
  | .sagAckFault sess => Sys2Proof.Machine.execSagAckFault sess s
  | .sagAckPoison sess => Sys2Proof.Machine.execSagAckPoison sess s
  | .sagCount sess => Sys2Proof.Machine.execSagCount sess s
  | .crvShow sess => Sys2Proof.Machine.execCrvShow sess s
  | .crvLoad sess => Sys2Proof.Machine.execCrvLoad sess s
  | .crvUnloadCmd sess => Sys2Proof.Machine.execCrvUnloadCmd sess s
  | .crvBind sess => Sys2Proof.Machine.execCrvBind sess s
  | .crvPerm sess => Sys2Proof.Machine.execCrvPerm sess s
  | .crvMode sess => Sys2Proof.Machine.execCrvMode sess s
  | .crvCommit sess => Sys2Proof.Machine.execCrvCommit sess s
  | .logShow sess => Sys2Proof.Machine.execLogShow sess s
  | .logMark sess => Sys2Proof.Machine.execLogMark sess s
  | .logClear sess => Sys2Proof.Machine.execLogClear sess s
  | .stageShow sess => Sys2Proof.Machine.execStageShow sess s
  | .stageSet sess => Sys2Proof.Machine.execStageSet sess s
  | .stageDrop sess => Sys2Proof.Machine.execStageDrop sess s
  | .commit sess => Sys2Proof.Machine.execCommit sess s
  | .keyShow sess => Sys2Proof.Machine.execKeyShow sess s
  | .keySet sess => Sys2Proof.Machine.execKeySet sess s
  | .keyClear sess => Sys2Proof.Machine.execKeyClear sess s
  | .reset sess => Sys2Proof.Machine.execReset sess s
  | .testResult sess => Sys2Proof.Machine.execTestResult sess s
  | .testBscan sess => Sys2Proof.Machine.execTestBscan sess s
  | .drainComplete => Sys2Proof.Machine.execDrainComplete s
  | .drainTimeout => Sys2Proof.Machine.execDrainTimeout s
  | .signalDetect p => Sys2Proof.Machine.execSignalDetect p s
  | .lanePhaseDone p mine arrive peerGood peerCount => Sys2Proof.Machine.execLanePhaseDone p mine arrive peerGood peerCount s
  | .alignPhaseDone p => Sys2Proof.Machine.execAlignPhaseDone p s
  | .ident p flit => Sys2Proof.Machine.execIdent p flit s
  | .auth p flit => Sys2Proof.Machine.execAuth p flit s
  | .arm p flit => Sys2Proof.Machine.execArm p flit s
  | .resume p flit => Sys2Proof.Machine.execResume p flit s
  | .trainingPhaseTimeout p => Sys2Proof.Machine.execTrainingPhaseTimeout p s
  | .quietEnd p => Sys2Proof.Machine.execQuietEnd p s
  | .unplug p => Sys2Proof.Machine.execUnplug p s
  | .reprobe p => Sys2Proof.Machine.execReprobe p s
  | .reprobeWindowEnd p => Sys2Proof.Machine.execReprobeWindowEnd p s
  | .lnkTrainStart ag p => Sys2Proof.Machine.execLnkTrainStart ag p s
  | .lnkTrainPark ag p => Sys2Proof.Machine.execLnkTrainPark ag p s
  | .data p flit => Sys2Proof.Machine.execData p flit s
  | .nullFlit p flit => Sys2Proof.Machine.execNullFlit p flit s
  | .nak p flit => Sys2Proof.Machine.execNak p flit s
  | .train p flit => Sys2Proof.Machine.execTrain p flit s
  | .down p flit => Sys2Proof.Machine.execDown p flit s
  | .nullFlitTimer p => Sys2Proof.Machine.execNullFlitTimer p s
  | .nakExpiry p => Sys2Proof.Machine.execNakExpiry p s
  | .replayTimeout p => Sys2Proof.Machine.execReplayTimeout p s
  | .lockLoss p lane => Sys2Proof.Machine.execLockLoss p lane s
  | .codewordErrors p lane n => Sys2Proof.Machine.execCodewordErrors p lane n s
  | .symbolErrorRatio p lane n => Sys2Proof.Machine.execSymbolErrorRatio p lane n s
  | .flitSilence p => Sys2Proof.Machine.execFlitSilence p s
  | .retrainPattern p => Sys2Proof.Machine.execRetrainPattern p s
  | .retrainTimeout p => Sys2Proof.Machine.execRetrainTimeout p s
  | .orderlyDownEnd p => Sys2Proof.Machine.execOrderlyDownEnd p s
  | .write p vc => Sys2Proof.Machine.execWrite p vc s
  | .read p vc => Sys2Proof.Machine.execRead p vc s
  | .atomic p vc => Sys2Proof.Machine.execAtomic p vc s
  | .resp p vc => Sys2Proof.Machine.execResp p vc s
  | .ack p => Sys2Proof.Machine.execAck p s
  | .close p => Sys2Proof.Machine.execClose p s
  | .closed p => Sys2Proof.Machine.execClosed p s
  | .packetResendTimer key seq => Sys2Proof.Machine.execPacketResendTimer key seq s
  | .streamFailureDeclared key => Sys2Proof.Machine.execStreamFailureDeclared key s
  | .streamClose key => Sys2Proof.Machine.execStreamClose key s
  | .abandonCloseTimer key => Sys2Proof.Machine.execAbandonCloseTimer key s
  | .hopHoldTimeout => Sys2Proof.Machine.execHopHoldTimeout s
  | .hello p m => Sys2Proof.Machine.execHello p m s
  | .helloTimer => Sys2Proof.Machine.execHelloTimer s
  | .elect p src slice cand epoch => Sys2Proof.Machine.execElect p src slice cand epoch s
  | .electionStart => Sys2Proof.Machine.execElectionStart s
  | .becomeMaster => Sys2Proof.Machine.execBecomeMaster s
  | .join p src slice m => Sys2Proof.Machine.execJoin p src slice m s
  | .admission p src slice dst epoch => Sys2Proof.Machine.execAdmission p src slice dst epoch s
  | .quar p src slice dst cause => Sys2Proof.Machine.execQuar p src slice dst cause s
  | .refuse p src slice dst cause => Sys2Proof.Machine.execRefuse p src slice dst cause s
  | .table p src slice m => Sys2Proof.Machine.execTable p src slice m s
  | .sliceCommitMsg p src slice epoch master members => Sys2Proof.Machine.execSliceCommitMsg p src slice epoch master members s
  | .tsync p src slice t => Sys2Proof.Machine.execTsync p src slice t s
  | .tsyncr p src slice offset rtt => Sys2Proof.Machine.execTsyncr p src slice offset rtt s
  | .tsyncTimer => Sys2Proof.Machine.execTsyncTimer s
  | .tsyncMissing => Sys2Proof.Machine.execTsyncMissing s
  | .leave p src slice chip => Sys2Proof.Machine.execLeave p src slice chip s
  | .handover p src slice m => Sys2Proof.Machine.execHandover p src slice m s
  | .update p src slice m => Sys2Proof.Machine.execUpdate p src slice m s
  | .masterLoss => Sys2Proof.Machine.execMasterLoss s
  | .hashMismatchTimeout chip => Sys2Proof.Machine.execHashMismatchTimeout chip s
  | .quarantineRejoin => Sys2Proof.Machine.execQuarantineRejoin s
  | .chipovWrite ag v => Sys2Proof.Machine.execChipovWrite ag v s
  | .sliceidWrite ag v => Sys2Proof.Machine.execSliceidWrite ag v s
  | .twistWrite ag d v => Sys2Proof.Machine.execTwistWrite ag d v s
  | .form at_ cmd => Sys2Proof.Machine.execForm at_ cmd s
  | .dissolve at_ cmd => Sys2Proof.Machine.execDissolve at_ cmd s
  | .reduce at_ cmd => Sys2Proof.Machine.execReduce at_ cmd s
  | .allreduce at_ cmd => Sys2Proof.Machine.execAllreduce at_ cmd s
  | .bcast at_ cmd => Sys2Proof.Machine.execBcast at_ cmd s
  | .barrier at_ cmd => Sys2Proof.Machine.execBarrier at_ cmd s
  | .collStart idx ecc => Sys2Proof.Machine.execCollStart idx ecc s
  | .cform p vc => Sys2Proof.Machine.execCform p vc s
  | .cdata p vc => Sys2Proof.Machine.execCdata p vc s
  | .cack p vc => Sys2Proof.Machine.execCack p vc s
  | .cabort p vc => Sys2Proof.Machine.execCabort p vc s
  | .collResendTimer idx k => Sys2Proof.Machine.execCollResendTimer idx k s
  | .collTimeout idx => Sys2Proof.Machine.execCollTimeout idx s
  | .cformHoldExpiry => Sys2Proof.Machine.execCformHoldExpiry s
  | .idleTimerExpiry d => Sys2Proof.Machine.execIdleTimerExpiry d s
  | .pwrReqActive ag v => Sys2Proof.Machine.execPwrReqActive ag v s
  | .pwrReqIdle ag v => Sys2Proof.Machine.execPwrReqIdle ag v s
  | .pwrReqBanked ag v => Sys2Proof.Machine.execPwrReqBanked ag v s
  | .handshakeAnswer d k busy => Sys2Proof.Machine.execHandshakeAnswer d k busy s
  | .deferTimeout d => Sys2Proof.Machine.execDeferTimeout d s
  | .entryRetry d => Sys2Proof.Machine.execEntryRetry d s
  | .entryComplete d => Sys2Proof.Machine.execEntryComplete d s
  | .forcedEntry d => Sys2Proof.Machine.execForcedEntry d s
  | .forcedEntryDrainTimeout d => Sys2Proof.Machine.execForcedEntryDrainTimeout d s
  | .wakeStepReady d => Sys2Proof.Machine.execWakeStepReady d s
  | .wakeWave => Sys2Proof.Machine.execWakeWave s
  | .wakeComplete d ret => Sys2Proof.Machine.execWakeComplete d ret s
  | .refuserTableClear ag => Sys2Proof.Machine.execRefuserTableClear ag s
  | .pwronRise => Sys2Proof.Machine.execPwronRise s
  | .pwronFall => Sys2Proof.Machine.execPwronFall s
  | .railGood k mv => Sys2Proof.Machine.execRailGood k mv s
  | .railGoodTimeout => Sys2Proof.Machine.execRailGoodTimeout s
  | .railWarningCrossing k mv => Sys2Proof.Machine.execRailWarningCrossing k mv s
  | .railResetCrossing k mv => Sys2Proof.Machine.execRailResetCrossing k mv s
  | .restartTimer => Sys2Proof.Machine.execRestartTimer s
  | .currentLimit => Sys2Proof.Machine.execCurrentLimit s
  | .powerCap => Sys2Proof.Machine.execPowerCap s
  | .capNotHeld => Sys2Proof.Machine.execCapNotHeld s
  | .throttleRelease mv => Sys2Proof.Machine.execThrottleRelease mv s
  | .phaseDrop drops => Sys2Proof.Machine.execPhaseDrop drops s
  | .orderlyEntryTimeout => Sys2Proof.Machine.execOrderlyEntryTimeout s
  | .phaseLockClear ag => Sys2Proof.Machine.execPhaseLockClear ag s
  | .energyEstimate vaux vbak => Sys2Proof.Machine.execEnergyEstimate vaux vbak s
  | .vauxHandover vaux vbak => Sys2Proof.Machine.execVauxHandover vaux vbak s
  | .handoverDone => Sys2Proof.Machine.execHandoverDone s
  | .vauxReturn => Sys2Proof.Machine.execVauxReturn s
  | .vauxLoss => Sys2Proof.Machine.execVauxLoss s
  | .flashProgramDone ok => Sys2Proof.Machine.execFlashProgramDone ok s
  | .flashEraseDone ok => Sys2Proof.Machine.execFlashEraseDone ok s
  | .mirrorProgram => Sys2Proof.Machine.execMirrorProgram s
  | .mirrorRetry => Sys2Proof.Machine.execMirrorRetry s
  | .aonPowerOn straps pwron => Sys2Proof.Machine.execAonPowerOn straps pwron s
  | .crystalStable => Sys2Proof.Machine.execCrystalStable s
  | .coldStart straps => Sys2Proof.Machine.execColdStart straps s
  | .startStepDone r => Sys2Proof.Machine.execStartStepDone r s
  | .warmReset => Sys2Proof.Machine.execWarmReset s
  | .sysrst => Sys2Proof.Machine.execSysrst s
  | .bypass => Sys2Proof.Machine.execBypass s
  | .idcode => Sys2Proof.Machine.execIdcode s
  | .samplePreload pins shift => Sys2Proof.Machine.execSamplePreload pins shift s
  | .extest pins shift => Sys2Proof.Machine.execExtest pins shift s
  | .clamp => Sys2Proof.Machine.execClamp s
  | .highz => Sys2Proof.Machine.execHighz s
  | .tableStoreError recipe slot both cl => Sys2Proof.Machine.execTableStoreError recipe slot both cl s
  | .tempSample t0 t1 t2 => Sys2Proof.Machine.execTempSample t0 t1 t2 s
  | .tempBank => Sys2Proof.Machine.execTempBank s
  | .tempTrip => Sys2Proof.Machine.execTempTrip s
  | .watchdogExpiry => Sys2Proof.Machine.execWatchdogExpiry s
  | .logEntryWrite => Sys2Proof.Machine.execLogEntryWrite s
  | .coalesceWindowEnd code src => Sys2Proof.Machine.execCoalesceWindowEnd code src s
  | .logFetch ag v => Sys2Proof.Machine.execLogFetch ag v s
  | .logFetchDone => Sys2Proof.Machine.execLogFetchDone s
  | .stageRegisterWrite ag k v => Sys2Proof.Machine.execStageRegisterWrite ag k v s
  | .stageCommitWrite ag => Sys2Proof.Machine.execStageCommitWrite ag s
  | .commitSafePoint => Sys2Proof.Machine.execCommitSafePoint s
  | .registerReadClear ag off => Sys2Proof.Machine.execRegisterReadClear ag off s
  | .vectorArithmetic at_ a => Sys2Proof.Machine.execVectorArithmetic at_ a s
  | .illegalInstruction at_ => Sys2Proof.Machine.execIllegalInstruction at_ s
  | .hostReadCompletion tag data => Sys2Proof.Machine.execHostReadCompletion tag data s
  | .atsTranslationCompletion fn page res => Sys2Proof.Machine.execAtsTranslationCompletion fn page res s
  | .trainResend p => Sys2Proof.Machine.execTrainResend p s
  | .railFallTimeout => Sys2Proof.Machine.execRailFallTimeout s
  | .aonTempRead t0 t1 t2 => Sys2Proof.Machine.execAonTempRead t0 t1 t2 s
  | .resetStart => Sys2Proof.Machine.execResetStart s

end Sys2Proof.Machine
end

