-- ==== Sys2Proof/Safety.lean ====
section
/-!
DEFINITION. What a safe state is, and the words that statements about one command are written in: that it completes, what it leaves
unchanged, when a register access is served, when the management core takes a line.
-/
namespace Sys2Proof.Machine

/-- The invariant of every step: the memories are in canonical form. -/
def State.safe (s : State) : Prop := s.mem.wf = true

/-- A command completes: it answers a next state, of which `P` holds. -/
def Completes (i : Instr) (s : State) (P : State → Prop) : Prop := ∃ t, exec i s = .next t ∧ P t

/-- The frame of a command: queue and memories unchanged, and of the block nothing but the fields that `keep` takes from the
later one. -/
def Only (keep : Dev → Dev → Dev) (s t : State) : Prop := t = { s with dev := keep s.dev t.dev }

/-- An access to a register takes effect at once (R387, R418, R498–R503). -/
def Dev.serves (d : Dev) (ag : Agent) (p : RegPlace) : Bool :=
  d.linkServes ag && d.sees ag p && (if p = .aon then d.aon.powered else d.hubServes && d.hubOpen)

/-- A state with registers served at once, whatever the start-up and the endpoint stand at: READY, no wake of the hub still bringing
domains back, nothing held before (R387, R403, R445). -/
def State.served (s : State) : State :=
  { s with dev := { s.dev with start := { s.dev.start with state := .ready }, pwr := { s.dev.pwr with returning := [] }
                               pci := { s.dev.pci with held := [] } } }

/-- Bundle `b` issues the instruction at `x`: it may (R158), its fetch passes its checks (R204, R514), and the reads of memory that it
makes meet no uncorrectable error; corrected ones they may (R211). -/
def Fetches (s : State) (x : At) (b : Bundle) : Prop :=
  s.dev.canIssue x = some b ∧ (∀ e ∈ x.ecc, e ≠ .bad) ∧
    ∃ p w, W.access { ((s.work.bring x.ecc).touch x.cl).modBundle x.cl x.vu (fun b => { b with pc := x.pc }) with die := some (dieOf x.cl) }
      b.sag x.pc.toNat 8 .fetch = (.ok p, w)

/-- A bundle does not wait on a word of memory. -/
def Bundle.noWord (b : Bundle) : Bool := match b.waiting with | .word _ _ _ _ _ _ _ _ => false | _ => true

/-- No thread of a resident or saved bundle waits on a word of memory. -/
def Dev.noWaits (d : Dev) : Bool :=
  (d.cmp.vus.all fun x => x.2.bundle.all Bundle.noWord) && d.cmp.sags.all fun x => x.2.saved.all fun y => y.bundle.noWord

/-- No lnch stands stalled on a full ring. -/
def Dev.noStall (d : Dev) : Bool :=
  d.cmp.vus.all fun x => match x.2.bundle with
    | some b => match b.waiting with | .ring _ _ => false | _ => true
    | none => true

/-- No page move waits for a domain that its walk met asleep. -/
def Dev.noMoveWaits (d : Dev) : Bool := d.cmp.mem.all fun p => !p.2.mvWait

/-- No access, record, move or lnch waits for a wake or the end of a page move. -/
def Dev.nothingHeld (d : Dev) : Bool := decide (d.cmp.held = []) && decide (d.cmp.recs = []) && d.noMoveWaits && d.noStall

/-- The frame of an instruction that changes its own bundle: idle timers, cached translations, the free counter, corrected errors and
the log may change with the fetch; no other bundle and no other unit does. -/
def OnlyBundle (x : At) (s t : State) : Prop :=
  Only (fun d e => { d with pwr := e.pwr, free := e.free, log := e.log, cmp := { d.cmp with mem := e.cmp.mem, vus := e.cmp.vus, cecc := e.cmp.cecc } }) s t ∧
  ∀ (c v : Nat), v < 4 → ¬(c = x.cl.val ∧ v = x.vu.val) → t.dev.vu c v = s.dev.vu c v

/-- The work in which an instruction that is fetched acts: its program counter set, and what the checks of the fetch touch. -/
def State.fetched (s : State) (x : At) (b : Bundle) : W :=
  (W.access { ((s.work.bring x.ecc).touch x.cl).modBundle x.cl x.vu (fun b => { b with pc := x.pc }) with die := some (dieOf x.cl) }
    b.sag x.pc.toNat 8 .fetch).2

/-- How a descriptor ends that a transport error reaches: with POISONED, unless it has ended before (R238, R467). -/
def poisonedEnd (d : Desc) : Option (Byte × Byte) := if d.ended = none then some (0x12, 0) else d.ended

/-- A place in HBM3E or near store, as a memory and an address in it. -/
def Place.local? : Place → Option (Space × Nat)
  | .hbm a => some (.hbm, a)
  | .near a => some (.near, a)
  | _ => none

/-- Bundle `b` issues at `x` a memory instruction whose runs pass their checks (R514), each at its place. -/
def Reaches (s : State) (x : At) (b : Bundle) (regs : List Nat) (u : Use) (ps : List Piece) (q : List (Piece × Place)) : Prop :=
  Fetches s x b ∧ s.dev.noWaits = true ∧ s.dev.memWaits x = false ∧ regs.any (fun r => s.dev.regBusy x.cl x.vu r) = false ∧
  ∃ w, W.resolve (s.fetched x b) b.sag u ps [] = (.all (q.map fun p => (p.1, some p.2)), w)

/-- An access of saggar `s` that has passed its checks is performed at a place, or sent there: in HBM3E or near store; at the host while
the link is up; at another chip over a channel that is not poisoned (R191, R225). -/
def Dev.performs (d : Dev) (s : Nat) : Place → Bool
  | .hbm _ | .near _ => true
  | .host _ _ => d.pci.up
  | .remote chip vc _ => !(d.sag s).poisoned 0 vc chip 0
  | .reg _ _ => false

/-- A packet stands in a stream of a saggar to a chip, sent or to be sent (R342, R344). -/
def InStream (t : State) (sag chip vc : Nat) (k : Pkt) : Prop :=
  ∃ st ∈ t.dev.fab.sends, st.ssag = sag ∧ st.dst = chip ∧ st.vc = vc ∧
    ∃ y ∈ st.unacked.map (fun x => x.bytes) ++ st.waiting.map Prod.snd,
      y = k.bytes ∨ ∃ seq opn, y = Pkt.bytes { pktOf k.bytes with seq, opn }

/-- The runs of an instruction at other chips: the run, chip, channel and offset there. -/
def remoteRuns (q : List (Piece × Place)) : List (Piece × Nat × Nat × Nat) :=
  q.filterMap fun p => match p.2 with | .remote chip vc o => some (p.1, chip, vc, o) | _ => none

/-- The runs of an instruction at the host: the run, the saggar of its function and the host address. -/
def hostRuns (q : List (Piece × Place)) : List (Piece × Nat × Nat) :=
  q.filterMap fun p => match p.2 with | .host v h => some (p.1, v, h) | _ => none

/-- The runs of an instruction on this chip, with memory and address. -/
def localRuns (q : List (Piece × Place)) : List (Piece × Space × Nat) := q.filterMap fun p => p.2.local?.map fun y => (p.1, y)

/-- The runs of saggar `sag` at other chips have become operations of their own there, their packets in the streams (R187, R340, R342). -/
def Requests (s t : State) (sag : Nat) (q : List (Piece × Place)) (use : Piece → RemoteUse) (k : Piece → Nat → Nat → Pkt) : Prop :=
  let shown (o : RemoteOp) : Nat × Nat × Nat × DWord × RemoteUse := (o.chip, o.vc, o.sag, o.addr, o.use)
  t.dev.fab.ops.map shown = s.dev.fab.ops.map shown ++
    (remoteRuns q).map (fun r => (r.2.1, r.2.2.1, sag, BitVec.ofNat 64 r.1.addr, use r.1)) ∧
  ∀ r ∈ remoteRuns q, InStream t sag r.2.1 r.2.2.1 (k r.1 r.2.1 r.2.2.2)

/-- The frame of a memory instruction: that of an instruction on its own bundle, and besides the memories, what its runs elsewhere
change at the host link and in the fabric. -/
def OnlyAccess (x : At) (q : List (Piece × Place)) (s t : State) : Prop :=
  OnlyBundle x { s with
    mem := t.mem
    dev := { s.dev with pci := t.dev.pci, outs := t.dev.outs, fab := t.dev.fab, ports := t.dev.ports
                        cmp := { s.dev.cmp with nextId := t.dev.cmp.nextId } } } t ∧
  (hostRuns q = [] → t.dev.pci = s.dev.pci ∧ (remoteRuns q = [] → t.dev.outs = s.dev.outs)) ∧
  (remoteRuns q = [] → t.dev.fab = s.dev.fab ∧ t.dev.ports = s.dev.ports ∧ t.dev.cmp.nextId = s.dev.cmp.nextId)

/-- Bundle `b` issues at `x` an instruction whose command of `n` bytes at `a` is read (R62, R129, R366), its earlier memory
instructions performed and none of its stores failed: the bytes, and the work in which the checks on it begin. -/
def ReadsCommand (s : State) (x : At) (b : Bundle) (a n : Nat) (l : List Byte) (w : W) : Prop :=
  Fetches s x b ∧ s.dev.memWaits x = false ∧ b.storePoison = false ∧ (s.fetched x b).fetchVa b.sag a n (.operand false) = (.bytes l, w)

/-- None of the ranges that an operation reaches waits for a sleeping domain or a page move (R28, R214). -/
def W.unblocked (w : W) (s : Nat) (ranges : List (Use × Nat × Nat)) : Prop :=
  ranges.findSome? (fun x => w.blocked s x.1 (piecesOf x.2.1 x.2.2)) = none

/-- The work in which an operation of a cluster ends: its operation code (R478), its die, and the records that come before what the log
says of its faults (R466). -/
def State.opWork (s : State) (op cl : Nat) (rep : List Report) : W := { s.work with op, die := some (dieOf cl), rep }

/-- The work in which a descriptor's data moves: its record comes before what the log says of its faults (R466). -/
def State.descWork (s : State) (q : Nat) (index : BitVec 16) : W := { s.work with rep := [.desc q index] }

/-- Two works that agree in all that a completion record's way to memory depends on: memories, changes made, errors to be found, die,
domains, tables and their cached entries, records that wait, sectors, fabric, host link and poisoned channels. -/
def W.sameReach (a b : W) : Prop :=
  a.ws = b.ws ∧ a.mem = b.mem ∧ a.ecc = b.ecc ∧ a.rep = b.rep ∧ a.die = b.die ∧ a.op = b.op ∧ a.dev.free = b.dev.free ∧ a.dev.hub = b.dev.hub ∧ a.dev.pwr = b.dev.pwr ∧
  a.dev.fab = b.dev.fab ∧ a.dev.cmp.mem = b.dev.cmp.mem ∧ a.dev.cmp.recs = b.dev.cmp.recs ∧ a.dev.cmp.nsec = b.dev.cmp.nsec ∧
  a.dev.pci.up = b.dev.pci.up ∧ (∀ n, (a.dev.cl n).online = (b.dev.cl n).online) ∧
  ∀ s, (a.dev.sag s).poison = (b.dev.sag s).poison ∧ (a.dev.sag s).owed = (b.dev.sag s).owed

/-- The issuing thread of an operation has raised flags, in every resident bundle that is its issuer's; no other thread of it has (R84,
R96). -/
def RaisedFor (s u : State) (who : Issuer) (f : Flags) : Prop :=
  ∀ n v b, s.dev.bundle n v = some b → who.owns b = true → ∃ b', u.dev.bundle n v = some b' ∧
    ∀ l, b'.flagsOf l = if l = who.lane then b.flagsOf l ||| flagBits f else b.flagsOf l

/-- An operation of a cluster ends with its completion record (R80): written in a work that reaches memory as `w` does and in which
the tile slot is as the operation leaves it. -/
def Records (s u : State) (w : W) (who : Issuer) (c : TCmd) (status sat flush : Nat) : Prop :=
  ∃ w2 : W, w2.sameReach w ∧ (w2.dev.cl who.cl).slot c.slot = (u.dev.cl who.cl).slot c.slot ∧
    u.mem = (s.after (w2.tensorRecord who c status sat flush)).mem

/-- A row operation ends with its completion record (R80, R153), written in a work that reaches memory as `w` does. -/
def RowRecords (s u : State) (w : W) (who : Issuer) (c : RCmd) (status sat flush : Nat) : Prop :=
  ∃ w2 : W, w2.sameReach w ∧ u.mem = (s.after (w2.rowRecord who c status sat flush)).mem

/-- Whether a byte of a memory lies in none of the runs. -/
def outside (sp : Space) (a : Nat) (l : List (Piece × Space × Nat)) : Prop :=
  ∀ p ∈ l, ¬(p.2.1 = sp ∧ p.2.2 ≤ a ∧ a < p.2.2 + p.1.len)

/-- What an atomic leaves in memory, over words of its width (R180). -/
def amoLeaves (op : AmoOp) (n old v cmp : Nat) : Nat :=
  let x := BitVec.ofNat (8 * n) old
  let y := BitVec.ofNat (8 * n) v
  match op with
  | .load => x.toNat
  | .store | .swap => y.toNat
  | .cas => if x = BitVec.ofNat (8 * n) cmp then y.toNat else x.toNat
  | .add => (x + y).toNat
  | .fadd => code32 (Val.addX .rne (Fmt.b32.decode x.toNat) (Fmt.b32.decode y.toNat)).1
  | .smin => if y.slt x then y.toNat else x.toNat
  | .smax => if x.slt y then y.toNat else x.toNat
  | .umin => if y < x then y.toNat else x.toNat
  | .umax => if x < y then y.toNat else x.toNat
  | .and => (x &&& y).toNat
  | .or => (x ||| y).toNat
  | .xor => (x ^^^ y).toNat

/-- The atomic of an operation (R180). -/
def amoInstr : AmoOp → At → AmoArgs → Instr
  | .load => .amoLoad
  | .store => .amoStore
  | .swap => .amoSwap
  | .cas => .amoCompareAndSwap
  | .add => .amoIntegerAdd
  | .fadd => .amoBinary32Add
  | .smin => .amoSignedMin
  | .smax => .amoSignedMax
  | .umin => .amoUnsignedMin
  | .umax => .amoUnsignedMax
  | .and => .amoAnd
  | .or => .amoOr
  | .xor => .amoXor

/-- The lanes of an atomic in order: at a place of this chip each reads what the one before it left, and its destination takes what
stood there; at another chip it is under way. -/
def amoLanes (op : AmoOp) (a : AmoArgs) (b : Bundle) : List (Piece × Place) → Mem × Bundle → Mem × Bundle
  | [], r => r
  | (p, q) :: t, (m, b') =>
    match q.local? with
    | some (sp, pa) =>
      let old := leVal (m.bytes sp pa p.len)
      let new := amoLeaves op p.len old (b.amoVal a.src p.lane a.size64) (b.amoVal a.cmp p.lane a.size64)
      amoLanes op a b t
        (if op = .load then m else m.apply1 (.bytes sp pa (leBytes p.len new)),
         if op = .store then b' else b'.setAmo a.dst p.lane a.size64 old)
    | none => amoLanes op a b t (m, { b' with memOut := b'.memOut + 1 })

/-- It is session `n`'s turn, its front line passes every check as the command `c`, and the domains that the command needs are
powered and take work (R252, R255, R279). -/
def Turn (s : State) (n : Nat) (c : CmdCtx) : Prop :=
  s.dev.noWaits = true ∧ s.dev.con.rx = [] ∧ s.dev.conTurn n = true ∧
  (∃ q rest, (s.dev.sess n).queue = q :: rest ∧ (q.machine || !lineIgnored q.bytes) = true ∧ (s.work.checkLine n q).1 = .run c) ∧
  ∀ d ∈ c.needs, s.dev.poweredFor d = true ∧ s.dev.admits d = true

/-- The front line of session `n` has been taken and answered with a code and data lines (R252, R265); no command runs. -/
def Answers (s t : State) (n : Nat) (c : CmdCtx) (code : Nat) (lines : List (List Byte)) : Prop :=
  t.dev.con.run = none ∧ t.dev.con.lastSess = n ∧ (t.dev.sess n).queue = (s.dev.sess n).queue.drop 1 ∧
  (t.dev.sess n).lastResp = (responseText (if c.machine then some c.tag else none) code lines).flatten

/-- The front line of session `n` has been taken and its command waits, for `x`, holding what it needs for its duration (R252,
R272). -/
def Waits (s t : State) (n : Nat) (c : CmdCtx) (x : CmdWait) : Prop :=
  t.dev.con.lastSess = n ∧ (t.dev.sess n).queue = (s.dev.sess n).queue.drop 1 ∧
  (∃ r, t.dev.con.run = some r ∧ r.sess = n ∧ r.line = c.line ∧ r.machine = c.machine ∧ r.wait = x ∧ r.since = s.dev.now ∧
    r.wanted = true ∧ r.cancel = false) ∧
  ∀ k ∈ c.cmd.claims, claimHolder t.dev.con k = BitVec.ofNat 2 (n + 1)

/-- The management messages among what has been put out, newest first (R350). -/
def mgmtOuts (l : List Out) : List (Nat × MgmtHead × Mgmt) := l.filterMap fun o => match o with | .mgmt p h m => some (p, h, m) | _ => none

/-- The management messages put out once the chip has sent one to a neighbour: on the port toward it, where there is one and the
neighbour is of the own slice (R348, R350). -/
def Dev.saysTo (d : Dev) (v : BitVec 12) (m : Mgmt) (l : List (Nat × MgmtHead × Mgmt)) : List (Nat × MgmtHead × Mgmt) :=
  match d.wayTo v with
  | some o => if d.foreign v then l else (o, ⟨m.ptype, 15, 7, some v, d.fab.chip, d.fab.sliceid⟩, m) :: l
  | none => l

/-- A flit that carries a training message: its CRC is right and its header is that of a TRAIN flit, with enc on an encrypted link
(R309, R319, R320). -/
def TrainMsg (f l : List Byte) : Prop :=
  flitWf f = true ∧ flitCrcOk f = true ∧ (leAt f 0 8 = 3 * 2 ^ 60 ∨ leAt f 0 8 = 3 * 2 ^ 60 + 2 ^ 23) ∧ l = (f.drop 8).take 244

/-- A counter of LNK.CNT has gone up, saturating (R333). -/
def Counted (s t : State) (p k n : Nat) : Prop :=
  Tab.look 0 (t.dev.port p).cnt k = BitVec.ofNat 32 (satAdd 32 (Tab.look 0 (s.dev.port p).cnt k).toNat n)

/-- An attempt of a port has failed with a cause (R311, R313, R333). -/
def AttemptFailed (s t : State) (p cause : Nat) : Prop :=
  let x := s.dev.port p
  let y := t.dev.port p
  y.cause = BitVec.ofNat 8 cause ∧ y.causePhase = x.phase.code ∧ y.fails = min 3 (x.fails + 1) ∧
  y.state = (if x.probeAttempt || decide (3 ≤ x.fails + 1) then .parked else .quiet) ∧ Counted s t p 1 1

/-- The link of a port has gone down with a cause (R330, R333): nothing of its session is left to send. -/
def LinkLost (s t : State) (p cause : Nat) : Prop :=
  let y := t.dev.port p
  y.cause = BitVec.ofNat 8 cause ∧ y.state = (if (s.dev.port p).parkAfter then .parked else .quiet) ∧ y.txq = [] ∧
  y.sess.replay = [] ∧ y.sess.a = 0 ∧ y.sess.n = 0 ∧ y.sess.e = 0 ∧ y.encNow = false ∧ Counted s t p 13 1

/-- A port has begun to retrain (R328). -/
def Retrains (s t : State) (p : Nat) (lanes : List Nat) : Prop :=
  let y := t.dev.port p
  y.state = .retrain ∧ y.phase = .lane ∧ y.retrainAt = s.dev.now ∧ Counted s t p 4 1 ∧
  ∀ i < 96, y.dropped.getLsbD i = lanes.contains i

/-- A flit that arrives on an UP port passes every check (R318–R320, R322, R326, R327): its header and its payload. -/
def Accepts (x : Port) (f : List Byte) (h : FlitHead) (l : List Byte) : Prop :=
  x.state = .up ∧ flitWf f = true ∧ flitCrcOk f = true ∧ h = headOf (leAt f 0 8) ∧ headReservedOk (leAt f 0 8) = true ∧
  h.ty < 5 ∧ h.ty ≠ 3 ∧ h.enc = x.encNow ∧ ackOk x.sess h = true ∧ creditOk x.sess h = true ∧
  (if x.encNow then ∃ ctr, openFlit x.sess f = some (ctr, l) else l = (f.drop 8).take 244) ∧
  (h.ty = 1 → h.plen ≠ 0 ∧ h.plen ≤ (if x.encNow then 55 else 61) ∧ ¬(BitVec.ofNat 12 h.seq = x.sess.e ∧ 64 ≤ x.sess.held h.vc))

/-- A packet that has reached its destination: the front one of its channel in a port's buffers, of a type, of this slice, by a port
that is not excluded, on an admitted chip of its number (R341, R346, R348). -/
def Arrives (s : State) (p vc ty : Nat) (k : Pkt) : Prop :=
  (∃ bytes, (s.dev.port p).sess.rx.find? (fun x => x.1 == vc) = some (vc, bytes) ∧ k = pktOf bytes) ∧ k.ptype = ty ∧
  k.slice = s.dev.fab.sliceid.toNat ∧ Tab.look false s.dev.fab.excl p = false ∧ s.dev.fab.chip = some (BitVec.ofNat 12 k.dst) ∧
  s.dev.fab.state = .admitted

/-- The front packet of a channel has left a port's buffers. -/
def Taken1 (s t : State) (p vc : Nat) : Prop := (t.dev.port p).sess.rx = takeRx vc (s.dev.port p).sess.rx

/-- A packet stands next in its receiving stream, which holds none back (R343). -/
def InOrder (s : State) (vc : Nat) (k : Pkt) (r : RecvStream) : Prop :=
  s.dev.fab.recvs.find? (fun x => x.is k vc) = some r ∧ r.held = [] ∧ r.e = BitVec.ofNat 32 k.seq

/-- The stream of a packet expects the next one. -/
def Advanced (t : State) (vc : Nat) (k : Pkt) (r : RecvStream) : Prop :=
  t.dev.fab.recvs.find? (fun x => x.is k vc) = some { r with e := r.e + 1 }

/-- A RESP to a request, with status, cause and data, is in a stream of the responder (R340, R342). -/
def Responds (s t : State) (vc : Nat) (k : Pkt) (status cause : Nat) (data : List Byte) : Prop :=
  ∃ st ∈ t.dev.fab.sends, st.ssag = k.tsag ∧ st.dst = k.src ∧ st.vc = vc ∧ ∃ seq opn,
    Pkt.bytes { s.dev.mkPkt 4 k.src k.ssag k.tsag 0 0 (status * 2 ^ 24 + cause) k.seq data false with seq := seq, opn := opn } ∈
      st.unacked.map (fun x => x.bytes) ++ st.waiting.map Prod.snd

/-- The runs of a request pass their checks at its target saggar, at places of HBM3E or near store (R200, R201); `ecc` is what the
error-correcting code finds as they are read (R211). -/
def Targets (s : State) (ecc : List Ecc) (k : Pkt) (u : Use) (runs : List (Nat × Nat)) (l : List (Nat × Nat × Space × Nat)) : Prop :=
  ∃ q w, (s.work.bring ecc).target k.tsag u runs [] = (.places q, w) ∧ q.map (fun x => (x.1, x.2.1, x.2.2.local?)) = l.map fun x => (x.1, x.2.1, some x.2.2)

end Sys2Proof.Machine
end

