-- ==== Sys2Proof/Certificates/Slice0/Obligations.lean ====
section
/-!
DEFINITION. The statements about the model, for the provers.
-/
section
open Sys2Proof Sys2Proof.Machine

/-- A step runs the command at the front of the queue: 00_scope. -/
def Obligations.StepRunsFrontCommand : Prop :=
  ∀ (c : Instr) (rest : List Instr) (s : State), s.pending = c :: rest → step s = exec c { s with pending := rest }

/-- With no command waiting, a step lets one nanosecond pass (the model's choice, log entry 7): 00_scope. -/
def Obligations.IdleStepPassesOneNanosecond : Prop :=
  ∀ s : State, s.pending = [] → ∃ t, step s = .next t ∧ t.pending = [] ∧ t.dev.now = s.dev.now + 1 ∧
    (s.dev.aon.powered = false → t.mem = s.mem ∧ t.dev.con = s.dev.con)

/-- Every well-formed command completes; one that is not well-formed is refused by name: 00_scope. -/
def Obligations.WellFormedCommandsComplete : Prop :=
  ∀ (i : Instr) (s : State), (i.wf = true → ∃ t, exec i s = .next t) ∧ (i.wf = false → exec i s = .refused .illFormed)

/-- No command changes the queue of waiting commands: 00_scope. -/
def Obligations.ExecLeavesTheQueueAlone : Prop :=
  ∀ (i : Instr) (s t : State), exec i s = .next t → t.pending = s.pending

/-- Every step keeps the memories in canonical form: 08_memory, 16_supplies. -/
def Obligations.StepKeepsMemoryCanonical : Prop :=
  ∀ s t : State, s.safe → step s = .next t → t.safe

/-- The state after reset has the reset values of the register tables: 01_architecture (R35), 10_atser_language (R278), 07_threads_ordering (R197, R198), 09_host_dma (R245), 02_element_formats (R61). -/
def Obligations.ResetLeavesSpecifiedValues : Prop :=
  State.reset.safe ∧ State.reset.pending = [] ∧ State.reset.dev.readHub 0x50 = 0x00080008 ∧ State.reset.dev.readCon 0 = 0x00010258 ∧
    (∀ s < 128, (State.reset.dev.thr s).r0.size = 4 ∧ (State.reset.dev.thr s).barto = 0x2710 ∧ (State.reset.dev.sag s).slice = 0x3E8 ∧
      (State.reset.dev.sag s).st = .off ∧ (State.reset.dev.num s).relaxed = false) ∧
    (∀ q < 256, (State.reset.dev.q q).size = 4) ∧ (∀ n < 256, ∀ k < 128, ((State.reset.dev.cl n).slot k).live = false) ∧
    (∀ k < 16, claimHolder State.reset.dev.con k = 0) ∧ State.reset.dev.log.ring = []

/-- A register write takes effect under the field's access code; one of 8 bytes writes both words (R505): 01_architecture (R10), 02_element_formats (R61), 09_host_dma (R245), 20_register_map (R503). -/
def Obligations.RegisterWritesFollowAccessCodes : Prop :=
  ∀ (s : State) (v : Word),
    (∀ k : Fin 128, s.dev.serves .pf (.view k false) = true →
      Completes (.registerWrite .pf (0x28000 + 0x100 * k.val) (.word v)) s fun t =>
        (t.dev.num k).relaxed = v.getLsbD 0 ∧ (t.dev.num k).hint = (s.dev.num k).hint ∧
        Only (fun d e => { d with cmp := { d.cmp with num := e.cmp.num } }) s t ∧ ∀ j ≠ k.val, t.dev.num j = s.dev.num j) ∧
    (∀ q : Fin 256, s.dev.serves .pf (.view (q.val / 2) false) = true →
      Completes (.registerWrite .pf (0x20000 + 0x40 * q.val + 0x1C) (.word v)) s fun t =>
        t.dev.q q = { s.dev.q q with overd := (s.dev.q q).overd && !v.getLsbD 29 } ∧
        Only (fun d e => { d with dma := { d.dma with qs := e.dma.qs } }) s t ∧ ∀ j ≠ q.val, t.dev.q j = s.dev.q j) ∧
    (s.dev.serves .pf .glob = true → Completes (.registerWrite .pf 0 (.word v)) s fun t => t = s) ∧
    (s.dev.serves .pf (.view 0 false) = true → Completes (.registerWrite .pf 0x7000 (.word v)) s fun t => t = s) ∧
    ∀ (k : Fin 128) (x : DWord), s.dev.serves .pf (.view k false) = true →
      Completes (.registerWrite .pf (0x38000 + 0x80 * k.val + 0x18) (.pair x)) s fun t =>
        t.dev.mpage k = { s.dev.mpage k with inva := x } ∧ (∀ j ≠ k.val, t.dev.mpage j = s.dev.mpage j) ∧
        Only (fun d e => { d with cmp := { d.cmp with mem := e.cmp.mem } }) s t

/-- A read of an RC field returns the value and clears it in the same access; one of 8 bytes reads and clears both words: 01_architecture (R10), 02_element_formats (R60), 06_row_operations (R156), 20_register_map (R505). -/
def Obligations.ReadClearReturnsAndClears : Prop :=
  ∀ (s : State) (k : Fin 128), s.dev.serves .pf (.view k false) = true →
    (Completes (.registerReadClear .pf ⟨0x8000 + 0x10 * k.val, false⟩) s fun t =>
      t.dev.outs = .regRead .pf (0x8000 + 0x10 * k.val) (s.dev.sag k).degen :: s.dev.outs ∧
      t.dev.sag k = { s.dev.sag k with degen := 0 } ∧ (∀ j ≠ k.val, t.dev.sag j = s.dev.sag j) ∧
      Only (fun d e => { d with outs := e.outs, cmp := { d.cmp with sags := e.cmp.sags } }) s t) ∧
    (Completes (.registerReadClear .pf ⟨0x8000 + 0x10 * k.val, true⟩) s fun t =>
      t.dev.outs = .regRead .pf (0x8000 + 0x10 * k.val + 4) (s.dev.sag k).nanx :: .regRead .pf (0x8000 + 0x10 * k.val) (s.dev.sag k).degen :: s.dev.outs ∧
      t.dev.sag k = { s.dev.sag k with degen := 0, nanx := 0 } ∧ (∀ j ≠ k.val, t.dev.sag j = s.dev.sag j) ∧
      Only (fun d e => { d with outs := e.outs, cmp := { d.cmp with sags := e.cmp.sags } }) s t) ∧
    ∀ h : Fin 16, Completes (.hintRead .pf k h) s fun t =>
      t.dev.outs = .regRead .pf (0x28000 + 0x100 * k.val + 0x40 + 4 * h.val) ((Tab.look 0 (s.dev.num k).hint h).setWidth 32) :: s.dev.outs ∧
      (t.dev.num k).relaxed = (s.dev.num k).relaxed ∧
      (∀ j, Tab.look 0 (t.dev.num k).hint j = if j = h.val then 0 else Tab.look 0 (s.dev.num k).hint j) ∧
      (∀ j ≠ k.val, t.dev.num j = s.dev.num j) ∧
      Only (fun d e => { d with outs := e.outs, cmp := { d.cmp with num := e.cmp.num } }) s t

/-- A register access of the wrong size or alignment is counted; a read answers Unsupported Request: R227. -/
def Obligations.BadRegisterAccessesAreCounted : Prop :=
  ∀ (s : State) (ag : Agent) (off size : Nat) (isWrite : Bool), ag = .pf ∨ (∃ v, ag = .vf v) → off < agentSpace ag →
    s.dev.serves ag (s.dev.refPlace ag (s.dev.regRef ag off) false) = true →
    let counted (wr : Bool) (t : State) : Prop :=
      t.dev.pci = { s.dev.pci with bad := BitVec.ofNat 8 (min (s.dev.pci.bad.toNat + 1) 255) } ∧
      t.dev.outs = (if wr then s.dev.outs else .unsupported ag off :: s.dev.outs) ∧
      Only (fun d e => { d with pci := e.pci, outs := e.outs }) s t
    (badAccess off size = true → Completes (.badRegisterAccess ag off size isWrite) s (counted isWrite)) ∧
    (off % 4 ≠ 0 → (∀ v, Completes (.registerWrite ag off (.word v)) s (counted true)) ∧
      Completes (.registerReadClear ag ⟨off, false⟩) s (counted false)) ∧
    (off % 8 ≠ 0 → (∀ v, Completes (.registerWrite ag off (.pair v)) s (counted true)) ∧
      Completes (.registerReadClear ag ⟨off, true⟩) s (counted false))

/-- What a write to HUB.ACLK.target and the end of a DVFS transition do: 01_architecture (R26), 16_supplies (R410). -/
def Obligations.ClockTargetWrites : Prop :=
  (∀ (s : State) (ag : Agent) (v : Word), s.dev.serves ag .glob = true →
    Completes (.aclkTargetWrite ag v) s fun t =>
      let p := v.truncate 4
      let h := s.dev.hub
      t.dev.hub.cur = h.cur ∧ (8 < p ∨ h.dvfs = some p ∨ (h.dvfs = none ∧ h.tgt = p) → t = s) ∧
      (p ≤ 8 → h.dvfs ≠ some p → t.dev.hub.tgt = p) ∧
      (h.dvfs = none → h.again = false → p = h.cur → t.dev.hub.dvfs = none) ∧
      (p ≤ 8 → h.dvfs ≠ some p → (h.dvfs = none → h.tgt ≠ p ∧ (h.again = true ∨ p ≠ h.cur)) →
        if s.dev.dvfsOpen p = true then
          t.dev.hub.dvfs = some p ∧ t.dev.hub.again = false ∧ t.dev.sup.vset = (if h.cur < p then vcoreSet p.toNat else s.dev.sup.vset)
        else t.dev.hub.dvfs = none ∧ t.dev.hub.again = (h.again || h.dvfs.isSome) ∧ t.dev.sup.vset = s.dev.sup.vset) ∧
      Only (fun d e => { d with hub := e.hub, sup := { d.sup with vset := e.sup.vset, mv := e.sup.mv } }) s t) ∧
  ∀ s : State, Completes .dvfsTransitionDone s fun t => (s.dev.hub.dvfs = none → t = s) ∧
    ∀ p, s.dev.hub.dvfs = some p →
      t.dev.hub = { s.dev.hub with cur := p, dvfs := none } ∧ t.dev.sup.vset = vcoreSet p.toNat ∧
      (s.dev.sup.good.getLsbD 3 = true → Tab.look 0 t.dev.sup.mv 3 = vcoreSet p.toNat) ∧
      Only (fun d e => { d with hub := e.hub, sup := { d.sup with vset := e.sup.vset, mv := e.sup.mv } }) s t

/-- frd reads the flags of the active threads, frc reads and clears them; brk and an undefined instruction take faults. That a thread's flags go to element 4l of its lane is the model's choice (log entry 43): 07_threads_ordering (R157), 07_threads_ordering (R159), 07_threads_ordering (R171). -/
def Obligations.FlagsBreakAndUndefinedInstructions : Prop :=
  (∀ (s : State) (x : At) (b : Bundle) (dst : Fin 64), Fetches s x b → s.dev.sfxOut x.cl x.vu = false →
    s.dev.regBusy x.cl x.vu dst = false →
    let act := x.act &&& b.live
    let reads (b' : Bundle) : Prop :=
      (∀ l < 16, act.getLsbD l = true → b'.elem dst (4 * l) = (b.flagsOf l).zeroExtend 32) ∧
      (∀ r < 64, ∀ i < 64, ¬(r = dst.val ∧ i % 4 = 0 ∧ act.getLsbD (i / 4) = true) → b'.elem r i = b.elem r i) ∧
      b'.mr = b.mr ∧ b'.live = b.live ∧ b'.pc = x.pc
    (Completes (.frd x dst) s fun t => OnlyBundle x s t ∧ ∃ b', t.dev.bundle x.cl x.vu = some b' ∧ reads b' ∧
      ∀ l, b'.flagsOf l = b.flagsOf l) ∧
    (Completes (.frc x dst) s fun t => OnlyBundle x s t ∧ ∃ b', t.dev.bundle x.cl x.vu = some b' ∧ reads b' ∧
      ∀ l < 16, b'.flagsOf l = if act.getLsbD l = true then 0 else b.flagsOf l)) ∧
  ∀ (s : State) (x : At) (b : Bundle) (c : Instr) (cause : Nat), Fetches s x b → b.sag < 128 →
    (c = .brk x ∧ cause = 9 ∨ c = .illegalInstruction x ∧ cause = 1) →
    Completes c s fun t =>
      let g := s.dev.sag b.sag
      let g' := t.dev.sag b.sag
      (∃ b', t.dev.bundle x.cl x.vu = some b' ∧ b'.faulted = true ∧ b'.pc = x.pc ∧ b'.vr = b.vr ∧ b'.mr = b.mr ∧ b'.live = b.live) ∧
      (g.ffull = false → g'.ffull = true ∧ g'.fmore = g.fmore ∧
        g'.frec.head? = some (BitVec.ofNat 32 (cause * 2 ^ 24 + (x.cl.val % 128) * 2 ^ 8 + dieOf x.cl * 2 ^ 7 + b.sag)) ∧
        g'.frec[1]? = some (BitVec.ofNat 32 (16 * x.vu.val + lowLane (if x.act &&& b.live = 0 then b.live else x.act &&& b.live)))) ∧
      (g.ffull = true → g'.ffull = true ∧ g'.frec = g.frec ∧ g'.fmore = satBv g.fmore 1) ∧
      (∀ l ∈ (t.dev.thr b.sag).launches, l.id = b.launch → l.faulted = true) ∧
      Only (fun d e => { d with pwr := e.pwr, free := e.free, log := e.log, pci := e.pci, outs := e.outs
                                cmp := { d.cmp with mem := e.cmp.mem, cecc := e.cmp.cecc, vus := e.cmp.vus, sags := e.cmp.sags, thr := e.cmp.thr } }) s t

/-- sbar counts an arrival, and the arrival that reaches the count releases every bundle that waits; one whose count differs from the round's takes BARRIER_MISMATCH and is not counted, and one with a failed store to report takes POISON: 07_threads_ordering (R175), 07_threads_ordering (R176), 07_threads_ordering (R191). -/
def Obligations.SaggarBarrierArrives : Prop :=
  ∀ (s : State) (x : At) (b : Bundle) (k : Fin 16) (n : BitVec 16), Fetches s x b → b.sag < 128 → n ≠ 0 →
    s.dev.fenceOpen x false = true →
    let bar := Tab.look ⟨0, 0, 0⟩ (s.dev.thr b.sag).bars k
    let faults (t : State) (cause : Nat) : Prop :=
      (∃ b', t.dev.bundle x.cl x.vu = some b' ∧ b'.faulted = true ∧ b'.storePoison = false ∧ b'.waiting = .no ∧ b'.pc = x.pc ∧
        b'.live = b.live ∧ b'.vr = b.vr ∧ b'.mr = b.mr) ∧
      ((s.dev.sag b.sag).ffull = false → (t.dev.sag b.sag).frec.head? =
        some (BitVec.ofNat 32 (cause * 2 ^ 24 + (x.cl.val % 128) * 2 ^ 8 + dieOf x.cl * 2 ^ 7 + b.sag))) ∧
      (t.dev.thr b.sag).bars = (s.dev.thr b.sag).bars ∧
      Only (fun d e => { d with pwr := e.pwr, free := e.free, log := e.log, pci := e.pci, outs := e.outs
                                cmp := { d.cmp with mem := e.cmp.mem, cecc := e.cmp.cecc, vus := e.cmp.vus, sags := e.cmp.sags, thr := e.cmp.thr } }) s t
    (b.storePoison = true → Completes (.sbar x k n) s fun t => faults t 4) ∧
    (b.storePoison = false → bar.arrived ≠ 0 → bar.n ≠ n.toNat → Completes (.sbar x k n) s fun t => faults t 8) ∧
    (b.storePoison = false → bar.arrived = 0 ∨ bar.n = n.toNat → Completes (.sbar x k n) s fun t =>
      let bar' := Tab.look ⟨0, 0, 0⟩ (t.dev.thr b.sag).bars k
      (bar.arrived + 1 ≠ n.toNat →
        bar'.n = n.toNat ∧ bar'.arrived = bar.arrived + 1 ∧
          ∃ b', t.dev.bundle x.cl x.vu = some b' ∧ b'.waiting = .sbar k (x.act &&& b.live)) ∧
      (bar.arrived + 1 = n.toNat →
        bar'.arrived = 0 ∧ (∀ c v b', t.dev.bundle c v = some b' → b'.sag = b.sag → b'.waiting.atBar k = false) ∧
        ∀ y ∈ (t.dev.sag b.sag).saved, y.bundle.sag = b.sag → y.bundle.waiting.atBar k = false) ∧
      Only (fun d e => { d with pwr := e.pwr, free := e.free, log := e.log
                                cmp := { d.cmp with mem := e.cmp.mem, cecc := e.cmp.cecc, vus := e.cmp.vus, sags := e.cmp.sags, thr := e.cmp.thr } }) s t)

/-- cbar waits for the launch's other bundles on the cluster and releases them when the last one arrives or exits; exit ends the active lanes, or takes POISON where the bundle has a failed store to report: 07_threads_ordering (R174), 07_threads_ordering (R164), 07_threads_ordering (R191). -/
def Obligations.ClusterBarrierAndExit : Prop :=
  ∀ (s : State) (x : At) (b : Bundle), Fetches s x b → s.dev.noWaits = true →
    let act := x.act &&& b.live
    let other (v : Nat) (y : Bundle) : Prop := v < 4 ∧ v ≠ x.vu.val ∧ s.dev.bundle x.cl v = some y ∧ y.sag = b.sag ∧ y.launch = b.launch
    let arrived : Bool := (List.range 4).all fun v => v == x.vu.val || match s.dev.bundle x.cl v with
      | some y => y.sag ≠ b.sag || y.launch ≠ b.launch || y.live == 0 || y.waiting == .cbar
      | none => true
    (s.dev.fenceOpen x false = true → Completes (.cbar x) s fun t => t.mem = s.mem ∧
      t.dev.bundle x.cl x.vu = some { b with pc := x.pc, waiting := if arrived then .no else .cbar } ∧
      ∀ v y, other v y → t.dev.bundle x.cl v = some (if arrived && y.waiting == .cbar then resumeBundle y else y)) ∧
    (b.storePoison = false → Completes (.exit x) s fun t => t.mem = s.mem ∧
      t.dev.bundle x.cl x.vu = some { b with pc := x.pc, live := b.live &&& ~~~act } ∧
      ∀ v y, other v y → t.dev.bundle x.cl v =
        some (if arrived && b.live &&& ~~~act == 0 && y.waiting == .cbar then resumeBundle y else y)) ∧
    (b.storePoison = true → Completes (.exit x) s fun t => t.mem = s.mem ∧
      (∃ b', t.dev.bundle x.cl x.vu = some b' ∧ b'.faulted = true ∧ b'.storePoison = false ∧ b'.pc = x.pc ∧ b'.live = b.live) ∧
      ((s.dev.sag b.sag).ffull = false → (t.dev.sag b.sag).frec.head? =
        some (BitVec.ofNat 32 (4 * 2 ^ 24 + (x.cl.val % 128) * 2 ^ 8 + dieOf x.cl * 2 ^ 7 + b.sag))) ∧
      ∀ v y, other v y → t.dev.bundle x.cl v = some y)

/-- A fence that may complete passes; fence.p, fence.g, the issue of an operation or a launch, and a store to DMA.QPROD or THR.L0PROD report a failed store: 07_threads_ordering (R179), 07_threads_ordering (R184), 07_threads_ordering (R191). -/
def Obligations.FencesPassOrReport : Prop :=
  ∀ (s : State) (x : At) (b : Bundle), Fetches s x b → b.sag < 128 →
    let passes (t : State) : Prop := t.dev.bundle x.cl x.vu = some { b with pc := x.pc } ∧ OnlyBundle x s t
    let reports (t : State) : Prop := t.mem = s.mem ∧
      (∃ b', t.dev.bundle x.cl x.vu = some b' ∧ b'.faulted = true ∧ b'.storePoison = false) ∧
      ((s.dev.sag b.sag).ffull = false → (t.dev.sag b.sag).frec.head? =
        some (BitVec.ofNat 32 (4 * 2 ^ 24 + (x.cl.val % 128) * 2 ^ 8 + dieOf x.cl * 2 ^ 7 + b.sag)))
    (s.dev.fenceOpen x false = true → Completes (.fenceC x) s passes) ∧
    (s.dev.fenceOpen x false = true → Completes (.fenceP x) s fun t => if b.storePoison then reports t else passes t) ∧
    (s.dev.fenceOpen x true = true → Completes (.fenceG x) s fun t => if b.storePoison then reports t else passes t) ∧
    (b.storePoison = true → s.dev.noWaits = true →
      (∀ src : Fin 64, s.dev.memWaits x = false → s.dev.regBusy x.cl x.vu src = false → Completes (.lnch x src) s reports) ∧
      (∀ word : DWord, (sfxOf word.toNat).ok = true →
        [(sfxOf word.toNat).dst, (sfxOf word.toNat).src, (sfxOf word.toNat).gsrc].any (fun r => s.dev.regBusy x.cl x.vu r) = false →
        Completes (.sfx x word) s reports) ∧
      (∀ (a : MemArgs) (q : List (Piece × Place)), a.wf = true → b.memOut = 0 →
        Reaches s x b [a.reg] (.store (memBytes a.width)) (memPieces a (x.act &&& b.live)) q → (∃ p ∈ q, s.dev.posts (some p.2) = true) →
        Completes (.store x a) s reports) ∧
      ∀ (cmd : DWord) (c : Instr), s.dev.memWaits x = false → c ∈ [.tmma x cmd, .tread x cmd, .tclr x cmd, .smax x cmd, .smaxp x cmd,
        .smaxf x cmd, .rmsn x cmd, .mom x cmd, .mnorm x cmd, .topk x cmd, .form x cmd, .dissolve x cmd, .reduce x cmd, .allreduce x cmd,
        .bcast x cmd, .barrier x cmd] → Completes c s reports)

/-- wait suspends the bundle until its condition or its time; either way the result tells which. That it goes to element 4l of each active lane is the model's choice (log entry 43): 07_threads_ordering (R177). -/
def Obligations.WaitSuspendsAndTimesOut : Prop :=
  (∀ (s : State) (x : At) (b : Bundle) (addr : DWord) (cond : WaitCond) (v us : Word) (dst : Fin 64) (near : Bool) (pa : Nat) (w : W),
    Fetches s x b → s.dev.noWaits = true → s.dev.memWaits x = false → s.dev.regBusy x.cl x.vu dst = false →
    (s.fetched x b).access b.sag addr.toNat 4 .wait = (.ok (if near then .near pa else .hbm pa), w) →
    Completes (.wait x addr cond v us dst) s fun t => t.mem = s.mem ∧ OnlyBundle x s t ∧ ∃ b', t.dev.bundle x.cl x.vu = some b' ∧
      if waitHolds cond (leVal (s.mem.bytes (if near then .near else .hbm) pa 4)) v.toNat = true then
        b'.waiting = .no ∧ (∀ l < 16, (x.act &&& b.live).getLsbD l = true → b'.elem dst (4 * l) = 1) ∧
        ∀ r < 64, ∀ i < 64, ¬(r = dst.val ∧ i % 4 = 0 ∧ (x.act &&& b.live).getLsbD (i / 4) = true) → b'.elem r i = b.elem r i
      else b' = { b with pc := x.pc, waiting := .word near pa addr.toNat cond v (s.dev.now + 1000 * us.toNat) dst (x.act &&& b.live) }) ∧
  ∀ (s : State) (cl : Fin 256) (vu : Fin 4) (b : Bundle) (near : Bool) (pa va : Nat) (cond : WaitCond) (v : Word) (t : Nat) (dst : Nat)
    (act : BitVec 16), s.dev.bundle cl vu = some b → b.waiting = .word near pa va cond v t dst act → b.trap = .no → t ≤ s.dev.now →
    Completes (.waitTimeout cl vu) s fun s' => s'.mem = s.mem ∧ ∃ b', s'.dev.bundle cl vu = some b' ∧ b'.waiting = .no ∧
      (∀ l < 16, act.getLsbD l = true → b'.elem dst (4 * l) = 0) ∧
      ∀ k y nr p z c u q d a, y ∈ (s.dev.sag k).saved → y.cl = cl.val → y.vu = vu.val → y.bundle.trap = .no →
        y.bundle.waiting = .word nr p z c u q d a → q ≤ s.dev.now →
        ∃ y' ∈ (s'.dev.sag k).saved, y'.cl = y.cl ∧ y'.vu = y.vu ∧ y'.bundle.waiting = .no ∧
          ∀ l < 16, a.getLsbD l = true → y'.bundle.elem d (4 * l) = 0

/-- A vector instruction gives each element of an active lane its result and changes nothing else of the registers. The list of integer operations and their wrapping are the model's choice (log entry 12), and so is the fault ILLEGAL of a format that is reserved or does not suit (log entry 13): 02_element_formats (R40), 02_element_formats (R37), 07_threads_ordering (R157), 07_threads_ordering (R158), 07_threads_ordering (R171). -/
def Obligations.VectorArithmeticPerLane : Prop :=
  ∀ (s : State) (x : At) (b : Bundle) (a : VecArgs), Fetches s x b → b.sag < 128 →
    [a.dst, a.a, a.b, a.c].any (fun r => s.dev.regBusy x.cl x.vu r) = false →
    let act := x.act &&& b.live
    Completes (.vectorArithmetic x a) s fun t => t.mem = s.mem ∧ ∃ b', t.dev.bundle x.cl x.vu = some b' ∧
      match Fmt.ofCode a.fmt with
      | some f =>
        if vecFmtOk a.op f = true then
          (∀ i < 64, act.getLsbD (i / 4) = true →
            match vecKind a.op with
            | .float => b'.elem a.dst i = BitVec.ofNat 32 (vecFloat (s.dev.num b.sag).relaxed a.op f (RMode.ofField a.rm)
                (narrow f (b.elem a.a i)) (narrow f (b.elem a.b i)) (narrow f (b.elem a.c i))).code
            | .int => b'.elem a.dst i = vecInt a.op (b.elem a.a i) (b.elem a.b i)
            | .fcmp => (b'.mask a.mdst).getLsbD i =
                (vecFCmp (s.dev.num b.sag).relaxed a.op f (narrow f (b.elem a.a i)) (narrow f (b.elem a.b i))).1
            | .icmp => (b'.mask a.mdst).getLsbD i = vecICmp a.op (b.elem a.a i) (b.elem a.b i)) ∧
          (∀ r < 64, ∀ i < 64, ¬(r = a.dst.val ∧ act.getLsbD (i / 4) = true) → b'.elem r i = b.elem r i) ∧
          (∀ m, m ≠ a.mdst.val → b'.mask m = b.mask m) ∧ b'.faulted = b.faulted
        else b'.faulted = true
      | none => b'.faulted = true

/-- A vector conversion that passes its checks writes each active element's code and scale, raises its thread's flags, counts saturated and flushed elements, and raises the hint it names; one that does not takes the fault ILLEGAL (the model's choice, log entry 13). Where the scales of registers lie is the model's choice (log entry 38): 02_element_formats (R52), 02_element_formats (R53), 02_element_formats (R54), 02_element_formats (R55), 02_element_formats (R57), 02_element_formats (R58), 02_element_formats (R515). -/
def Obligations.VectorConversionPerLane : Prop :=
  ∀ (s : State) (x : At) (b : Bundle) (a : CvtArgs), Fetches s x b → b.sag < 128 →
    [a.dst, a.src, a.sdst].any (fun r => s.dev.regBusy x.cl x.vu r) = false →
    let act := x.act &&& b.live
    let relaxed := (s.dev.num b.sag).relaxed
    let g := s.dev.sag b.sag
    Completes (.vectorConversion x a) s fun t => t.mem = s.mem ∧ ∃ b', t.dev.bundle x.cl x.vu = some b' ∧
      match Fmt.ofCode a.sfmt, Fmt.ofCode a.dfmt, cvtInts a.i1 a.i2 with
      | some sf, some df, some ints =>
        if pathValid ints df = true ∧ ¬(df.isShort = true ∧ a.block = false ∧ a.gscale = 0xFF) then
          let conv (i : Nat) : Conv := cvtConv relaxed a sf df ints b act i
          b'.faulted = b.faulted ∧ b'.mr = b.mr ∧ b'.live = b.live ∧ b'.pc = x.pc ∧
          (∀ i < 64, act.getLsbD (i / 4) = true →
            (¬(df.isShort = true ∧ a.sdst = a.dst) → b'.elem a.dst i = BitVec.ofNat 32 (conv i).code) ∧
            (df.isShort = true → b'.elem a.sdst i = BitVec.ofNat 32 (cvtScale relaxed a sf df b act i))) ∧
          (∀ r < 64, ∀ i < 64, ¬(act.getLsbD (i / 4) = true ∧ (r = a.dst.val ∨ df.isShort = true ∧ r = a.sdst.val)) →
            b'.elem r i = b.elem r i) ∧
          (∀ l < 16, b'.flagsOf l = ((activeElems act).filter fun i => i / 4 = l).foldl (fun f i => f ||| flagBits (conv i).flags) (b.flagsOf l)) ∧
          t.dev.sag b.sag = { g with csat := satBv g.csat ((activeElems act).countP fun i => (conv i).sat)
                                     cflush := satBv g.cflush ((activeElems act).countP fun i => (conv i).flush) } ∧
          (t.dev.num b.sag).relaxed = relaxed ∧
          ∀ h, Tab.look 0 (t.dev.num b.sag).hint h =
            if a.hint = true ∧ h = a.hidx.val then
              BitVec.ofNat 31 (max (Tab.look 0 (s.dev.num b.sag).hint h).toNat
                (hintMax 0 ((activeElems act).map fun i => relaxIn relaxed sf (cvtSource a sf b i))))
            else Tab.look 0 (s.dev.num b.sag).hint h
        else b'.faulted = true
      | _, _, _ => b'.faulted = true

/-- A load whose checks pass puts each byte read on the chip into its place of the destination register, issues a host read for each run in host memory and a READ for each run at another chip. Word l of the 64-byte form for lane l and zeros above a short load are the model's choice (log entry 31): 07_threads_ordering (R178), 08_memory (R204), 09_host_dma (R225), 13_fabric (R340). -/
def Obligations.LoadsFillTheDestination : Prop :=
  ∀ (s : State) (x : At) (b : Bundle) (a : MemArgs) (q : List (Piece × Place)), a.wf = true → b.sag < 128 →
    Reaches s x b [a.reg] (.load (memBytes a.width)) (memPieces a (x.act &&& b.live)) q →
    (∀ p ∈ q, s.dev.performs b.sag p.2 = true) → s.dev.tagsFree (hostRuns q).length = true →
    let y : At := { x with act := x.act &&& b.live }
    let l := localRuns q
    Completes (.load x a .ok) s fun t => t.mem = s.mem ∧ OnlyAccess x q s t ∧
      t.dev.pci.reads.map (fun r => (r.fn, r.addr, r.len, r.use, r.since)) = s.dev.pci.reads.map (fun r => (r.fn, r.addr, r.len, r.use, r.since)) ++
        (hostRuns q).map (fun r => (s.dev.fnOf r.2.1, r.2.2, r.1.len, .load y a r.1.lane r.1.off, s.dev.now)) ∧
      Requests s t b.sag q (fun p => .load y a p.lane p.off) (fun p chip o => s.dev.mkPkt 2 chip (s.dev.viewTsag b.sag) b.sag 0 o p.len 0 [] false) ∧
      ∃ b', t.dev.bundle x.cl x.vu = some b' ∧
      b'.pc = x.pc ∧ b'.mr = b.mr ∧ b'.live = b.live ∧ b'.fflags = b.fflags ∧ b'.faulted = b.faulted ∧
      b'.memOut = b.memOut + (hostRuns q).length + (remoteRuns q).length ∧
      (∀ p ∈ l, ∀ i < p.1.len,
        (b'.elem a.reg (memElement a p.1.lane ((p.1.off + i) / 4))).toNat / 2 ^ (8 * ((p.1.off + i) % 4)) % 256 =
          (s.mem.byte p.2.1 (p.2.2 + i)).toNat) ∧
      (memBytes a.width < 4 → ∀ k < 16, (x.act &&& b.live).getLsbD k = true →
        (b'.elem a.reg (memElement a k 0)).toNat < 2 ^ (8 * memBytes a.width)) ∧
      ∀ r < 64, ∀ e < 64, ¬(r = a.reg.val ∧ ∃ p ∈ q, ∃ i < p.1.len, e = memElement a p.1.lane ((p.1.off + i) / 4)) →
        b'.elem r e = b.elem r e

/-- A store whose checks pass writes each active lane's bytes at its address and nothing else: on the chip, at the host by a write of its function, at another chip by a WRITE. Which bytes a lane stores in the 64-byte form is the model's choice (log entry 31): 07_threads_ordering (R178), 08_memory (R204), 09_host_dma (R225), 13_fabric (R340). -/
def Obligations.StoresWriteTheirBytes : Prop :=
  ∀ (s : State) (x : At) (b : Bundle) (a : MemArgs) (q : List (Piece × Place)), s.safe → a.wf = true → b.sag < 128 →
    Reaches s x b [a.reg] (.store (memBytes a.width)) (memPieces a (x.act &&& b.live)) q →
    (∀ p ∈ q, s.dev.performs b.sag p.2 = true) →
    let y : At := { x with act := x.act &&& b.live }
    let l := localRuns q ++ (hostRuns q).map fun r => (r.1, Space.host, r.2.2)
    Completes (.store x a) s fun t => OnlyAccess x q s t ∧ t.dev.pci = s.dev.pci ∧
      t.dev.bundle x.cl x.vu = some { b with pc := x.pc, memOut := b.memOut + (remoteRuns q).length } ∧
      (remoteRuns q = [] → t.dev.outs = ((hostRuns q).map fun r =>
        let dest := s.dev.sentAddr (s.dev.fnOf r.2.1) r.2.2 true
        Out.hostWrite (s.dev.fnOf r.2.1) dest.1 dest.2 (b.storeBytes a r.1)).reverse ++ s.dev.outs) ∧
      Requests s t b.sag q (fun _ => .store y) (fun p chip o => s.dev.mkPkt 1 chip (s.dev.viewTsag b.sag) b.sag 0 o 0 0 (b.storeBytes a p) false) ∧
      (∀ sp z, outside sp z l → t.mem.byte sp z = s.mem.byte sp z) ∧
      ∀ l1 p sp pa l2, (q.filterMap fun p => match p.2 with | .host _ h => some (p.1, Space.host, h) | r => r.local?.map fun z => (p.1, z)) =
        l1 ++ (p, sp, pa) :: l2 → ∀ i < p.len, outside sp (pa + i) l2 → some (t.mem.byte sp (pa + i)) = (b.storeBytes a p)[i]?

/-- Each of the thirteen atomics reads the old value and leaves its operation's value, lane after lane, on the chip; for a lane at another chip it sends an ATOMIC there. The elements of a lane that atomics take and give, and the old value for every operation but the store, are the model's choice (log entry 31): 07_threads_ordering (R180), 07_threads_ordering (R181), 13_fabric (R340). -/
def Obligations.AtomicsPerform : Prop :=
  ∀ (s : State) (x : At) (b : Bundle) (op : AmoOp) (a : AmoArgs) (q : List (Piece × Place)), s.safe → a.wf = true → b.sag < 128 →
    (op = .fadd → a.size64 = false) → (amoRelease a = true → s.dev.fenceOpen x (a.scope == 2) = true ∧ b.storePoison = false) →
    Reaches s x b [a.dst, a.src, a.cmp] (.amo (if a.size64 then 8 else 4) (amoReads op) (amoWrites op))
      ((lanesOf (x.act &&& b.live)).map fun k => ⟨k, 0, (a.addrs.getD k 0).toNat, if a.size64 then 8 else 4⟩) q →
    (∀ p ∈ q, s.dev.performs b.sag p.2 = true ∧ ∀ v h, p.2 ≠ .host v h) →
    let y : At := { x with act := x.act &&& b.live }
    let value (r : Fin 64) (p : Piece) : List Byte := leBytes p.len (b.amoVal r p.lane a.size64)
    Completes (amoInstr op x a) s fun t => OnlyAccess x q s t ∧
      (∃ b', t.dev.bundle x.cl x.vu = some b' ∧ (t.mem, b') = amoLanes op a b q (s.mem, { b with pc := x.pc })) ∧
      Requests s t b.sag q (fun p => .amo y a p.lane) (fun p chip o => s.dev.mkPkt 3 chip (s.dev.viewTsag b.sag) b.sag 0 o (amoArg op a) 0
        ((if op = .load then [] else value a.src p) ++ (if op = .cas then value a.cmp p else [])) false) ∧
      ∀ sp z, outside sp z (localRuns q) → t.mem.byte sp z = s.mem.byte sp z

/-- A load or store whose checks fail takes the fault of the first failing run and performs nothing. That all lanes are checked before any is performed is the model's choice (log entry 31): 08_memory (R211), 07_threads_ordering (R171), 95_what_each_step_holds (R514). -/
def Obligations.MemoryInstructionsFault : Prop :=
  ∀ (s : State) (x : At) (b : Bundle) (a : MemArgs) (c : Instr) (u : Use) (f : AFault) (addr : Nat) (w : W), a.wf = true →
    Fetches s x b → b.sag < 128 → s.dev.noWaits = true → s.dev.memWaits x = false → s.dev.regBusy x.cl x.vu a.reg = false →
    (c = .load x a .ok ∧ u = .load (memBytes a.width) ∨ c = .store x a ∧ u = .store (memBytes a.width)) →
    W.resolve (s.fetched x b) b.sag u (memPieces a (x.act &&& b.live)) [] = (.fault f addr, w) →
    Completes c s fun t => t.mem = s.mem ∧
      (∃ b', t.dev.bundle x.cl x.vu = some b' ∧ b'.faulted = true ∧ b'.pc = x.pc ∧ b'.vr = b.vr ∧ b'.mr = b.mr) ∧
      let words := (t.dev.sag b.sag).frec
      (s.dev.sag b.sag).ffull = false → (t.dev.sag b.sag).ffull = true ∧
        words.head? = some (BitVec.ofNat 32 ((match f with | .mem k => 3 * 2 ^ 24 + k * 2 ^ 16 | .align => 5 * 2 ^ 24 | .illegalTarget => 6 * 2 ^ 24) +
          (x.cl.val % 128) * 2 ^ 8 + dieOf x.cl * 2 ^ 7 + b.sag)) ∧
        words[4]? = some (BitVec.ofNat 32 addr) ∧ words[5]? = some (BitVec.ofNat 32 (addr / 2 ^ 32))

/-- What writing en and kill in SAG.CTL does, in each state of the saggar. That the waiting SFU requests of saved bundles go to their vector units at a kill is the model's choice (log entry 40): 07_threads_ordering (R165), 07_threads_ordering (R166). -/
def Obligations.SaggarControlRegister : Prop :=
  ∀ (s : State) (k : Fin 128),
    let g := s.dev.sag k
    let h := s.dev.thr k
    let rest (t : State) : Prop := (∀ j ≠ k.val, t.dev.sag j = s.dev.sag j ∧ t.dev.thr j = s.dev.thr j) ∧
      Only (fun d e => { d with cmp := { d.cmp with sags := e.cmp.sags, thr := e.cmp.thr } }) s t
    let killed : List Launch := h.launches.map fun l => { l with killed := true }
    (∀ ag : Agent, s.dev.serves ag (.view k true) = true →
      Completes (.saggarEnable ag k) s (fun t => rest t ∧
        (g.st = .off → t.dev.sag k = { g with st := .running, en := true } ∧ t.dev.thr k = { h with lastRing := 1 }) ∧
        (g.st = .draining → t.dev.sag k = { g with st := .running, en := true } ∧ t.dev.thr k = h) ∧
        (g.st = .running ∨ g.st = .killing → t = s)) ∧
      Completes (.saggarDisable ag k) s (fun t => rest t ∧ t.dev.thr k = h ∧
        (g.st = .running → t.dev.sag k = { g with st := if s.dev.sagBusy k then .draining else .off, en := false }) ∧
        (g.st ≠ .running → t = s)) ∧
      Completes (.saggarKill ag k) s (fun t => t.mem = s.mem ∧ (g.st = .killing → t = s) ∧
        (g.st ≠ .killing → (t.dev.sag k).st = .killing ∧ t.dev.thr k = { h with launches := killed } ∧
          (∀ x ∈ (t.dev.sag k).saved, x.sfuQ = []) ∧ (t.dev.sag k).saved.length = g.saved.length ∧
          ((∀ x ∈ g.saved, x.sfuQ = []) → rest t ∧ t.dev.sag k = { g with st := .killing }) ∧
          ∀ x, g.saved = [x] → x.sfuQ ≠ [] → (s.dev.cl x.cl).online = true →
            (t.dev.vu x.cl x.vu).sfuQ = (s.dev.vu x.cl x.vu).sfuQ ++ x.sfuQ))) ∧
    (g.st = .killing → s.dev.sagQuiet k = true → h.launches = [] → s.dev.launchReading k = false →
      h.r0.ready = false → h.r1.ready = false →
      Completes (.saggarKillDone k) s fun t => t.mem = s.mem ∧ (t.dev.sag k).st = .off ∧ (t.dev.sag k).en = false ∧
        (t.dev.sag k).saved = [] ∧ (t.dev.sag k).owed = [] ∧ t.dev.thr k = { h with bars := [] } ∧
        (g.owed = [] → t.dev.sag k = { g with st := .off, en := false, saved := [] }) ∧
        (∀ c v b, t.dev.bundle c v = some b → b.sag ≠ k.val) ∧ t.dev.cmp.rowOps = s.dev.cmp.rowOps)

/-- Acknowledging a fault record terminates the bundles it halted; acknowledging a trap resumes or terminates the bundle it names: 07_threads_ordering (R171), 07_threads_ordering (R172), 07_threads_ordering (R173). -/
def Obligations.FaultAndTrapRecordsAreAcknowledged : Prop :=
  ∀ (s : State) (ag : Agent) (k : Fin 128), s.dev.serves ag (.view k false) = true →
    let g := s.dev.sag k
    let frame (t : State) : Prop :=
      Only (fun d e => { d with cmp := { d.cmp with sags := e.cmp.sags, vus := e.cmp.vus, thr := e.cmp.thr } }) s t
    Completes (.faultAck ag k) s (fun t => frame t ∧ (g.ffull = false → t = s) ∧
      (g.ffull = true → (t.dev.sag k).ffull = false ∧ (t.dev.sag k).fmore = 0 ∧ (t.dev.sag k).frec = List.replicate 8 0 ∧
        ∀ c v b, s.dev.bundle c v = some b → b.sag = k.val → b.faulted = true → b.trap = .no →
          ∃ b', t.dev.bundle c v = some b' ∧ b'.faulted = false ∧ b'.term = true ∧ b'.live = 0)) ∧
    Completes (.trapAckResume ag k) s (fun t => frame t ∧ (g.tfull = false → t = s) ∧
      (g.tfull = true → (t.dev.sag k).tfull = false ∧ (t.dev.sag k).trec = List.replicate 8 0 ∧
        ∀ i, g.twho = some i → ∀ c v b, s.dev.bundle c v = some b → i.owns b = true → b.trap = .halted → b.term = false →
          ∃ b', t.dev.bundle c v = some b' ∧ b'.trap = .no ∧ b'.live = b.live)) ∧
    Completes (.trapAckTerminate ag k) s (fun t => frame t ∧ (g.tfull = false → t = s) ∧
      (g.tfull = true → (t.dev.sag k).tfull = false ∧ (t.dev.sag k).trec = List.replicate 8 0 ∧
        ∀ i, g.twho = some i → ∀ c v b, s.dev.bundle c v = some b → i.owns b = true → b.trap = .halted → b.faulted = false →
          (∃ b', t.dev.bundle c v = some b' ∧ b'.trap = .no ∧ b'.term = true ∧ b'.live = 0) ∧
          ∀ l ∈ (t.dev.thr k).launches, l.id = i.launch → l.nanHalted = true))

/-- SAG.CCLR clears one counter; SAG.PACK acknowledges the entry whose first word is written and reopens its channel: 07_threads_ordering (R170), 07_threads_ordering (R192). -/
def Obligations.CountersAndPoisonEntriesAreCleared : Prop :=
  ∀ (s : State) (ag : Agent) (k : Fin 128), s.dev.serves ag (.view k false) = true →
    let g := s.dev.sag k
    let rest (t : State) : Prop := (∀ j ≠ k.val, t.dev.sag j = s.dev.sag j) ∧
      Only (fun d e => { d with cmp := { d.cmp with sags := e.cmp.sags }, dma := { d.dma with qs := e.dma.qs } }) s t
    Completes (.counterClearSat ag k) s (fun t => rest t ∧ t.dev.sag k = { g with csat := 0 } ∧ t.dev.dma = s.dev.dma) ∧
    Completes (.counterClearFlush ag k) s (fun t => rest t ∧ t.dev.sag k = { g with cflush := 0 } ∧ t.dev.dma = s.dev.dma) ∧
    ∀ v : Word, Completes (.poisonAck ag k v) s fun t => rest t ∧
      ((∀ p ∈ g.poison, p.word ≠ v.toNat) → t.dev.sag k = g ∧ t.dev.dma = s.dev.dma) ∧
      ∀ l1 p l2, g.poison = l1 ++ p :: l2 → p.word = v.toNat → (∀ q ∈ l1, q.word ≠ v.toNat) →
        t.dev.sag k = { g with poison := l1 ++ l2 } ∧ (∀ q, ¬(p.kind = 1 ∧ q = p.unit) → t.dev.q q = s.dev.q q) ∧
        (p.kind = 1 → t.dev.q p.unit = { s.dev.q p.unit with episode := false, fail := false, fetchFail := false })

/-- Posting to launch ring 0, posting to ring 1 by lnch, clearing THR.LERR. That elements 0-15 are the descriptor, little-endian, and that an inactive lane's bytes are open, is the model's choice (log entry 21): 07_threads_ordering (R162), 07_threads_ordering (R161), 07_threads_ordering (R197). -/
def Obligations.LaunchRingsPostAndUnhalt : Prop :=
  ∀ (s : State),
    (∀ (ag : Agent) (k : Fin 128) (v : Word), s.dev.serves ag (.view k false) = true →
      let h := s.dev.thr k
      let rest (t : State) : Prop := (∀ j ≠ k.val, t.dev.thr j = s.dev.thr j) ∧
        Only (fun d e => { d with cmp := { d.cmp with thr := e.cmp.thr } }) s t
      let p : BitVec 16 := v.truncate 16
      Completes (.l0prodWrite ag k v) s (fun t => rest t ∧ t.dev.thr k =
        if p = h.r0.prod then h
        else if h.r0.entries < (p - h.r0.cons).toNat ∨ (p - h.r0.cons).toNat < h.r0.held then { h with overd := true }
        else { h with r0 := { h.r0 with prod := p } }) ∧
      Completes (.launchRingUnhalt ag k v) s fun t => rest t ∧ t.dev.thr k =
        { h with overd := h.overd && !v.getLsbD 0, norec := h.norec && !v.getLsbD 1
                 r0 := { h.r0 with halt := h.r0.halt && !v.getLsbD 2 }, r1 := { h.r1 with halt := h.r1.halt && !v.getLsbD 3 } }) ∧
    ∀ (x : At) (b : Bundle) (src : Fin 64), Fetches s x b → b.storePoison = false → s.dev.noWaits = true → s.dev.memWaits x = false →
      s.dev.regBusy x.cl x.vu src = false →
      let r := (s.dev.thr b.sag).r1
      let act := x.act &&& b.live
      let seed := (s.fetched x b).dev.free
      let desc := lnchDesc b src act seed
      (∀ i < 16, act.getLsbD (i / 4) = true → (desc.drop (4 * i)).take 4 = leBytes 4 (b.elem src i).toNat) ∧
      (r.held ≥ r.entries → Completes (.lnch x src) s fun t => OnlyBundle x s t ∧
        t.dev.bundle x.cl x.vu = some { b with pc := x.pc, waiting := .ring desc act }) ∧
      ∀ p sp pa w, r.held < r.entries →
        W.access { s.fetched x b with dev := { (s.fetched x b).dev with free := seed + 16 } } b.sag (r.entryAddr r.prod.toNat) 64 .post = (.ok p, w) → p.local? = some (sp, pa) →
        Completes (.lnch x src) s fun t => t.mem = s.mem.apply1 (.bytes sp pa desc) ∧
          t.dev.thr b.sag = { s.dev.thr b.sag with r1 := { r with prod := r.prod + 1 } } ∧
          t.dev.bundle x.cl x.vu = some { b with pc := x.pc } ∧ ∀ j ≠ b.sag, t.dev.thr j = s.dev.thr j

/-- The hub takes a descriptor, dispatches its bundles and frees their vector units; a barrier times out. That a terminated bundle's flags stay out of its launch is the model's choice (log entry 42): 07_threads_ordering (R161), 07_threads_ordering (R163), 07_threads_ordering (R164), 07_threads_ordering (R176). -/
def Obligations.LaunchesAreTakenAndDispatched : Prop :=
  ∀ (s : State) (k : Fin 128), s.dev.noStall = true →
    let h := s.dev.thr k
    (∀ (r : Nat) (p : Place) (w : W) (sp : Space) (pa : Nat) (ecc : List Ecc), (s.dev.sag k).st = .running → s.dev.launchReading k = false → h.pick = some r →
      (s.work.bring ecc).access k ((h.ring r).entryAddr (h.ring r).cons.toNat) 64 .ring = (.ok p, w) → p.local? = some (sp, pa) →
      leAt (s.mem.bytes sp pa 64) 0x30 8 % 16 = 0 → descBad (s.mem.bytes sp pa 64) = false →
      Completes (.launchTake ⟨k, ecc⟩) s fun t => t.mem = s.mem ∧
        t.dev.thr k = { h.setRing r { h.ring r with cons := (h.ring r).cons + 1, last := some s.dev.cmp.nextId } with
          lastRing := r, launches := h.launches ++ [launchOf s.dev.cmp.nextId r (h.ring r).last (s.mem.bytes sp pa 64)] }) ∧
    (∀ l cl vu, (s.dev.sag k).st = .running → s.dev.toResume k = none → h.current = some l → s.dev.placeFor k l.pack = some (cl, vu) →
      Completes (.bundleDispatch k) s fun t => t.mem = s.mem ∧
        (∃ b, t.dev.bundle cl vu = some b ∧ b.sag = k.val ∧ b.launch = l.id ∧ b.bix = l.next ∧ b.pc = l.entry ∧ b.waiting = .no ∧
          b.faulted = false ∧ ∀ i < 16, b.live.getLsbD i = decide (16 * l.next + i < l.nthr)) ∧
        t.dev.thr k = { h with launches := h.launches.map fun x =>
          if x.id = l.id then { x with next := x.next + 1, running := x.running + 1 } else x }) ∧
    (∀ (cl : Fin 256) (vu : Fin 4) (b : Bundle) (l : Launch), s.dev.bundle cl vu = some b → b.sag = k.val →
      s.dev.launchOf k b.launch = some l → b.live = 0 → b.memOut = 0 → b.asyncOut = 0 → b.trap = .no → b.faulted = false →
      b.storePoison = false → b.owes = [] → (s.dev.cl cl).switching = none → s.dev.admits cl = true →
      ({ l with running := l.running - 1 } : Launch).ended = false →
      Completes (.bundleExit cl vu) s fun t => t.mem = s.mem ∧ t.dev.bundle cl vu = none ∧
        (t.dev.thr k).launches = h.launches.map fun x => if x.id = l.id then
          { l with running := l.running - 1, done := if b.term then l.done else satAdd 32 l.done 1
                   fflags := if b.term then l.fflags else l.fflags ||| b.allFlags } else x) ∧
    ∀ n : Fin 16,
      let bar := Tab.look ⟨0, 0, 0⟩ h.bars n
      let due := h.barto ≠ 0 ∧ bar.arrived ≠ 0 ∧ bar.since + 1000 * h.barto.toNat ≤ s.dev.now
      Completes (.barrierTimeout k n) s fun t => (¬due → t = s) ∧
        (due → t.mem = s.mem ∧ Tab.look ⟨0, 0, 0⟩ (t.dev.thr k).bars n = ⟨0, 0, 0⟩ ∧
          ∀ c v b, v < 4 → s.dev.bundle c v = some b → b.sag = k.val → b.waiting.atBar n = true →
            ∃ b', t.dev.bundle c v = some b' ∧ b'.faulted = true ∧ b'.waiting = .no)

/-- A tensor command that passes its issue checks joins the tensor queue, and so does a tread whose descriptor cannot be read (the model's choice, log entry 14); one that fails its checks is answered with its record. That a tread is checked against the slot as the queued operations will leave it (log entry 15), that the record of a rejected operation is written at once (log entry 38), and that the command's op field decides whichever row brings it (log entry 16), are the model's choice: 03_accumulation (R62), 03_accumulation (R63), 03_accumulation (R64), 03_accumulation (R79), 95_what_each_step_holds (R513). -/
def Obligations.TensorCommandsAreQueuedOrRejected : Prop :=
  ∀ (s : State) (x : At) (b : Bundle) (cmd : DWord) (c : Instr) (l : List Byte) (w : W),
    c = .tmma x cmd ∨ c = .tread x cmd ∨ c = .tclr x cmd →
    s.dev.noWaits = true → ReadsCommand s x b cmd.toNat 64 l w →
    let k := tcmdOf l
    let cl := s.dev.cl x.cl
    let who := issuerOf x b (x.act &&& b.live)
    let status := tmmaStatus k (s.dev.sag b.sag).tq.toNat (cl.slotThen k.slot)
    let epi := [(Use.operand false, k.a18, 64)]
    let reads := cmd.toNat % 64 = 0 ∧ k.op = 2 ∧ k.raw = false ∧ k.a18 % 64 = 0 ∧ w.unblocked b.sag epi
    (∀ (q : List Byte) (fail : Option Nat),
      (cmd.toNat % 64 = 0 ∧ fail = none ∧ q = l ∧
        (k.op = 1 ∧ status = 0 ∨ k.op = 3 ∨ k.op = 2 ∧ (cl.slotThen k.slot).isSome = true ∧ k.raw = true)) ∨
      (reads ∧ ∃ kind e w', cl.slotThen k.slot = some kind ∧ w.fetchVa b.sag k.a18 64 (.operand false) = (.bytes e, w') ∧
        epiStatus w'.dev cl (s.dev.modeOf b.sag) k (epiOf e) kind = 0 ∧ fail = none ∧ q = l ++ e) ∨
      (reads ∧ (cl.slotThen k.slot).isSome = true ∧ q = l ∧
        ((∃ cause va w', w.fetchVa b.sag k.a18 64 (.operand false) = (.fail cause va, w') ∧ fail = some 0x11) ∨
          ∃ w', w.fetchVa b.sag k.a18 64 (.operand false) = (.cut, w') ∧ fail = some 0x12)) →
      Completes c s fun t => t.mem = s.mem ∧
        (t.dev.cl x.cl).tq = cl.tq ++ [⟨s.dev.cmp.nextId, who, q, s.dev.modeOf b.sag, none, fail⟩] ∧ (t.dev.cl x.cl).slots = cl.slots ∧
        (∀ j ≠ x.cl.val, t.dev.cl j = s.dev.cl j) ∧
        t.dev.bundle x.cl x.vu = some { b with pc := x.pc, asyncOut := b.asyncOut + 1 }) ∧
    ∀ st (w' : W),
      (w' = w ∧ (cmd.toNat % 64 ≠ 0 ∧ st = 6 ∨ cmd.toNat % 64 = 0 ∧
        (k.op = 1 ∧ st = status ∧ st ≠ 0 ∨ k.op ≠ 1 ∧ k.op ≠ 2 ∧ k.op ≠ 3 ∧ st = 2 ∨ k.op = 2 ∧ cl.slotThen k.slot = none ∧ st = 0x0B ∨
          k.op = 2 ∧ (cl.slotThen k.slot).isSome = true ∧ k.raw = false ∧ k.a18 % 64 ≠ 0 ∧ st = 6))) ∨
      (reads ∧ ∃ kind e, cl.slotThen k.slot = some kind ∧ w.fetchVa b.sag k.a18 64 (.operand false) = (.bytes e, w') ∧
        st = epiStatus w'.dev cl (s.dev.modeOf b.sag) k (epiOf e) kind ∧ st ≠ 0) →
      w'.unblocked b.sag [(.record, k.recA, 16)] →
      Completes c s fun t => t.mem = (s.after (w'.record b.sag k.recA (w'.dev.tensorRecBytes who k st 0 0))).mem ∧
        t.dev.cmp.clusters = s.dev.cmp.clusters

/-- The tmma, tread or tclr at the head of a tensor queue takes effect, counts, writes its record and leaves the queue: 03_accumulation, 02_element_formats. -/
def Obligations.TensorOperationsTakeEffect : Prop :=
  ∀ (s : State) (cl : Fin 256) (t : TqEntry) (c : TCmd),
    let k := t.who.sag
    let g := s.dev.sag k
    let old := (s.dev.cl cl).slot c.slot
    let pops (u : State) (keep : Nat → Prop) : Prop := (u.dev.cl cl).tq = (s.dev.cl cl).tq.tail ∧
      ∀ j, keep j → (u.dev.cl cl).slot j = (s.dev.cl cl).slot j
    let counts (u : State) (sat flush : Nat) : Prop :=
      (u.dev.sag k).csat = satBv g.csat sat ∧ (u.dev.sag k).cflush = satBv g.cflush flush
    let trapped (made : Bool) : Nat := if made && s.dev.trapOpen k then 0x10 else 0
    let freed (w : W) : W := if c.free then w.setSlot cl c.slot .free else w
    (∀ st, s.dev.tqHead cl 2 = some (t, c) → t.fail = some st → (s.opWork 2 cl [.record (.tensor cl)]).unblocked k [(.record, c.recA, 16)] →
      Completes (.treadDone cl .ok) s fun u => pops u (fun _ => True) ∧ counts u 0 0 ∧
        u.mem = (s.after ((s.opWork 2 cl [.record (.tensor cl)]).tensorRecord t.who c st 0 0)).mem) ∧
    (t.fail = none →
    (∀ f ls w, s.dev.tqHead cl 1 = some (t, c) → Fmt.ofCode c.fmt = some f → ¬(old.bad = true ∧ c.acc = true) →
      let sig := sigSize c.sig16
      let ra := operandRows f c.k c.a08 c.rowStride c.a10 c.aScale sig
      let rb := operandRows f c.k c.a18 c.colStride c.a20 c.bScale sig
      (s.opWork 1 cl [.record (.tensor cl)]).unblocked k ((.record, c.recA, 16) :: (ra ++ rb).map fun r => (.operand false, r.1, r.2)) →
      (s.opWork 1 cl [.record (.tensor cl)]).fetchMany k (.operand false) (ra ++ rb) [] = (.ok ls, w) →
      let m (r j : Nat) : MacRes := macElem f c.bexo c.sig16 c.wrap (if c.acc then old.pairs.getD (32 * r + j) (0, 0) else (0, 0))
        (operandVals f c.k sig (ls.take ra.length) r) (operandVals f c.k sig (ls.drop ra.length) j)
      let some? (p : MacRes → Bool) : Bool := (List.range 1024).any fun i => p (m (i / 32) (i % 32))
      let count (p : MacRes → Bool) : Nat := (List.range 1024).countP fun i => p (m (i / 32) (i % 32))
      Completes (.tmmaDone cl .ok) s fun u => pops u (· ≠ c.slot) ∧
        let new := (u.dev.cl cl).slot c.slot
        new.live = true ∧ new.kind = c.kind ∧ new.bad = false ∧ new.pairs.length = 1024 ∧
        (∀ r < 32, ∀ j < 32, new.pairs[32 * r + j]? = some ((m r j).s, (m r j).e)) ∧
        (∀ i : Fin 4, new.flags.getLsbD i = true ↔ (c.acc = true ∧ old.flags.getLsbD i = true) ∨
          some? (match i with | 0 => MacRes.nan | 1 => MacRes.sat | 2 => MacRes.flush | 3 => MacRes.wrap) = true) ∧
        counts u (count MacRes.sat) (count MacRes.flush) ∧
        Records s u w t.who c (trapped (some? fun r => r.firstNaN.isSome)) (count MacRes.sat) (count MacRes.flush)) ∧
    (∀ w, s.dev.tqHead cl 2 = some (t, c) → s.dev.batchesLeft cl true t.id = false → c.raw = true → old.bad = false →
      (s.opWork 2 cl [.record (.tensor cl)]).unblocked k ((.record, c.recA, 16) :: (treadRanges c 256 0).map fun r => (.operand true, r.1, r.2)) →
      (s.opWork 2 cl [.record (.tensor cl)]).storeMany k (.operand true) ((List.range 32).map fun r => (c.a08 + r * c.rowStride,
        ((old.pairs.drop (32 * r)).take 32).flatMap fun p => leBytes 4 p.1.toNat ++ leBytes 4 p.2.toNat)) = (.ok (), w) →
      Completes (.treadDone cl .ok) s fun u => pops u (· ≠ c.slot) ∧
        (u.dev.cl cl).slot c.slot = (if c.free then .free else old) ∧ counts u 0 0 ∧
        u.mem = (s.after ((freed w).tensorRecord t.who c 0 0 0)).mem) ∧
    (∀ ls w w', s.dev.tqHead cl 2 = some (t, c) → s.dev.batchesLeft cl true t.id = false → c.raw = false → old.bad = false →
      let e := epiOf (t.cmd.drop 64)
      let dst := (Fmt.ofCode e.dfmt).getD .b32
      let ints := (epiInts e).getD []
      let reads := (epiVectors e).filterMap fun a => a.map fun a => (a, 128)
      let es := w.treadElems cl t c e dst ints (fillVecs (epiVectors e) ls)
      let rows := treadRows t.mode.relaxed e dst ints es
      let sat := ((es.map EpiElem.sat).zip (rows.flatMap RowOut.sats)).countP fun x => x.1 || x.2
      let flush := ((es.map EpiElem.flush).zip (rows.flatMap RowOut.flushes)).countP fun x => x.1 || x.2
      (e.gate = true → ((s.dev.cl cl).slot e.gslot).bad = false) →
      ¬(e.act = true ∧ s.dev.tablesFail cl (t.tablesIn s.dev cl) = true) →
      (s.opWork 2 cl [.record (.tensor cl)]).unblocked k ((.record, c.recA, 16) :: (reads.map fun r => (.operand false, r.1, r.2)) ++
        (treadRanges c (dst.packedBytes 32) (if dst.isShort then 32 / sigSize e.sig16 else 0)).map fun r => (.operand true, r.1, r.2)) →
      (s.opWork 2 cl [.record (.tensor cl)]).fetchMany k (.operand false) reads [] = (.ok ls, w) →
      w.storeMany k (.operand true) (treadWrites c dst rows) = (.ok (), w') →
      Completes (.treadDone cl .ok) s fun u => pops u (fun j => j ≠ c.slot ∧ j ≠ e.gslot) ∧
        (u.dev.cl cl).slot c.slot = (if c.free then .free else { old with flags := old.flags |||
          (if es.any EpiElem.tileSat || (es.any EpiElem.gateSat && e.gslot == c.slot) then 2 else 0) }) ∧
        (e.gslot ≠ c.slot → (u.dev.cl cl).slot e.gslot = { (s.dev.cl cl).slot e.gslot with
          flags := ((s.dev.cl cl).slot e.gslot).flags ||| (if es.any EpiElem.gateSat then 2 else 0) }) ∧
        (∀ h, Tab.look 0 (u.dev.num k).hint h = if e.hint = true ∧ h = e.hidx then
            BitVec.ofNat 31 (max (Tab.look 0 (s.dev.num k).hint h).toNat
              (hintMax 0 (es.map fun x => relaxIn t.mode.relaxed (e.source dst ints) x.v)))
          else Tab.look 0 (s.dev.num k).hint h) ∧
        counts u sat flush ∧ RaisedFor s u t.who (Flags.all (es.map EpiElem.flags)) ∧
        Records s u w' t.who c (trapped (es.any EpiElem.made)) sat flush) ∧
    (s.dev.tqHead cl 3 = some (t, c) → (s.opWork 3 cl []).unblocked k [(.record, c.recA, 16)] →
      Completes (.tclrDone cl) s fun u => pops u (· ≠ c.slot) ∧ (u.dev.cl cl).slot c.slot = .free ∧ counts u 0 0 ∧
        u.mem = (s.after (((s.opWork 3 cl []).modCl cl fun x => { x with slots := Tab.del x.slots c.slot }).tensorRecord t.who c 0 0 0)).mem))

/-- sfx requests, grants by a free SFU, the end of a request, and the switch to the shadow bank: 04_special_functions, 05_curve_tables. -/
def Obligations.SpecialFunctionRequests : Prop :=
  (∀ (s : State) (x : At) (b : Bundle) (word : DWord), Fetches s x b → b.sag < 128 → b.storePoison = false →
    let i := sfxOf word.toNat
    [i.dst, i.src, i.gsrc].any (fun r => s.dev.regBusy x.cl x.vu r) = false →
    let act := x.act &&& b.live
    let bank := (s.dev.cl x.cl).bank
    let st := sfxStatus s.dev bank (s.dev.modeOf b.sag) i
    let f := (Fmt.ofCode i.ifmt).getD .b32
    Completes (.sfx x word) s fun t => t.mem = s.mem ∧ ∃ b', t.dev.bundle x.cl x.vu = some b' ∧
      (i.ok = true → st = 0 → b' = { b with pc := x.pc, asyncOut := b.asyncOut + 1 } ∧
        (t.dev.vu x.cl x.vu).sfuQ = (s.dev.vu x.cl x.vu).sfuQ ++
          [⟨.sfx word act ((List.range 64).map fun e => narrow f (b.elem i.src e)) ((List.range 64).map fun e => narrow f (b.elem i.gsrc e)),
            issuerOf x b act, s.dev.modeOf b.sag, s.dev.tables bank (selOf i.func), s.dev.now⟩]) ∧
      (i.ok = false ∨ st ≠ 0 → b'.faulted = true ∧ b'.vr = b.vr ∧ (t.dev.vu x.cl x.vu).sfuQ = (s.dev.vu x.cl x.vu).sfuQ ∧
        ((s.dev.sag b.sag).ffull = false → (t.dev.sag b.sag).frec.head? = some (BitVec.ofNat 32
          ((if i.ok then 2 * 2 ^ 24 + st * 2 ^ 16 else 1 * 2 ^ 24) + (x.cl.val % 128) * 2 ^ 8 + dieOf x.cl * 2 ^ 7 + b.sag))))) ∧
  (∀ (s : State) (cl : Fin 256) (u : Fin 2) (v : Nat) (override : Bool) (r : SfuReq) (q : List SfuReq),
    s.dev.mayGrant cl u = true → s.dev.grantee cl u = some (v, override) →
    (s.dev.vu cl v).sfuQ = r :: q →
    Completes (.sfuGrant cl u) s fun t => t.mem = s.mem ∧ (t.dev.cl cl).sfu u = ⟨some (v, r, s.dev.grantTables cl r), v⟩ ∧
      (t.dev.cl cl).tq = (match r.job with
        | .batch true id _ => (s.dev.cl cl).tq.map fun x => if x.id = id then { x with tables := some (s.dev.grantTables cl r) } else x
        | _ => (s.dev.cl cl).tq) ∧
      (t.dev.cl cl).ovr = (if override then satBv (s.dev.cl cl).ovr 1 else (s.dev.cl cl).ovr) ∧
      (t.dev.vu cl v).sfuQ = afterGrant (r :: q) ∧ (t.dev.vu cl v).lost = 0 ∧ (t.dev.cl cl).grants = satBv (s.dev.cl cl).grants 1 ∧
      (∀ j < 4, j ≠ v → (t.dev.vu cl j).sfuQ = (s.dev.vu cl j).sfuQ ∧
        (t.dev.vu cl j).lost = (s.dev.vu cl j).lost + if s.dev.grantable cl j then 1 else 0) ∧
      ∀ c w, t.dev.bundle c w = s.dev.bundle c w) ∧
  (∀ (s : State) (cl : Fin 256) (u : Fin 2) (v : Nat) (req : SfuReq) (ts : Tables) (word : DWord) (act : BitVec 16) (x g : List Nat),
    ((s.dev.cl cl).sfu u).job = some (v, req, ts) → req.job = .sfx word act x g →
    let i := sfxOf word.toNat
    let f := (Fmt.ofCode i.ifmt).getD .b32
    s.dev.tablesFail cl ts = false →
    Completes (.sfxDone cl u) s fun t => t.mem = s.mem ∧ ((t.dev.cl cl).sfu u).job = none ∧
      ∀ c w b, s.dev.bundle c w = some b → req.who.owns b = true → ∃ b', t.dev.bundle c w = some b' ∧
        (∀ e < 64, act.getLsbD (e / 4) = true → b'.elem i.dst e =
          let xv := f.decode (x.getD e 0)
          BitVec.ofNat 32 (sfuElem (ts.env req.mode) (selOf i.func) ((Fmt.ofCode i.ofmt).getD .b32) i.scale i.rm (code32 xv) f xv
            (f.decode (g.getD e 0))).code) ∧
        (∀ r < 64, ∀ e < 64, ¬(r = i.dst ∧ act.getLsbD (e / 4) = true) → b'.elem r e = b.elem r e) ∧
        b'.asyncOut = b.asyncOut - 1 ∧ b'.mr = b.mr) ∧
  ∀ (s : State) (cl : Fin 256),
    Completes (.sfuBankSwitch cl) s fun t =>
      (∀ k, (s.dev.cl cl).bankPend = true → (s.dev.cl cl).owner = some k →
        t.dev.cl cl = { s.dev.cl cl with bank := (s.dev.cpage k).inForce, bankPend := false } ∧
        (∀ j ≠ cl.val, t.dev.cl j = s.dev.cl j) ∧ Only (fun d e => { d with cmp := { d.cmp with clusters := e.cmp.clusters } }) s t) ∧
      ((s.dev.cl cl).bankPend = false ∨ (s.dev.cl cl).owner = none → t = s)

/-- Writes to CRV.LCTL start a load, unload a slot or are refused; a load ends with a checked slot or its status. The code after an unload is the model's choice (log entry 42), and so are the slot kept after a failed stamp and EMPTY after every other failure (log entry 19); the undo of a load that a command began is log entry 35: 05_curve_tables (R121), 05_curve_tables (R122), 05_curve_tables. -/
def Obligations.CurveStoreLoadsAndUnloads : Prop :=
  (∀ (s : State) (ag : Agent) (v : Word) (c : Instr), c = .crvLoadTable ag v ∨ c = .crvLoadRecipe ag v ∨ c = .crvUnload ag v →
    s.dev.serves ag .glob = true →
    let op := bits v.toNat 31 30
    let n := bits v.toNat 6 0
    let recipe := if op = 3 then bit v.toNat 28 else op = 2
    let flash := bit v.toNat 29
    let crv := s.dev.cmp.crv
    let old := s.dev.storeSlot recipe n
    let taken := old.state = 1 ∨ ((op = 3 ∨ old.loaded = true) ∧ s.dev.slotNamed recipe n = true)
    let unread := if flash then inImageArea crv.lsrc.toNat 64 = false else s.dev.pci.slow = true ∨ s.dev.pci.up = false
    Completes c s fun t => t.mem = s.mem ∧ (∀ r j, ¬(r = recipe ∧ j = n) → t.dev.storeSlot r j = s.dev.storeSlot r j) ∧
      let crv' := t.dev.cmp.crv
      let new := t.dev.storeSlot recipe n
      if crv.busy.isSome = true then crv' = { crv with lost := true }
      else if op = 0 then t = s
      else if recipe = false ∧ 63 < n then crv' = { crv with busy := none, code := 0x33 }
      else if taken then crv' = { crv with busy := none, code := 0x34 }
      else if op = 3 then new = .empty ∧ crv'.code = 0x30 ∧ crv'.busy = none
      else if unread then new = .empty ∧ crv'.code = 0x35 ∧ crv'.busy = none
      else new = { old with state := 1 } ∧ crv'.code = crv.code ∧ ∃ asked,
        crv'.busy = some ⟨recipe, flash, n, crv.lsrc, old.loaded, asked, none, none⟩ ∧ asked ≤ 64 ∧
        (flash = true ∨ (s.dev.pci.outstanding + 64 ≤ 1024 ∧ 0 < s.dev.pci.maxRead) → asked = 64)) ∧
  ∀ (s : State) (l : CrvLoad), s.dev.cmp.crv.busy = some l → l.boot = none → (l.flash = true → s.dev.log.ops = []) →
    let n := imageLen (s.mem.bytes l.space l.src.toNat 64)
    (if l.flash then inImageArea l.src.toNat n = true else crvOutstanding s.dev = false ∧ n ≤ l.asked) →
    Completes (.crvLoadDone .ok) s fun t => t.mem = s.mem ∧ t.dev.cmp.crv.busy = none ∧
      (∀ r j, ¬(r = l.recipe ∧ j = l.slot) → t.dev.storeSlot r j = s.dev.storeSlot r j) ∧ t.dev.cmp.crv.lost = s.dev.cmp.crv.lost ∧
      match checkImage s.dev.start.cfg l.recipe (s.mem.bytes l.space l.src.toNat n) with
      | .ok x => t.dev.storeSlot l.recipe l.slot = x ∧ t.dev.cmp.crv.code = 0x30 ∧ t.dev.cmp.crv.lsrc = s.dev.cmp.crv.lsrc
      | .error e => t.dev.cmp.crv.code = BitVec.ofNat 8 e ∧ t.dev.cmp.crv.lsrc = l.undo.getD s.dev.cmp.crv.lsrc ∧
        t.dev.storeSlot l.recipe l.slot = if e = 0x36 ∨ l.undo.isSome = true then { s.dev.storeSlot l.recipe l.slot with state := if l.wasLoaded then 2 else 0 } else .empty

/-- A write to CRV.COMMIT puts the staged bindings in force or is refused; when every owned cluster has switched, the generation advances: 05_curve_tables (R123). -/
def Obligations.BindingsCommit : Prop :=
  ∀ (s : State) (k : Fin 128),
    let p := s.dev.cpage k
    let frame (t : State) : Prop := (∀ j ≠ k.val, t.dev.cpage j = s.dev.cpage j) ∧
      Only (fun d e => { d with cmp := { d.cmp with clusters := e.cmp.clusters, crvGenAt := e.cmp.crvGenAt
                                                    crv := { d.cmp.crv with pages := e.cmp.crv.pages } } }) s t
    (∀ ag : Agent, s.dev.serves ag (.view k false) = true →
      Completes (.crvCommitWrite ag k) s fun t => frame t ∧
        if p.pend = true ∨ s.dev.bankLoaded p.stagedBank = false then
          t.dev.cpage k = { p with refused := true } ∧ t.dev.cmp.clusters = s.dev.cmp.clusters ∧ t.dev.cmp.crvGenAt = s.dev.cmp.crvGenAt
        else t.dev.cpage k = { p with pend := true, inForce := p.stagedBank } ∧ t.dev.cmp.crvGenAt = s.dev.cmp.crvGenAt ∧
          ∀ n, t.dev.cl n = if (s.dev.cl n).owner = some k.val then { s.dev.cl n with bankPend := true } else s.dev.cl n) ∧
    Completes (.crvCommitDone k) s fun t =>
      if p.pend = true ∧ s.dev.bankPending k = false ∧ s.dev.genOpen s.dev.cmp.crvGenAt = true then
        frame t ∧ t.dev.cpage k = { p with pend := false, gen := p.gen + 1 } ∧ t.dev.cmp.clusters = s.dev.cmp.clusters ∧
          t.dev.cmp.crvGenAt = some s.dev.now
      else t = s

/-- A row command that passes its issue checks waits for its engines; one that fails is answered with its record. The record 0x11 for a parameter block that cannot be read (log entry 14), and that the op field decides whichever row brings the command (log entry 16), are the model's choice: 06_row_operations (R131), 95_what_each_step_holds (R513). -/
def Obligations.RowCommandsWaitOrAreRejected : Prop :=
  ∀ (s : State) (x : At) (b : Bundle) (cmd : DWord) (c : Instr) (l : List Byte) (w : W),
    c = .smax x cmd ∨ c = .smaxp x cmd ∨ c = .smaxf x cmd ∨ c = .rmsn x cmd ∨ c = .mom x cmd ∨ c = .mnorm x cmd ∨ c = .topk x cmd →
    s.dev.noWaits = true → ReadsCommand s x b cmd.toNat 64 l w →
    let k := rcmdOf l
    let who := issuerOf x b (x.act &&& b.live)
    let par := (0x20 ≤ k.op ∧ k.op ≤ 0x26) ∧ k.usePar = true ∧ k.par % 64 = 0
    ∀ (q : List Byte) (w' : W) (p : RPar),
      (¬par ∧ q = l ∧ w' = w ∧ p = ⟨0, 0, 0, 0, 64⟩) ∨
      (par ∧ w.unblocked b.sag [(.operand false, k.par, 64), (.record, k.recA, 16)] ∧
        ∃ d, w.fetchVa b.sag k.par 64 (.operand false) = (.bytes d, w') ∧ q = l ++ d ∧ p = rparOf d) →
      let status := rowStatus w'.dev b.sag x.cl cmd.toNat k p
      (status = 0 → Completes c s fun t => t.mem = s.mem ∧
        t.dev.cmp.rowOps = s.dev.cmp.rowOps ++ [⟨s.dev.cmp.nextId, who, q, s.dev.modeOf b.sag, false⟩] ∧
        t.dev.cmp.clusters = s.dev.cmp.clusters ∧
        t.dev.bundle x.cl x.vu = some { b with pc := x.pc, asyncOut := b.asyncOut + 1 }) ∧
      (status ≠ 0 → w'.unblocked b.sag [(.record, k.recA, 16)] → Completes c s fun t =>
        t.dev.cmp.rowOps = s.dev.cmp.rowOps ∧ t.mem = (s.after (w'.rowRecord who k status 0 0)).mem) ∧
      ∀ cause va v, par → w.unblocked b.sag [(.operand false, k.par, 64), (.record, k.recA, 16)] →
        w.fetchVa b.sag k.par 64 (.operand false) = (.fail cause va, v) →
        rowStatus v.dev b.sag x.cl cmd.toNat k ⟨0, 0, 0, 0, 64⟩ = 0 ∨ rowStatus v.dev b.sag x.cl cmd.toNat k ⟨0, 0, 0, 0, 64⟩ = 0x43 →
        Completes c s fun t => t.dev.cmp.rowOps = s.dev.cmp.rowOps ∧
          t.mem = (s.after ((v.lastFault b.sag cause va).rowRecord who k 0x11 0 0)).mem

/-- The preferred row operation that can start on clusters that are awake takes the engines of its span group and raises its SFU batches, and sleeping clusters are woken; one that ends stores its rows, counts, raises its hint, traps, reports and frees its engines: 06_row_operations (R133), 06_row_operations. -/
def Obligations.RowOperationsStartAndEnd : Prop :=
  (∀ s : State, (s.dev.cmp.rowOps.filter s.dev.rowReady = [] → Completes .rowEngineAcquire s fun t => t = s) ∧
    ((∀ o ∈ s.dev.cmp.rowOps, s.dev.rowReady o = true → s.dev.rowAsleep o ≠ []) →
      Completes .rowEngineAcquire s fun t => t.mem = s.mem ∧ t.dev.cmp = s.dev.cmp) ∧
    ∀ l1 o l2, s.dev.cmp.rowOps.filter (fun o => s.dev.rowReady o && s.dev.rowAsleep o == []) = l1 ++ o :: l2 →
      (∀ x ∈ l1, rowBefore o x = true) → (∀ x ∈ l2, rowBefore x o = false) → o.who.vu < 4 →
      let k := rcmdOf o.cmd
      let g := spanGroup o.who.cl k.span
      let lead := spanLead o.who.cl k.span
      Completes .rowEngineAcquire s fun t =>
        t.dev.cmp.rowOps = s.dev.cmp.rowOps.map (fun x => if x.id = o.id then { x with started := true } else x) ∧
        (∀ n, t.dev.cl n = if n ∈ g then { s.dev.cl n with engine := some o.id, engLead := decide (n = lead) } else s.dev.cl n) ∧
        (∀ n, ∀ v < 4, t.dev.vu n v = if n ∈ g ∧ v = o.who.vu ∧ rowBatches k (n - lead) ≠ 0 then
            { s.dev.vu n v with sfuQ := (s.dev.vu n v).sfuQ ++
              [⟨.batch false o.id (rowBatches k (n - lead)), o.who, o.mode, .none, s.dev.now⟩] }
          else s.dev.vu n v) ∧
        Only (fun d e => { d with pwr := e.pwr, temps := e.temps, cmp := { d.cmp with rowOps := e.cmp.rowOps, clusters := e.cmp.clusters
                                                                                      vus := e.cmp.vus } }) s t) ∧
  ∀ (s : State) (cl : Fin 256) (vu : Fin 4) (o : RowOp) (ls : List (List Byte)) (w w' : W),
    s.dev.cmp.rowOps.find? (fun o => o.started && o.who.cl == cl.val && o.who.vu == vu.val) = some o →
    let c := rcmdOf o.cmd
    let p := rparOf (o.cmd.drop 64)
    let k := o.who.sag
    let g := s.dev.sag k
    let rs := rowResults o.mode.relaxed c ls
    let sat := (rs.map fun r => r.1.sat).sum
    let flush := (rs.map fun r => r.1.flush).sum
    (spanGroup cl c.span).any (fun n => s.dev.batchesLeft n false o.id) = false → s.dev.recWaits (some o.who.rows) = false →
    (s.opWork c.op cl [.record o.who.rows]).unblocked k ((.record, c.recA, 16) :: ((rowReads c p).map fun r => (.operand false, r.1, r.2)) ++
      (rowWrites c p).map fun r => (.operand true, r.1, r.2)) →
    (s.opWork c.op cl [.record o.who.rows]).fetchMany k (.operand false) (rowReads c p) [] = (.ok ls, w) →
    w.storeMany k (.operand true) (rowStores c p rs) = (.ok (), w') →
    Completes (.rowDone cl vu .ok) s fun t =>
      t.dev.cmp.rowOps = s.dev.cmp.rowOps.filter (fun x => x.id ≠ o.id) ∧ (∀ n, (t.dev.cl n).engine ≠ some o.id) ∧
      (∀ n, (s.dev.cl n).engine ≠ some o.id → t.dev.cl n = s.dev.cl n) ∧
      (t.dev.sag k).csat = satBv g.csat sat ∧ (t.dev.sag k).cflush = satBv g.cflush (if c.op = 0x26 then 0 else flush) ∧
      (t.dev.sag k).degen = satBv g.degen ((rs.map fun r => b2n r.1.degenerate).sum) ∧
      (t.dev.sag k).nanx = satBv g.nanx ((rs.map fun r => r.1.excluded).sum) ∧
      (∀ h, Tab.look 0 (t.dev.num k).hint h = if c.hint = true ∧ c.elements = true ∧ h = c.hidx then
          BitVec.ofNat 31 (max (Tab.look 0 (s.dev.num k).hint h).toNat (hintMax 0 (rs.flatMap Prod.snd)))
        else Tab.look 0 (s.dev.num k).hint h) ∧
      RaisedFor s t o.who (Flags.all (rs.map fun r => r.1.flags)) ∧
      (w'.unblocked k [(.record, c.recA, 16)] →
        ∀ n v b, s.dev.bundle n v = some b → o.who.owns b = true → ∃ b', t.dev.bundle n v = some b' ∧ b'.asyncOut = b.asyncOut - 1) ∧
      RowRecords s t w' o.who c (if (rs.any fun r => r.1.made.isSome) && s.dev.trapOpen k then 0x10 else 0) sat flush

/-- Who takes a free cluster, when a slice ends, when an owner yields, and what a switch leaves. The bundle saved faulted where a failed die-to-die link cuts its image off (log entry 40), and the state kept beside the images (log entry 22), are the model's choice: 07_threads_ordering (R168), 03_accumulation (R76). -/
def Obligations.ClustersAreTakenAndSwitched : Prop :=
  ∀ (s : State) (cl : Fin 256),
    let c := s.dev.cl cl
    let frame (t : State) : Prop := (∀ j ≠ cl.val, t.dev.cl j = s.dev.cl j) ∧
      Only (fun d e => { d with cmp := { d.cmp with clusters := e.cmp.clusters } }) s t
    let owned (t : State) (k : Nat) : Prop := frame t ∧ t.dev.cl cl = { c with
      prev := c.owner.getD c.prev, owner := some k, since := s.dev.now, switching := none, bankPend := false
      bank := (s.dev.cpage k).inForce, copyErr := [] }
    let switches (t : State) (k : Option Nat) : Prop := frame t ∧ t.dev.cl cl = { c with switching := some ⟨k⟩ }
    (c.switching = none →
      Completes (.clusterTake cl) s (fun t =>
        (s.dev.taker cl = none → t = s) ∧
        ∀ k, s.dev.taker cl = some k → match c.owner with
          | none => if (List.range cl).any s.dev.takeable = true then t = s
            else if (s.dev.sag k).savedAt cl = true then switches t (some k) else owned t k
          | some o => if (s.dev.freeVus cl).length = 4 ∧ s.dev.waitingBundles o = 0 then switches t (some k) else t = s) ∧
      Completes (.sliceExpiry cl) s (fun t => ∀ o, c.owner = some o →
        (s.dev.taker cl = none → t = s) ∧ ∀ k, s.dev.taker cl = some k →
          if (s.dev.sag o).slice ≠ 0 ∧ c.since + 1000 * (s.dev.sag o).slice.toNat ≤ s.dev.now then switches t (some k) else t = s) ∧
      Completes (.saggarSwitch cl) s (fun t => ∀ o, c.owner = some o →
        if s.dev.mustYield o cl = true then switches t none else t = s)) ∧
    ∀ (into : Option Nat) (ecc : List Ecc), (∀ e ∈ ecc, e ≠ .bad) → c.switching = some ⟨into⟩ → s.dev.switchReady cl = true → s.dev.admits cl = true →
      (∀ k < 8, s.dev.admits (hbmDom k) = true) → s.dev.noStall = true → s.safe →
      Completes (.saggarSwitchDone cl ⟨false, ecc⟩) s fun t => (t.dev.cl cl).switching = none ∧
        (t.dev.cl cl).owner = (into.filter fun i => s.dev.mayOwn i cl) ∧ (t.dev.cl cl).since = s.dev.now ∧
        (∀ i, into = some i → s.dev.mayOwn i cl = true → (t.dev.cl cl).bank = (s.dev.cpage i).inForce) ∧
        (∀ j ≠ cl.val, t.dev.cl j = s.dev.cl j) ∧
        (∀ o, c.owner = some o → ∀ v < 4, ∀ b, s.dev.bundle cl v = some b → b.faulted = false →
          s.dev.imageCut o cl (bundleImageAt (s.dev.saveBase o cl) v) 16640 = true → into = none →
          t.dev.bundle cl v = none ∧ ∃ x ∈ (t.dev.sag o).saved, x.cl = cl.val ∧ x.vu = v ∧ x.bundle.faulted = true) ∧
        (∀ o, c.owner = some o → into = none → s.dev.hub.d2dDead.getLsbD 2 = false → (s.dev.sag o).poisoned 2 0 0 2 = false →
          (t.dev.cl cl).slots = [] ∧
          (c.liveSlots ≠ [] → ⟨cl, c.liveSlots⟩ ∈ (t.dev.sag o).savedSlots) ∧
          ∀ v < 4, ∀ b, s.dev.bundle cl v = some b → t.dev.bundle cl v = none ∧
            ⟨cl, v, b, (s.dev.vu cl v).sfuQ.filter (fun r => r.who.sag == o), (s.dev.vu cl v).lost⟩ ∈ (t.dev.sag o).saved ∧
            ∀ e < 4096, leVal (t.mem.bytes .hbm (bundleImageAt (s.dev.saveBase o cl) v + 4 * e) 4) = (b.elem 0 e).toNat) ∧
        ∀ i x, c.owner = none → into = some i → s.dev.mayOwn i cl = true → s.dev.hub.d2dDead.getLsbD 2 = false →
          (s.dev.sag i).poisoned 2 0 0 2 = false → x ∈ (s.dev.sag i).saved → x.cl = cl.val → x.vu < 4 → x.bundle.waiting = .no →
          (∀ y ∈ (s.dev.sag i).saved, y.cl = cl.val → y = x ∨ y.vu ≠ x.vu) →
          s.mem.inError .hbm (bundleImageAt (s.dev.saveBase i cl) x.vu) 16640 = false →
          ∃ b, t.dev.bundle cl x.vu = some b ∧ b.sag = x.bundle.sag ∧ b.launch = x.bundle.launch ∧ b.bix = x.bundle.bix ∧
            b.pc = x.bundle.pc ∧ b.live = x.bundle.live ∧ b.vr = x.bundle.vr ∧ b.mr = x.bundle.mr

/-- A write to MEM.INV starts an invalidation of its size or sets lost; its end removes exactly the translations its range meets, and the domains of the saggar's descriptors follow. That a wait in the range watches its word's new place from then on is the model's choice (log entry 32): 08_memory (R210). -/
def Obligations.InvalidationsRunAndEnd : Prop :=
  ∀ (s : State) (k : Fin 128),
    let p := s.dev.mpage k
    let frame (t : State) : Prop := (∀ j ≠ k.val, t.dev.mpage j = s.dev.mpage j) ∧
      Only (fun d e => { d with cmp := { d.cmp with mem := e.cmp.mem } }) s t
    let follows (t : State) (p' : MemPage) : Prop := (∀ j ≠ k.val, t.dev.mpage j = s.dev.mpage j) ∧
      Only (fun d e => { d with dma := e.dma, cmp := { d.cmp with mem := e.cmp.mem } }) s t ∧
      t.dev.dma = ((s.work.modMem k fun _ => p').redoDoms k).dev.dma
    (∀ (ag : Agent) (c : Instr) (n : Nat), s.dev.serves ag (.view k false) = true →
      (c = .inv4k ag k ∧ n = 0) ∨ (c = .inv2m ag k ∧ n = 1) ∨ (c = .inv1g ag k ∧ n = 2) ∨ (c = .invAll ag k ∧ n = 3) →
      Completes c s fun t => frame t ∧
        t.dev.mpage k = if p.inv.isSome = true then { p with invLost := true } else { p with inv := some ⟨n, p.inva.toNat⟩ }) ∧
    (s.dev.noWaits = true → Completes (.invalidationDone k) s fun t =>
      (p.inv = none ∨ p.mv ≠ none → t = s) ∧
      ∀ i, p.inv = some i → p.mv = none →
        let p' : MemPage := { p with
          inv := none
          tlb := p.tlb.filter fun x =>
            let low := x.page * 2 ^ levelShift x.level % 2 ^ 48
            let lo := i.va % 2 ^ 48 / 2 ^ invBits i.size * 2 ^ invBits i.size
            low + 2 ^ levelShift x.level ≤ lo || lo + 2 ^ invBits i.size ≤ low }
        follows t p' ∧ t.dev.mpage k = p') ∧
    ∀ (cl : Fin 256) (vu : Fin 4) (b : Bundle) (i : Inval) (near near' : Bool) (pa va pa' dst : Nat) (cond : WaitCond) (v : Word) (t0 : Nat)
      (act : BitVec 16) (w : W), p.inv = some i → p.mv = none →
      s.dev.cmp.vus.countP (fun x => x.1 == 4 * cl.val + vu.val) = 1 →
      (∀ n u y, u < 4 → s.dev.bundle n u = some y → ¬(n = cl.val ∧ u = vu.val) → y.noWord = true) → (∀ j, ∀ y ∈ (s.dev.sag j).saved, y.bundle.noWord = true) →
      s.dev.bundle cl vu = some b → b.sag = k.val → b.waiting = .word near pa va cond v t0 dst act →
      va % 2 ^ 48 / 2 ^ invBits i.size = i.va % 2 ^ 48 / 2 ^ invBits i.size →
      waitHolds cond (leVal (s.mem.bytes (if near then .near else .hbm) pa 4)) v.toNat = false →
      W.access { ((s.work.invalidate k i.va (invBits i.size)).modMem k fun p => { p with inv := none }).redoDoms k with die := some (dieOf cl) }
        k va 4 .wait = (.ok (if near' then .near pa' else .hbm pa'), w) →
      waitHolds cond (leVal (s.mem.bytes (if near' then .near else .hbm) pa' 4)) v.toNat = false →
      Completes (.invalidationDone k) s fun t => t.mem = s.mem ∧
        t.dev.bundle cl vu = some { b with waiting := .word near' pa' va cond v t0 dst act }

/-- A write to MEM.MOVE is checked and holds the page; the end of the move copies it, rewrites its leaf and invalidates it. That a host page is asked for in requests of 128 bytes, each checked as it is made, is the model's choice (log entry 32): 08_memory (R214). -/
def Obligations.PageMovesStartAndEnd : Prop :=
  ∀ (s : State) (k : Fin 128),
    let p := s.dev.mpage k
    (∀ ag : Agent, s.dev.serves ag (.view k false) = true →
      Completes (.pageMove ag k) s fun t => t.mem = s.mem ∧ (∀ j ≠ k.val, t.dev.mpage j = s.dev.mpage j) ∧
        (p.mv ≠ none ∨ p.mvWait = true → t.dev.mpage k = { p with mvLost := true }) ∧
        (p.mv = none → p.mvWait = false → bits p.mvsrc.toNat 63 48 ≠ 0 →
          t.dev.mpage k = { p with mvFrom := p.mvsrc, mvTo := p.mvpte, mvcode := 0x51 }) ∧
        ∀ level e w slot, p.mv = none → p.mvWait = false → bits p.mvsrc.toNat 63 48 = 0 → s.work.walk k p.mvsrc.toNat = (.leaf level e, w) →
          leafSlot s.mem 4 p.mvsrc.toNat 1 (bits p.cur.root.toNat 47 12 * 4096) = some slot →
          (t.dev.mpage k).tlb = (w.dev.mpage k).tlb ∧
          if p.mvsrc.toNat % 2 ^ pageBits level ≠ 0 ∨ pteTgt e = 3 then (t.dev.mpage k).mv = none ∧ (t.dev.mpage k).mvcode = 0x51
          else if w.dev.moveDestOk k level p.mvpte.toNat = false then (t.dev.mpage k).mv = none ∧ (t.dev.mpage k).mvcode = 0x52
          else (t.dev.mpage k).mv = some ⟨s.dev.cmp.nextId, p.mvsrc.toNat, level, BitVec.ofNat 64 e, p.mvpte, slot, 0, 0, none⟩ ∧
            (t.dev.mpage k).mvcode = p.mvcode) ∧
    ∀ (m : Move) (srcBad dstBad : Bool) (ecc : List Ecc) (p1 p2 : Place) (w1 w2 : W), s.safe → p.mv = some m → s.dev.nothingHeld = true →
      s.dev.noWaits = true → s.dev.moveWaits k m = false → (∀ e ∈ ecc, e ≠ .bad) →
      m.doms.filter (fun n => (s.dev.dom n).cur ≠ .offline && !s.dev.admits n) = [] →
      let off := min m.asked (2 ^ pageBits m.level - 128)
      (s.work.bring ecc).moveAcc k m.old.toNat off 128 true = (.ok p1, w1) → w1.moveAcc k m.new.toNat off 128 false = (.ok p2, w2) →
      m.bad = none →
      (∀ a, leafSpace m.old.toNat = some (.host, a) → srcBad = false → dstBad = false → m.asked + 128 ≤ 2 ^ pageBits m.level →
        s.dev.tagFree = true →
        Completes (.pageMoveDone k ⟨srcBad, ecc⟩ dstBad) s fun t => t.mem = s.mem ∧
          (t.dev.mpage k).mv = some { m with asked := m.asked + 128, out := m.out + 1 } ∧
          ∃ r, t.dev.pci.reads = s.dev.pci.reads ++ [r] ∧ r.use = .move k m.id m.asked ∧ r.addr = a + m.asked ∧ r.len = 128) ∧
      ∀ f a g b, leafSpace m.old.toNat = some (f, a) → leafSpace m.new.toNat = some (g, b) → f ≠ .host → g ≠ .host → m.out = 0 →
        Completes (.pageMoveDone k ⟨srcBad, ecc⟩ dstBad) s fun t => (t.dev.mpage k).mv = none ∧
          (srcBad = true → t.mem = s.mem ∧ (t.dev.mpage k).mvcode = 0x53) ∧
          (srcBad = false → dstBad = true → t.mem = s.mem ∧ (t.dev.mpage k).mvcode = 0x54) ∧
          (srcBad = false → dstBad = false → (t.dev.mpage k).mvcode = 0x50 ∧
            (∀ i < 2 ^ pageBits m.level, ¬(g = .hbm ∧ m.slotAddr ≤ b + i ∧ b + i < m.slotAddr + 8) →
              t.mem.byte g (b + i) = s.mem.byte f (a + i)) ∧
            leVal (t.mem.bytes .hbm m.slotAddr 8) = m.new.toNat ∧
            (∀ sp y, ¬(sp = g ∧ b ≤ y ∧ y < b + 2 ^ pageBits m.level) → ¬(sp = .hbm ∧ m.slotAddr ≤ y ∧ y < m.slotAddr + 8) →
              t.mem.byte sp y = s.mem.byte sp y) ∧
            ∀ x ∈ (t.dev.mpage k).tlb, rangesMeet (x.page * 2 ^ levelShift x.level % 2 ^ 48) (2 ^ levelShift x.level)
              (m.va % 2 ^ 48 / 2 ^ pageBits m.level * 2 ^ pageBits m.level) (2 ^ pageBits m.level) = false)

/-- MEM.COMMIT takes the staged set or refuses it; when it is in force everywhere the generation advances, and the domains of the saggar's descriptors follow: 08_memory (R217). -/
def Obligations.TranslationSetsCommit : Prop :=
  ∀ (s : State) (k : Fin 128),
    let p := s.dev.mpage k
    let frame (t : State) : Prop := (∀ j ≠ k.val, t.dev.mpage j = s.dev.mpage j) ∧
      Only (fun d e => { d with dma := e.dma, cmp := { d.cmp with mem := e.cmp.mem, memGenAt := e.cmp.memGenAt } }) s t
    (∀ ag : Agent, s.dev.serves ag (.view k false) = true →
      Completes (.memCommit ag k) s fun t => frame t ∧ t.dev.dma = s.dev.dma ∧ t.dev.cmp.memGenAt = s.dev.cmp.memGenAt ∧
        t.dev.mpage k = if s.dev.memRefused k then { p with refused := true } else { p with pend := true, next := p.staged }) ∧
    (s.dev.noWaits = true → Completes (.memCommitDone k) s fun t =>
      let inside (n : Nat) : Prop := p.next.lo.toNat ≤ n ∧ n ≤ p.next.hi.toNat
      if p.pend = true ∧ (∀ c ∈ s.dev.cmp.clusters, c.2.owner = some k.val ∨ c.2.switching = some ⟨some k.val⟩ → inside c.1) ∧
          s.dev.translatedOut k = false ∧ s.dev.genOpen s.dev.cmp.memGenAt = true then
        let p' : MemPage := { p with cur := p.next, pend := false, genv := p.genv + 1, tlb := [] }
        frame t ∧ t.dev.cmp.memGenAt = some s.dev.now ∧ t.dev.mpage k = p' ∧
        t.dev.dma = (((s.work.modMem k fun _ => p').modCmp fun c => { c with memGenAt := some s.dev.now }).redoDoms k).dev.dma
      else t = s)

/-- The host link trains, goes down, and is held in reset by PERST#. That a training gives the payload and read request sizes is presumed (log entry 4), and which descriptors a loss ends without a record is the model's choice (log entry 34): 09_host_dma (R221), 09_host_dma (R222), 09_host_dma (R240), 17_startup (R448). -/
def Obligations.HostLinkTrainsAndIsLost : Prop :=
  ∀ s : State,
    (∀ (speed : Fin 7) (width : Fin 17) (flit : Bool) (cfg : HostCfg), Completes (.pcieLinkTrained speed width flit cfg) s fun t =>
      if s.dev.linkMayTrain = true ∧ speed.val ∈ [1, 2, 4, 5, 6] ∧ width.val ∈ [1, 2, 4, 8, 16] then
        t.dev.pci = { s.dev.pci.configured cfg with
          up := true, slow := speed.val < 4, flit := speed.val == 6 || (flit && 4 ≤ speed.val)
          width := BitVec.ofNat 6 width, speed := BitVec.ofNat 4 speed } ∧
        t.dev.pci.maxPayload = 128 * 2 ^ cfg.payload.val ∧ t.dev.pci.maxRead = 128 * 2 ^ cfg.readReq.val ∧
        Only (fun d e => { d with pci := e.pci, log := e.log }) s t
      else t = s) ∧
    (∀ c : Instr, (∃ dll, c = .pcieLinkDown dll) ∨ c = .hotReset → Completes c s fun t => t.mem = s.mem ∧
      (s.dev.pci.up = false → t = s) ∧
      (s.dev.pci.up = true → t.dev.pci.up = false ∧ t.dev.pci.slow = s.dev.pci.slow ∧ t.dev.pci.reads = [] ∧ t.dev.pci.atc = [] ∧
        t.dev.pci.atsReqs = [] ∧
        t.dev.con.iprod = 0 ∧ t.dev.con.icons = 0 ∧ t.dev.con.oprod = 0 ∧ t.dev.con.ocons = 0 ∧
        (∀ k, claimHolder t.dev.con k ≠ 3) ∧
        ∀ q < 256, s.work.queueOnHost q = true →
          ∀ y ∈ (t.dev.q q).descs, y.norec = true ∧ y.waiting = 0 ∧ (y.started = true → y.ended ≠ none))) ∧
    (Completes .perstAssert s fun t => t.mem = s.mem ∧ if s.dev.pci.perst = true then t = s else
      t.dev.pci.perst = true ∧ t.dev.pci.up = false ∧ t.dev.start.perstPend = (s.dev.start.state == .ready)) ∧
    Completes .perstDeassert s fun t => t.dev.pci = { s.dev.pci with perst := false } ∧
      t.dev.start = (if s.dev.pci.perst && s.dev.start.perstPend then { s.dev.start.ask 0x06 with perstPend := false } else s.dev.start) ∧
      Only (fun d e => { d with pci := e.pci, start := e.start }) s t

/-- Virtual functions, their mapping, vectors, translation invalidations and function-level resets: 09_host_dma (R224), 09_host_dma (R226), 09_host_dma (R228), 09_host_dma (R241). -/
def Obligations.FunctionsVectorsAndTheirResets : Prop :=
  ∀ s : State,
    let p := s.dev.pci
    let onlyPci (t : State) : Prop := Only (fun d e => { d with pci := e.pci, outs := e.outs }) s t
    let taken (v : Fin 64) (k : Nat) : Prop := p.vfEnable = true ∧ (Tab.look 0 p.vfmap v).getLsbD 7 = true ∧ k = (Tab.look 0 p.vfmap v).toNat % 128
    let stopped (t : State) (k : Nat) : Prop := (∀ q, q / 2 = k → (t.dev.q q).descs = [] ∧ (t.dev.q q).reads = []) ∧
      (t.dev.sag k).st = if (s.dev.sag k).st = .off then .off else .killing
    let fresh (t : State) (k : Nat) : Prop := (∀ q, q / 2 = k → t.dev.q q = .reset) ∧ t.dev.thr k = .reset ∧ t.dev.num k = .reset
    let open_ : Prop := p.up = true ∧ p.perst = false ∧ (s.dev.start.state = .ready ∨ s.dev.start.state = .failed)
    (∀ (c : Instr) (on : Bool), c = .vfEnable ∧ on = true ∨ c = .vfDisable ∧ on = false → Completes c s fun t => onlyPci t ∧
      (open_ → t.dev.pci = { p with vfEnable := on } ∧ t.dev.outs = s.dev.outs) ∧
      (p.up = true → p.perst = false → ¬open_ → t.dev.pci = p ∧ t.dev.outs = .configRetry 0 :: s.dev.outs) ∧
      (p.up = false ∨ p.perst = true → t = s)) ∧
    (∀ (ag : Agent) (v : Fin 64) (x : Word), s.dev.serves ag .glob = true → Completes (.vfmapWrite ag v x) s fun t => onlyPci t ∧
      t.dev.pci = if p.vfEnable then p
        else if x.getLsbD 7 && (List.range 64).any fun u => u ≠ v && Tab.look 0 p.vfmap u == x.truncate 8 then { p with dup := true }
        else { p with vfmap := Tab.put p.vfmap v (x.truncate 8) }) ∧
    (∀ (fn : Fin 65) (vec : Fin 264) (ag : Agent), fn.val = 0 ∧ ag = .pf ∨ vec.val < 4 ∧ (∃ v : Fin 64, fn.val = v + 1 ∧ ag = .vf v) →
      s.dev.serves ag (s.dev.fnPlace ag) = true → Completes (.msixUnmask fn vec) s fun t => onlyPci t ∧
      let v := Tab.look Vec.reset p.vecs (vecKey fn vec)
      let v' := Tab.look Vec.reset t.dev.pci.vecs (vecKey fn vec)
      v'.masked = false ∧ v'.pending = (v.pending && !p.up) ∧
      t.dev.outs = if v.pending && p.up then .msix fn vec :: s.dev.outs else s.dev.outs) ∧
    (∀ (fn : Fin 65) (addr : DWord) (n : Nat), Completes (.atsInvalidation fn addr n) s fun t => onlyPci t ∧
      ∀ e, e ∈ t.dev.pci.atc ↔ e ∈ p.atc ∧ ¬(e.fn = fn.val ∧ addr.toNat / 4096 ≤ e.page ∧ e.page < addr.toNat / 4096 + n)) ∧
    (∀ v : Fin 64, Completes (.flrVf v) s fun t => t.mem = s.mem ∧
      (open_ → p.vfEnable = true → (t.dev.fn (v + 1)).flr = true ∧ ∀ k, taken v k → stopped t k) ∧
      (open_ → p.vfEnable = false → t = s) ∧
      (p.up = true → p.perst = false → ¬open_ → t.dev.pci = p ∧ t.dev.outs = .configRetry (v + 1) :: s.dev.outs)) ∧
    (open_ → Completes .flrPf s fun t => t.mem = s.mem ∧ (t.dev.fn 0).flr = true ∧ (∀ k < 128, stopped t k) ∧
      t.dev.con.iprod = 0 ∧ t.dev.con.ocons = 0) ∧
    ∀ fn : Fin 65, (s.dev.fn fn).flr = true → (∀ k ∈ s.dev.flrSags fn, s.dev.flrReady k = true) →
      (∀ r ∈ p.reads, fn.val ≠ 0 ∧ r.fn ≠ fn.val) → (∀ a ∈ p.atsReqs, fn.val ≠ 0 ∧ a.1 ≠ fn.val) →
      Completes (.flrDone fn) s fun t => t.mem = s.mem ∧ (t.dev.fn fn).flr = false ∧ (∀ k ∈ s.dev.flrSags fn, fresh t k) ∧
        (fn.val = 0 → t.dev.pci.vfEnable = false ∧ ∀ k, claimHolder t.dev.con k ≠ 3)

/-- A host read ends with its data, an error or a timeout; a translation answer is held; a correctable error is counted. That every descriptor that has not ended ends where the named one has completed, and that a write error is named by ring index, is the model's choice (log entry 34): 09_host_dma (R226), 09_host_dma (R237), 09_host_dma (R238), 09_host_dma (R242). -/
def Obligations.HostReadsEnd : Prop :=
  ∀ s : State,
    (∀ (tag : Nat) (r : HostRead) (data : List Byte), s.dev.cmp.held = [] → s.dev.hostReadOf tag = some r → data.length = r.len →
      (∀ x a lane off b, s.dev.noWaits = true → r.use = .load x a lane off → s.dev.bundle x.cl x.vu = some b →
        Completes (.hostReadCompletion tag data) s fun t => t.mem = s.mem ∧ t.dev.hostReadOf tag = none ∧
          t.dev.bundle x.cl x.vu = some { b.patch a lane off data with memOut := b.memOut - 1 }) ∧
      ∀ q index dst n pl w sp pa, r.use = .dma q index dst n → (s.dev.q q).takes index = true →
        (s.descWork q index).blocked (q / 2) (.dma true) [(dst, data.length)] = none →
        (s.descWork q index).access (q / 2) dst data.length (.dma true) = (.ok pl, w) → pl.local? = some (sp, pa) →
        Completes (.hostReadCompletion tag data) s fun t => t.mem = s.mem.apply1 (.bytes sp pa data) ∧ t.dev.hostReadOf tag = none ∧
          (t.dev.q q).descs = (s.dev.q q).descs.map fun d => if d.index = index then { d with waiting := d.waiting - 1 } else d) ∧
    (∀ (tag : Nat) (r : HostRead) (q : Nat) (index : BitVec 16) (dst n : Nat) (c : Instr), s.dev.cmp.held = [] → s.dev.pci.up = true →
      s.dev.hostReadOf tag = some r → r.use = .dma q index dst n →
      (∃ k e, c = .hostSideError tag k (.read e) ∧ e ≠ .ok) ∨
        (c = .hostCompletionTimeout tag ∧ r.since + (s.dev.fn r.fn).timeout ≤ s.dev.now) →
      Completes c s fun t => t.mem = s.mem ∧ t.dev.hostReadOf tag = none ∧ (t.dev.q q).fail = true ∧
        t.dev.pci.nonfatal = satBv s.dev.pci.nonfatal 1 ∧
        ((∀ y ∈ (s.dev.q q).descs, y.index ≠ index) → (s.dev.q q).fail = false → ∀ y ∈ (t.dev.q q).descs, y.ended ≠ none) ∧
        ∀ l1 d l2, (s.dev.q q).descs = l1 ++ d :: l2 → d.index = index → (∀ y ∈ l1, y.index ≠ index) →
          (t.dev.q q).descs.map (fun y => (y.index, y.ended, y.erred)) = l1.map (fun y => (y.index, y.ended, y.erred)) ++
            (d.index, poisonedEnd d, true) :: l2.map fun y => (y.index, poisonedEnd y, y.erred)) ∧
    (∀ (q : Fin 256) (tag : Nat) (l1 : List Desc) (d : Desc) (l2 : List Desc), s.dev.pci.up = true → (s.dev.q q).descs = l1 ++ d :: l2 →
      d.started = true → d.index = BitVec.ofNat 16 tag → (∀ y ∈ l1, y.index ≠ d.index) →
      Completes (.hostSideError tag q .write) s fun t => t.mem = s.mem ∧ (t.dev.q q).fail = true ∧
        t.dev.pci.nonfatal = satBv s.dev.pci.nonfatal 1 ∧
        (t.dev.q q).descs.map (fun y => (y.index, y.ended, y.erred)) = l1.map (fun y => (y.index, y.ended, y.erred)) ++
          (d.index, poisonedEnd d, true) :: l2.map fun y => (y.index, poisonedEnd y, y.erred)) ∧
    (∀ (tag : Nat) (r : HostRead), s.dev.hostReadOf tag = some r → ¬(r.since + (s.dev.fn r.fn).timeout ≤ s.dev.now) →
      Completes (.hostCompletionTimeout tag) s fun t => t = s) ∧
    (∀ (tag : Nat) (q : Fin 256), s.dev.pci.up = true → Completes (.hostSideError tag q .correctable) s fun t =>
      t.dev.pci = { s.dev.pci with correctable := satBv s.dev.pci.correctable 1 } ∧ t.mem = s.mem) ∧
    ∀ (fn : Fin 65) (page host : DWord) (w : Bool), s.dev.pci.atsReqs.contains (fn.val, page.toNat / 4096) = true →
      Completes (.atsTranslationCompletion fn page (.page host true w)) s fun t => t.mem = s.mem ∧
        t.dev.pci.atsReqs = s.dev.pci.atsReqs.erase (fn.val, page.toNat / 4096) ∧
        ⟨fn.val, page.toNat / 4096, host, true, w⟩ ∈ t.dev.pci.atc ∧
        ∀ e ∈ t.dev.pci.atc, e ∉ s.dev.pci.atc → e = ⟨fn.val, page.toNat / 4096, host, true, w⟩

/-- Posting to a DMA queue, enabling and disabling it, fetching descriptors, from the host in requests of its maximum size, and starting them: 09_host_dma (R229), 09_host_dma (R231), 09_host_dma (R232), 09_host_dma (R235), 09_host_dma (R236). -/
def Obligations.DmaQueuesPostFetchAndStart : Prop :=
  ∀ (s : State) (q : Fin 256),
    let x := s.dev.q q
    let onlyQ (t : State) : Prop := Only (fun d e => { d with dma := { d.dma with qs := e.dma.qs } }) s t ∧ ∀ j ≠ q.val, t.dev.q j = s.dev.q j
    let acc (i : BitVec 16) (l : List Byte) : Desc :=
      { index := i, bytes := l, started := false, pos := 0, waiting := 0, doms := [], asked := [], norec := false, erred := false
        ended := if s.dev.queuePoisoned q then some (0x12, 0) else if dmaBad l then some (0x70, 0) else none }
    (∀ (ag : Agent) (v : Word), s.dev.serves ag (.view (q.val / 2) false) = true →
      let p : BitVec 16 := v.truncate 16
      Completes (.qprodWrite ag q v) s (fun t => onlyQ t ∧ t.dev.q q =
        if p = x.prod then x
        else if x.entries < (p - x.cons).toNat ∨ (p - x.cons).toNat < (x.prod - x.cons).toNat then { x with overd := true }
        else { x with prod := p }) ∧
      Completes (.queueEnable ag q v) s (fun t => onlyQ t ∧ t.dev.q q =
        let clears := x.en = false ∧ x.busy = false
        { x with en := true, burst := BitVec.ofNat 3 (bits v.toNat 6 4), relaxed := v.getLsbD 1
                 halted := if clears then false else x.halted, ferr := if clears then 0 else x.ferr }) ∧
      Completes (.queueDisable ag q v) s (fun t => onlyQ t ∧ t.dev.q q =
        { x with en := false, burst := BitVec.ofNat 3 (bits v.toNat 6 4), relaxed := v.getLsbD 1 })) ∧
    (∀ n p w ecc, x.en = true → x.halted = false → x.fetchFail = false → s.dev.flrOn (q.val / 2) = false → s.dev.pci.slow = false →
      s.dev.hubServes = true → s.dev.admits hubDom = true →
      n = min (min (x.prod - x.nextFetch).toNat (2 ^ min 3 x.burst.toNat)) (16 - min 16 (x.descs.length + (x.reads.map FetchRead.n).sum)) →
      0 < n → fetchParts x n x.nextFetch n = [(x.nextFetch, n)] →
      (s.work.bring ecc).access (q.val / 2) (x.entryAddr x.nextFetch.toNat) (64 * n) .ring = (.ok p, w) →
      (p.local?.isSome = true → Completes (.descriptorFetch ⟨q, ecc⟩) s fun t => t.mem = s.mem ∧
        t.dev.q q = { x with reads := x.reads ++ [⟨x.nextFetch, n, false, none⟩] }) ∧
      ∀ v h, p = .host v h → s.dev.pci.up = true → 64 ≤ s.dev.pci.maxRead →
        let most := s.dev.pci.maxRead / 64
        let parts := (List.range ((n + most - 1) / most)).map fun i => (most * i, min most (n - most * i))
        s.dev.tagsFree parts.length = true →
        Completes (.descriptorFetch ⟨q, ecc⟩) s fun t => t.mem = s.mem ∧
          t.dev.q q = { x with reads := x.reads ++ parts.map fun y => ⟨x.nextFetch + BitVec.ofNat 16 y.1, y.2, true, none⟩ } ∧
          t.dev.pci.reads.map (fun r => (r.fn, r.addr, r.len, r.use)) = s.dev.pci.reads.map (fun r => (r.fn, r.addr, r.len, r.use)) ++
            parts.map fun y => (s.dev.fnOf v, h + 64 * y.1, 64 * y.2, .fetch q (x.nextFetch + BitVec.ofNat 16 y.1))) ∧
    (∀ first n rest data ecc, s.dev.pci.slow = false → rest.head?.bind FetchRead.bad = none → x.reads = ⟨first, n, true, none⟩ :: rest →
      Completes (.descriptorFetchReturn ⟨q, ecc⟩ .ok data) s fun t =>
      t.mem = s.mem ∧ t.dev.q q = { x with
        reads := rest, fetch := x.fetch + BitVec.ofNat 16 n
        descs := x.descs ++ (descsOf n data).zipIdx.map fun y => acc (x.fetch + BitVec.ofNat 16 y.2) y.1 }) ∧
    (∀ first rest res data p w sp pa ecc, s.dev.pci.slow = false → rest.head?.bind FetchRead.bad = none → x.reads = ⟨first, 1, false, none⟩ :: rest →
      (s.work.bring ecc).blocked (q.val / 2) .ring [(x.entryAddr first.toNat, 64)] = none →
      ((s.work.bring ecc).modQ q fun y => { y with reads := rest }).access (q.val / 2) (x.entryAddr x.fetch.toNat) 64 .ring = (.ok p, w) → p.local? = some (sp, pa) →
      Completes (.descriptorFetchReturn ⟨q, ecc⟩ res data) s fun t => t.mem = s.mem ∧ t.dev.q q = { x with
        reads := rest, fetch := x.fetch + 1, descs := x.descs ++ [acc x.fetch (s.mem.bytes sp pa 64)] }) ∧
    ∀ (c : Instr) (op : Nat), (c = .copy q ∧ op = 1) ∨ (c = .fill q ∧ op = 2) ∨ (c = .recordOnly q ∧ op = 3) →
      Completes c s fun t => match s.dev.startable q with
        | some y => if (dmaCmdOf y.bytes).op = op then
            onlyQ t ∧ t.dev.q q = { x with descs := x.descs.map fun z =>
              if z.index = y.index then { z with started := true, doms := s.work.descDoms q (dmaCmdOf y.bytes) } else z }
          else t = s
        | none => t = s

/-- A DMA chunk moves its bytes within the chip, reads them from the host in one request, or writes them there; a descriptor that has ended writes its record in ring order and advances QCONS, and one that a transport error names counts on the queue's channel: 09_host_dma (R233), 09_host_dma (R234), 09_host_dma (R236), 09_host_dma (R237), 09_host_dma (R238). -/
def Obligations.DmaChunksMoveAndDescriptorsComplete : Prop :=
  (∀ (s : State) (q : Nat) (y : Desc) (before after : List Nat), q < 256 →
    (List.range 256).map (fun k => (s.dev.dma.last + 1 + k) % 256) = before ++ q :: after →
    (∀ j ∈ before, (s.dev.q j).ready = none) → (s.dev.q q).ready = some y →
    let c := dmaCmdOf y.bytes
    let va := c.src + y.pos
    let vd := c.dst + y.pos
    let n := min (c.len - y.pos) (min (4096 - vd % 4096) (if c.op = 1 then 4096 - va % 4096 else 4096))
    let work := s.descWork q y.index
    let moved (t : State) (k asks : Nat) : Prop := t.dev.dma.last = q ∧ (∀ j ≠ q, t.dev.q j = s.dev.q j) ∧
      (t.dev.q q).descs.map (fun d => (d.index, d.pos, d.waiting, d.ended)) =
        (s.dev.q q).descs.map fun d => (d.index, if d.index = y.index then d.pos + k else d.pos,
          if d.index = y.index then d.waiting + asks else d.waiting, d.ended)
    let wrote (t : State) (v h : Nat) (l : List Byte) : Prop := t.mem = s.mem.apply1 (.bytes .host h l) ∧
      t.dev.outs.head? = some (.hostWrite (s.dev.fnOf v) (s.dev.sentAddr (s.dev.fnOf v) h true).1 (s.dev.sentAddr (s.dev.fnOf v) h true).2 l)
    let linked : Prop := s.dev.pci.up = true ∧ s.dev.pci.slow = false
    (∀ ps w1 pd w2, c.op = 1 → work.blocked (q / 2) (.dma false) [(va, n)] = none →
      work.blocked (q / 2) (.dma true) [(vd, n)] = none →
      work.access (q / 2) va n (.dma false) = (.ok ps, w1) → w1.access (q / 2) vd n (.dma true) = (.ok pd, w2) →
      (∀ f a g b, ps.local? = some (f, a) → pd.local? = some (g, b) →
        Completes (.dmaChunk .ok) s fun t => t.mem = s.mem.apply1 (.bytes g b (s.mem.bytes f a n)) ∧ moved t n 0) ∧
      (∀ v h g b, ps = .host v h → pd.local? = some (g, b) → linked → s.dev.tagFree = true →
        Completes (.dmaChunk .ok) s fun t => let k := min n s.dev.pci.maxRead
          t.mem = s.mem ∧ moved t k 1 ∧
          t.dev.pci.reads.map (fun r => (r.fn, r.addr, r.len, r.use, r.since)) =
            s.dev.pci.reads.map (fun r => (r.fn, r.addr, r.len, r.use, r.since)) ++
              [(s.dev.fnOf v, h, k, .dma q y.index vd k, s.dev.now)]) ∧
      ∀ v h f a, pd = .host v h → ps.local? = some (f, a) → linked →
        Completes (.dmaChunk .ok) s fun t => let k := min n s.dev.pci.maxPayload
          moved t k 0 ∧ wrote t v h (s.mem.bytes f a k)) ∧
    ∀ pd w, c.op ≠ 1 → work.blocked (q / 2) (.dma true) [(vd, n)] = none → work.access (q / 2) vd n (.dma true) = (.ok pd, w) →
      let bytes (k : Nat) : List Byte := (List.range k).map fun i => BitVec.ofNat 8 (c.src / 2 ^ (8 * ((vd + i) % 8)))
      (∀ g b, pd.local? = some (g, b) →
        Completes (.dmaChunk .ok) s fun t => t.mem = s.mem.apply1 (.bytes g b (bytes n)) ∧ moved t n 0) ∧
      ∀ v h, pd = .host v h → linked →
        Completes (.dmaChunk .ok) s fun t => let k := min n s.dev.pci.maxPayload
          moved t k 0 ∧ wrote t v h (bytes k)) ∧
  ∀ (s : State) (q : Fin 256), s.dev.noWaits = true →
    let x := s.dev.q q
    ((∀ y t, x.descs = y :: t → y.result = none) → Completes (.dmaComplete q) s fun t => t = s) ∧
    ∀ y t status cause, x.descs = y :: t → y.result = some (status, cause) →
      let c := dmaCmdOf y.bytes
      ∀ p w w' sp pa, s.work.unblocked (q.val / 2) [(.dma true, c.recA, 16)] →
        s.work.access (q.val / 2) c.recA 16 (.dma true) = (.ok p, w) → p.local? = some (sp, pa) →
        piecesOf c.recA 16 = [(c.recA, 16)] → w.access (q.val / 2) c.recA 16 (.dma true) = (.ok p, w') →
        Completes (.dmaComplete q) s fun u => u.mem = s.mem.apply1 (.bytes sp pa (leBytes 4 (status * 2 ^ 24 + c.op * 2 ^ 16 + q.val) ++
            leBytes 4 y.index.toNat ++ leBytes 4 c.tag ++ leBytes 4 (2 ^ 31 + cause))) ∧
          (u.dev.q q).cons = x.cons + 1 ∧ (u.dev.q q).done = satBv x.done 1 ∧ (u.dev.q q).descs = t ∧
          ((s.dev.sag (q.val / 2)).counting 1 0 0 q = none → (u.dev.sag (q.val / 2)).poison =
            if (status = 0x12 ∨ y.erred = true) ∧ s.dev.queuePoisoned q = true then
              (s.dev.sag (q.val / 2)).poison ++ [(s.dev.sag (q.val / 2)).newPoison 1 0 0 q 1]
            else (s.dev.sag (q.val / 2)).poison)

/-- Bytes, framing errors and BREAK on the UART; the ring's indices and reset; the driver's claims; a line that fails its checks: 10_atser_language (R248), 10_atser_language (R249), 10_atser_language (R253), 10_atser_language (R272), 10_atser_language (R275). -/
def Obligations.ConsolePortsTakeBytes : Prop :=
  ∀ s : State, s.dev.noWaits = true → s.dev.aon.powered = true →
    let x := s.dev.con
    let onlyCon (t : State) : Prop := Only (fun d e => { d with con := e.con, pci := e.pci, outs := e.outs, log := e.log }) s t
    let restarted (t : State) (n : Nat) : Prop := let y := t.dev.sess n
      onlyCon t ∧ y.partl = [] ∧ y.queue = [] ∧ y.challenge = none ∧ y.modeNext = none ∧ y.machine = (n == 1) ∧ y.priv = (if n = 1 then 1 else 0) ∧
      (n = 0 → y.history = x.s0.history) ∧
      (∀ k, claimHolder t.dev.con k = if claimHolder x k = BitVec.ofNat 2 (n + 1) then 0 else claimHolder x k) ∧
      t.dev.con.run = x.run.map fun r => if r.sess = n then { r with wanted := false } else r
    (∀ (b : Byte) (framing : Bool),
      Completes (.uartByte b framing false) s (fun t => t = { s with dev := { s.dev with con :=
        if framing then { x with frm := satBv x.frm 1, rx := x.rx ++ [(0, true)] }
        else if 1024 ≤ (x.rx.filter fun y => !y.2).length then { x with ovr := satBv x.ovr 1, rx := x.rx ++ [(0, true)] }
        else { x with rx := x.rx ++ [(b, false)] } } }) ∧
      (x.rx = [] → x.s0.modeNext = none → x.s0.esc = [] → x.s0.partl.length < 256 →
        let err : Option Nat := if x.s0.lossy then some 109 else if x.s0.long then some 100 else none
        Completes (.uartByte b framing true) s fun t => onlyCon t ∧ t.dev.con.rx = [] ∧ t.dev.con.s1.queue = x.s1.queue ∧
          (framing = true → t.dev.con.s0.lossy = true ∧ t.dev.con.s0.partl = x.s0.partl ∧ t.dev.con.s0.queue = x.s0.queue ∧
            t.dev.con.frm = satBv x.frm 1) ∧
          (framing = false → 0x20 ≤ b.toNat → b.toNat ≤ 0x7E → t.dev.con.s0.partl = x.s0.partl ++ [b] ∧ t.dev.con.s0.queue = x.s0.queue ∧
            (x.s0.machine = true → t.dev.con.tx = x.tx)) ∧
          (framing = false → b = 0x0D → err ≠ none ∨ (lineIgnored x.s0.partl = false ∧ x.s0.partl.any (· ≠ 0x20) = true) →
            x.s0.waitingLines < 4 → t.dev.con.s0.partl = [] ∧ t.dev.con.s0.queue = x.s0.queue ++ [⟨x.s0.partl, x.s0.machine, err⟩]))) ∧
    (x.rx = [] → Completes .uartBreak s fun t => restarted t 0) ∧
    (s.dev.serves .pf .glob = true →
      (∀ v : Word, let i : BitVec 16 := v.setWidth 16
        let lead := (i - x.icons).toNat
        let bytes := (List.range lead).map fun j => Tab.look 0 x.inBuf ((x.icons.toNat + j) % 1024)
        Completes (.ringInputProduce v) s (fun t => onlyCon t ∧
          if i = x.iprod then t = s
          else if 1024 < lead ∨ lead < (x.iprod - x.icons).toNat then t = { s with dev := { s.dev with con := { x with overd := true } } }
          else t.dev.con.iprod = i ∧ t.dev.con.icons = i ∧
            (x.s1.machine = true → x.s1.modeNext = none → x.s1.esc = [] → x.s1.partl.length + lead ≤ 256 →
              (∀ b ∈ bytes, 0x20 ≤ b.toNat ∧ b.toNat ≤ 0x7E) → t.dev.con.s1.partl = x.s1.partl ++ bytes)) ∧
        Completes (.ringOutputConsume v) s fun t => onlyCon t ∧
          if i = x.ocons then t = s
          else if (x.oprod - x.ocons).toNat < (i - x.ocons).toNat then t = { s with dev := { s.dev with con := { x with overd := true } } }
          else let now := x.s1.out.take (4096 - (x.oprod - i).toNat)
            t.dev.con.ocons = i ∧ t.dev.con.oprod = x.oprod + BitVec.ofNat 16 now.length ∧ t.dev.con.s1.out = x.s1.out.drop now.length) ∧
      (Completes .ringSessionReset s fun t => restarted t 1 ∧ t.dev.con.irq = x.irq) ∧
      ∀ k : Fin 16, k.val < 14 →
        (Completes (.driverClaim k) s fun t => Only (fun d e => { d with con := { d.con with claims := e.con.claims } }) s t ∧
          ∀ j, claimHolder t.dev.con j = if j = k.val ∧ claimHolder x k = 0 then 3 else claimHolder x j) ∧
        Completes (.driverRelease k) s fun t => Only (fun d e => { d with con := { d.con with claims := e.con.claims } }) s t ∧
          ∀ j, claimHolder t.dev.con j = if j = k.val ∧ claimHolder x k = 3 then 0 else claimHolder x j) ∧
    ∀ (n : Fin 2) (q : QLine) (rest : List QLine) (code : Nat) (tag : List Byte) (keep crc : Bool), x.rx = [] → s.dev.conTurn n = true →
      (s.dev.sess n).queue = q :: rest → (q.machine || !lineIgnored q.bytes || q.err.isSome) = true →
      s.work.checkLine n q = (.fail code tag keep, crc) →
      Completes (.lineCheckFail n) s fun t => onlyCon t ∧ (t.dev.sess n).queue = rest ∧ t.dev.con.lastSess = n ∧
        t.dev.sess (1 - n.val) = s.dev.sess (1 - n.val) ∧ t.dev.con.crc = (if crc then satBv x.crc 1 else x.crc) ∧ t.dev.con.claims = x.claims ∧
        (let text := (responseText (some tag) code []).flatten
         q.machine = true →
          (t.dev.sess n).lastResp = (if keep then text else (s.dev.sess n).lastResp) ∧
          (n.val = 0 → x.tx.length + text.length ≤ 8192 → t.dev.con.tx = x.tx ++ text))

/-- The console's timeouts, the end of a drain, and the start of a commanded reset. The line drained= after every drain is the model's choice (log entry 35): 10_atser_language (R274), 10_atser_language (R276), 11_atser_commands (R282), 11_atser_commands (R283), 11_atser_commands (R300). -/
def Obligations.ConsoleTimersEnd : Prop :=
  ∀ s : State, s.dev.noWaits = true → s.dev.aon.powered = true →
    let x := s.dev.con
    let onlySess (t : State) (n : Nat) (f : Session → Session) : Prop :=
      t.dev.sess n = f (s.dev.sess n) ∧ t.dev.sess (1 - n) = s.dev.sess (1 - n) ∧
      Only (fun d e => { d with con := { d.con with s0 := e.con.s0, s1 := e.con.s1 } }) s t
    (∀ n : Fin 2, let y := s.dev.sess n
      (x.rx = [] → Completes (.partialLineTimeout n) s fun t =>
        if (y.partl = [] ∧ y.lossy = false ∧ y.long = false) ∨ s.dev.now < y.lastByte + 30000000000 then t = s
        else onlySess t n fun y => { y with partl := [], long := false, lossy := false, esc := [], histPos := none
                                            queue := y.queue ++ [⟨[], y.machine, some 110⟩] }) ∧
      (Completes (.challengeTimeout n) s fun t => onlySess t n fun y =>
        { y with challenge := y.challenge.filter fun z => decide (s.dev.now < z.2) }) ∧
      (Completes (.serviceLockoutEnd n) s fun t => onlySess t n fun y =>
        { y with lockUntil := y.lockUntil.filter fun z => decide (s.dev.now < z) }) ∧
      (x.rx = [] → Completes (.sessionIdleTimeout n) s fun t =>
        if s.dev.sessUp n = true ∧ y.idle ≠ 0 ∧ y.idleDone = false ∧ y.lastLine + y.idle.toNat * 1000000000 ≤ s.dev.now then
          t.dev.sess n = { y with idleDone := true, priv := if n.val = 1 then 1 else 0 } ∧
          (∀ k, claimHolder t.dev.con k = if claimHolder x k = BitVec.ofNat 2 (n + 1) then 0 else claimHolder x k) ∧
          Only (fun d e => { d with con := e.con, log := e.log }) s t
        else t = s)) ∧
    (∀ (r : Running) (c : CmdCtx), x.rx = [] → x.run = some r → r.ctx = some c → r.cancel = false → r.sess < 2 →
      let answered (t : State) (code : Nat) (lines : List (List Byte)) : Prop := t.dev.con.run = none ∧ t.dev.con.drain = none ∧
        (r.wanted = true → (t.dev.sess r.sess).lastResp = (responseText (if c.machine then some c.tag else none) code lines).flatten) ∧
        ∀ k ∈ r.implicit, claimHolder t.dev.con k ≠ BitVec.ofNat 2 (r.sess + 1)
      let enabled (w : W) (t : State) (d : Drain) : Prop := (∀ k ∈ d.sags, (w.dev.sag k).st ≠ .killing → (t.dev.sag k).st = .running) ∧
        (∀ q ∈ d.queues, (t.dev.q q).en = true) ∧ (∀ k, k ∉ d.sags → (t.dev.sag k).st = (w.dev.sag k).st) ∧
        ∀ q, q ∉ d.queues → (t.dev.q q).en = (w.dev.q q).en
      (s.work.waitOver r c = s.work → r.wait ≠ .drain → Completes .commandTimeout s fun t =>
        (s.dev.now < r.since + c.cmd.spec.limit * 1000000 → t = s) ∧
        (r.since + c.cmd.spec.limit * 1000000 ≤ s.dev.now → answered t 600 [] ∧
          ∀ l f, r.wait = .pwr l f → ∀ n ∈ l, (t.dev.dom n).fromCon = false ∧ (t.dev.dom n).forceCon = false)) ∧
      ∀ d, r.wait = .drain → x.drain = some d →
        (Completes .drainTimeout s fun t =>
          if s.dev.atLoad = true ∧ d.since + 30000000000 ≤ s.dev.now then answered t 600 [] ∧ enabled s.work t d else t = s) ∧
        (s.dev.atLoad = true → Completes .drainComplete s fun t => t = s) ∧
        ∀ lines w, s.dev.atLoad = false → c.setting s.work = (.done 0 lines, w) → w.dev.con.drain = some d → w.dev.con.run = some r →
          Completes .drainComplete s fun t => enabled w t d ∧
            answered t 0 (lines ++ sideLines (listTexts d.sags) (listTexts d.queues))) ∧
    ∀ cold, x.resetCmd = some cold → Completes .resetStart s fun t =>
      if (s.dev.sess x.lastSess).out = [] ∧ (x.lastSess = 0 → x.tx = []) then
        t.dev.start = s.dev.start.ask (if cold then 0x02 else 0x05) ∧ t.dev.con.resetCmd = none ∧
        t.dev.con.s0 = { x.s0 with queue := [] } ∧ t.dev.con.s1 = { x.s1 with queue := [] } ∧
        Only (fun d e => { d with con := e.con, start := e.start }) s t
      else t = s

/-- mode, priv, priv answer, claim, release, claim break, claims and notify answer and take effect. That a refused priv service voids the earlier challenge, and the lockout checked before the key, are the model's choice (log entry 35): 10_atser_language (R264), 10_atser_language (R268), 10_atser_language (R269), 10_atser_language (R272), 10_atser_language (R273), 11_atser_commands (R285). -/
def Obligations.SessionCommandsRun : Prop :=
  ∀ (s : State) (n : Fin 2) (c : CmdCtx), Turn s n c →
    let x := s.dev.con
    let y := s.dev.sess n
    let me : BitVec 2 := BitVec.ofNat 2 (n + 1)
    let other (t : State) : Prop := t.dev.sess (1 - n.val) = s.dev.sess (1 - n.val)
    let onlyCon (t : State) : Prop := Only (fun d e => { d with con := e.con, pci := e.pci, outs := e.outs }) s t ∧ other t
    let claimed (t : State) (f : Nat → BitVec 2) : Prop := ∀ k, claimHolder t.dev.con k = f k
    let same (t : State) : Prop := claimed t (claimHolder x) ∧ (t.dev.sess n).priv = y.priv
    (c.cmd.spec.cmd = .mode → ∀ k, argWord (c.arg 0) ["interactive", "machine"] = .ok k → Completes (.mode n) s fun t =>
      Answers s t n c 0 [] ∧ onlyCon t ∧ same t ∧
      (((t.dev.sess n).modeNext = none ∧ (t.dev.sess n).machine = (k == 1)) ∨
        ((t.dev.sess n).modeNext = some (k == 1) ∧ (t.dev.sess n).machine = y.machine ∧ (t.dev.sess n).out ≠ []))) ∧
    (c.cmd.spec.cmd = .priv → Completes (.priv n) s fun t => other t ∧
      Only (fun d e => { d with con := e.con, pci := e.pci, outs := e.outs, free := e.free }) s t ∧
      (c.arg 0 = none → Answers s t n c 0 [kvText "priv" (nameAt levelNames y.priv.val)] ∧ onlyCon t ∧ same t) ∧
      (∀ a, c.arg 0 = some a → argWord (some a) levelNames = .ok 0 → Answers s t n c 0 [] ∧ onlyCon t ∧ (t.dev.sess n).priv = 0 ∧
        claimed t fun k => if claimHolder x k = me then 0 else claimHolder x k) ∧
      (∀ a, c.arg 0 = some a → argWord (some a) levelNames = .ok 1 → onlyCon t ∧ claimed t (claimHolder x) ∧
        if n = 0 ∧ y.uop = false then Answers s t n c 200 [] ∧ (t.dev.sess n).priv = y.priv
        else Answers s t n c 0 [] ∧ (t.dev.sess n).priv = 1) ∧
      (∀ a, c.arg 0 = some a → argWord (some a) levelNames = .ok 2 → same t ∧
        (if (y.lockUntil.any fun z => decide (s.dev.now < z)) = true then Answers s t n c 204 [] ∧ (t.dev.sess n).challenge = none
         else if s.dev.start.cfg.kid = 0 then Answers s t n c 202 [] ∧ (t.dev.sess n).challenge = none
         else let chal := (rangeFrom s.dev.free 16).map Config.randomByte
           Answers s t n c 0 [pairsText [("kid", hexText 8 s.dev.start.cfg.kid.toNat), ("chal", groupsText chal)]] ∧
           (t.dev.sess n).challenge = some (chal, s.dev.now + 30000000000) ∧ t.dev.free = s.dev.free + 16))) ∧
    (c.cmd.spec.cmd = .privAnswer → Completes (.privAnswer n) s fun t => claimed t (claimHolder x) ∧ (t.dev.sess n).challenge = none ∧ other t ∧
      Only (fun d e => { d with con := e.con, pci := e.pci, outs := e.outs, log := e.log }) s t ∧
      (y.challenge = none → Answers s t n c 205 [] ∧ same t) ∧
      ∀ chal due, y.challenge = some (chal, due) →
        if due ≤ s.dev.now then Answers s t n c 205 [] ∧ same t
        else if c.arg 0 = some (.hex (s.dev.svcAnswer n chal)) then Answers s t n c 0 [] ∧ (t.dev.sess n).priv = 2 ∧ (t.dev.sess n).wrongs = 0
        else Answers s t n c 201 [] ∧ (t.dev.sess n).priv = y.priv ∧ t.dev.con.svcf = satBv x.svcf 1 ∧
          if 3 ≤ y.wrongs + 1 then (t.dev.sess n).wrongs = 0 ∧ (t.dev.sess n).lockUntil = some (s.dev.now + 60000000000)
          else (t.dev.sess n).wrongs = y.wrongs + 1 ∧ (t.dev.sess n).lockUntil = y.lockUntil) ∧
    (∀ k, argRes (c.arg 0) = .ok k →
      let line (key : String) (h : BitVec 2) : List Byte := pairsText [("res", nameAt resourceNames k), (key, nameAt holderNames h.toNat)]
      let h := claimHolder x k
      (c.cmd.spec.cmd = .claim → Completes (.claim n) s fun t => onlyCon t ∧ (t.dev.sess n).priv = y.priv ∧
        if h = 0 ∨ h = me then Answers s t n c 0 [line "holder" me] ∧ claimed t (fun j => if j = k then me else claimHolder x j)
        else Answers s t n c 203 [line "holder" h] ∧ claimed t (claimHolder x)) ∧
      (c.cmd.spec.cmd = .release → Completes (.release n) s fun t => onlyCon t ∧ Answers s t n c 0 [] ∧ (t.dev.sess n).priv = y.priv ∧
        claimed t fun j => if j = k ∧ h = me then 0 else claimHolder x j) ∧
      (c.cmd.spec.cmd = .claimBreak → Completes (.claimBreak n) s fun t => Answers s t n c 0 [line "was" h] ∧ (t.dev.sess n).priv = y.priv ∧
        other t ∧ claimed t (fun j => if j = k then 0 else claimHolder x j) ∧ (h = 0 → onlyCon t) ∧
        Only (fun d e => { d with con := e.con, pci := e.pci, outs := e.outs, log := e.log }) s t)) ∧
    (c.cmd.spec.cmd = .claims → Completes (.claims n) s fun t => onlyCon t ∧ same t ∧
      Answers s t n c 0 ((List.range 14).map fun k =>
        pairsText [("res", nameAt resourceNames k), ("holder", nameAt holderNames (claimHolder x k).toNat)])) ∧
    (c.cmd.spec.cmd = .notify → ∀ k, argWord (c.arg 0) ["off", "info", "warn", "fault", "crit"] = .ok k →
      Completes (.notify n) s fun t => onlyCon t ∧ same t ∧ Answers s t n c 0 [] ∧ (t.dev.sess n).notice = k)

/-- The commands that only show something answer with what they show and change nothing else: 11_atser_commands (R279), 11_atser_commands (R286), 11_atser_commands (R287), 11_atser_commands (R289), 11_atser_commands (R290), 11_atser_commands (R298). -/
def Obligations.QueryCommandsAnswerAndChangeNothing : Prop :=
  ∀ (s : State) (n : Fin 2) (c : CmdCtx), Turn s n c →
    let shown (t : State) : Prop := t.dev.sess (1 - n.val) = s.dev.sess (1 - n.val) ∧ (t.dev.sess n).priv = (s.dev.sess n).priv ∧
      t.dev.con.claims = s.dev.con.claims ∧ Only (fun d e => { d with con := e.con, pci := e.pci, outs := e.outs, free := e.free, log := e.log }) s t
    let one (i : Instr) (k : Cmd) (l : List (String × List Byte)) : Prop := c.cmd.spec.cmd = k →
      Completes i s fun t => shown t ∧ Answers s t n c 0 [pairsText l] ∧ t.dev.free = s.dev.free ∧ t.dev.log = s.dev.log
    let f := s.dev.fab
    let a := s.dev.aon
    (∀ (k : Cmd) (i : Instr) (h : Handler) (code : Nat) (lines : List (List Byte)),
      (k, i, h) ∈ [(.help, .help n, hHelp), (.colophon, .colophon n, hColophon), (.status, .status n, hStatus), (.clu, .clu n, hClu),
        (.flashInfo, .flashInfo n, hFlashInfo), (.aclk, .aclk n, hAclk), (.pwrShow, .pwrShow n, hPwrShow), (.supRails, .supRails n, hSupRails),
        (.supPhases, .supPhases n, hSupPhases), (.supBak, .supBak n, hSupBak), (.lnkShow, .lnkShow n, hLnkShow), (.fabShow, .fabShow n, hFabShow),
        (.fabRoute, .fabRoute n, hFabRoute), (.timeShow, .timeShow n, hTimeShow), (.colShow, .colShow n, hColShow), (.sagShow, .sagShow n, hSagShow),
        (.sagRec, .sagRec n, hSagRec), (.crvShow, .crvShow n, hCrvShow), (.logShow, .logShow n, hLogShow), (.stageShow, .stageShow n, hStageShow),
        (.keyShow, .keyShow n, hKeyShow), (.testResult, .testResult n, hTestResult), (.claims, .claims n, hClaims)] →
      c.cmd.spec.cmd = k → (h (s.work.popLine n) c).1 = .done code lines →
      Completes i s fun t => shown t ∧ Answers s t n c code lines ∧ (k ≠ .supPhases → t.dev.free = s.dev.free) ∧
        (code < 500 → t.dev.log = s.dev.log)) ∧
    (c.cmd.spec.cmd = .logShow → (hLogShow (s.work.popLine n) c).1 = .wait .flashRead → Completes (.logShow n) s fun t =>
      Waits s t n c .flashRead ∧ t.dev.log = s.dev.log) ∧
    one (.aclk n) .aclk [("cur", decText s.dev.hub.cur.toNat), ("target", decText s.dev.hub.tgt.toNat),
      ("mhz", decText (720 + 90 * s.dev.hub.cur.toNat))] ∧
    one (.timeShow n) .timeShow [("ns", decText f.time.toNat), ("trusted", decText (if f.untrusted then 0 else 1)), ("skew", decText f.skew.toNat)] ∧
    one (.fabShow n) .fabShow [("chip", match f.chip with | some k => decText k.toNat | none => txt "none"), ("master", decText (if f.master then 1 else 0)),
      ("epoch", decText f.epoch.toNat), ("hash", hexText 8 s.dev.chash.toNat),
      ("state", txt (match f.state with | .alone | .joining => "alone" | .admitted => "admitted" | .refused | .quarantine => "quarantine"))] ∧
    one (.supBak n) .supBak [("src", if a.vbakSrc then txt "vbak" else txt "vaux"), ("mv", decText a.vbak), ("mj", decText (a.energy / 1000)),
      ("snapshot", decText (if 38000 ≤ a.energy then 1 else 0)), ("episodes", decText a.epi.toNat)] ∧
    one (.keyShow n) .keyShow (if s.dev.start.cfg.kid = 0 then [("key", txt "none"), ("kid", txt "none")]
      else [("key", txt "present"), ("kid", hexText 8 s.dev.start.cfg.kid.toNat)])

/-- The sag and crv commands check, answer, and do to saggars and the table store what the writes of their registers do. er 404 for en and dis of a KILLING saggar, er 406 for empty records, er 103 without off=, and a refused crv load or commit leaving slot, CRV.LSRC and binding, are the model's choice (log entry 35): 05_curve_tables (R121), 05_curve_tables (R123), 07_threads_ordering (R165), 07_threads_ordering (R198), 11_atser_commands (R292), 11_atser_commands (R293). -/
def Obligations.SaggarCommandsActAsTheirRegisters : Prop :=
  ∀ (s : State) (n : Fin 2) (c : CmdCtx) (k : Fin 128), Turn s n c →
    let g := s.dev.sag k
    let p := s.dev.cpage k
    let is (x : Cmd) : Prop := c.cmd.spec.cmd = x
    let frame (t : State) : Prop := Only (fun d e => { d with con := e.con, pci := e.pci, outs := e.outs, cmp := e.cmp, dma := e.dma }) s t
    let asWrite (i : Instr) (t : State) : Prop := ∃ u, exec i s.served = .next u ∧ t.dev.cmp = u.dev.cmp ∧ t.dev.dma = u.dev.dma
    let none_ (t : State) : Prop := t.dev.cmp = s.dev.cmp ∧ t.dev.dma = s.dev.dma
    let answer (t : State) (code : Nat) : Prop := Answers s t n c code []
    let refusal (t : State) : Prop := Answers s t n c 402
      [pairsText [("code", decText t.dev.cmp.crv.code.toNat), ("name", nameAt loadNames (t.dev.cmp.crv.code.toNat - 0x30))]]
    (argSag c = .ok k.val →
      (is .sagEn → Completes (.sagEn n) s fun t => frame t ∧
        if g.st = .killing then answer t 404 ∧ none_ t else answer t 0 ∧ asWrite (.saggarEnable .con k) t) ∧
      (is .sagDis → Completes (.sagDis n) s fun t => frame t ∧
        if g.st = .killing then answer t 404 ∧ none_ t else answer t 0 ∧ asWrite (.saggarDisable .con k) t) ∧
      (is .sagKill → Completes (.sagKill n) s fun t =>
        Only (fun d e => { d with con := e.con, pci := e.pci, outs := e.outs, cmp := e.cmp, pwr := e.pwr, temps := e.temps }) s t ∧ Waits s t n c (.sagOff k) ∧ asWrite (.saggarKill .con k) t) ∧
      (is .sagQuota → ∀ a b d, c.num "cmax" 0 256 = .ok a → c.num "tq" 0 128 = .ok b → c.num "slice" 0 0xFFFF = .ok d →
        Completes (.sagQuota n) s fun t => frame t ∧ answer t 0 ∧ (∀ j ≠ k.val, t.dev.sag j = s.dev.sag j) ∧
          t.dev.sag k = { g with cmax := (a.map (BitVec.ofNat 9)).getD g.cmax, tq := (b.map (BitVec.ofNat 8)).getD g.tq
                                 slice := (d.map (BitVec.ofNat 16)).getD g.slice }) ∧
      (is .sagMask → ∀ l, argNums (c.arg 1) 255 = .ok l → Completes (.sagMask n) s fun t => frame t ∧ answer t 0 ∧
        (∀ j ≠ k.val, t.dev.sag j = s.dev.sag j) ∧ t.dev.sag k = { g with cmask := (t.dev.sag k).cmask } ∧
        ∀ j < 256, (t.dev.sag k).cmask.getLsbD j = l.contains j) ∧
      (is .sagCount → ∀ f, c.flag "clear" = .ok f → Completes (.sagCount n) s fun t => frame t ∧ (∀ j ≠ k.val, t.dev.sag j = s.dev.sag j) ∧
        Answers s t n c 0 [pairsText [("sat", decText g.csat.toNat), ("flush", decText g.cflush.toNat), ("degen", decText g.degen.toNat),
          ("nanx", decText g.nanx.toNat)]] ∧
        t.dev.sag k = { g with degen := 0, nanx := 0, csat := if f then 0 else g.csat, cflush := if f then 0 else g.cflush }) ∧
      (is .sagAck →
        (argWord (c.arg 1) recordWords = .ok 0 → ∀ f, c.flag "resume" = .ok f → Completes (.sagAckTrap n) s fun t => frame t ∧
          if g.tfull then answer t 0 ∧ asWrite (if f then .trapAckResume .con k else .trapAckTerminate .con k) t
          else answer t 406 ∧ none_ t) ∧
        (argWord (c.arg 1) recordWords = .ok 1 → Completes (.sagAckFault n) s fun t => frame t ∧
          if (c.cmd.param "resume").isSome then answer t 302 ∧ none_ t
          else if g.ffull then answer t 0 ∧ asWrite (.faultAck .con k) t else answer t 406 ∧ none_ t) ∧
        (argWord (c.arg 1) recordWords = .ok 2 → ∀ v, argNum (c.arg 2) 0 0xFFFFFFFF = .ok v → Completes (.sagAckPoison n) s fun t => frame t ∧
          if (c.cmd.param "resume").isSome then answer t 302 ∧ none_ t
          else if g.poison.any (fun e => e.word == v) then answer t 0 ∧ asWrite (.poisonAck .con k (BitVec.ofNat 32 v)) t
          else answer t 406 ∧ none_ t)) ∧
      (is .crvBind → ∀ b v, argNum (c.arg 1) 0 7 = .ok b → argBind (c.arg 2) = .ok v → Completes (.crvBind n) s fun t => frame t ∧
        if p.pend then answer t 407 ∧ none_ t
        else answer t 0 ∧ t.dev.cpage k = { p with binds := Tab.put p.binds b v } ∧ ∀ j ≠ k.val, t.dev.cpage j = s.dev.cpage j) ∧
      (is .crvPerm → ∀ l, argNums (c.arg 1) 127 = .ok l → Completes (.crvPerm n) s fun t => frame t ∧
        if p.pend then answer t 407 ∧ none_ t
        else answer t 0 ∧ t.dev.cpage k = { p with rperm := (t.dev.cpage k).rperm } ∧ (∀ j ≠ k.val, t.dev.cpage j = s.dev.cpage j) ∧
          ∀ j < 128, (t.dev.cpage k).rperm.getLsbD j = l.contains j) ∧
      (is .crvMode → ∀ a b, c.num "bexo" 0 1 = .ok a → c.num "bounds" 0 1 = .ok b → Completes (.crvMode n) s fun t => frame t ∧
        if s.dev.cmp.crv.busy.isSome then answer t 405 ∧ none_ t
        else answer t 0 ∧ (∀ j ≠ k.val, t.dev.cpage j = s.dev.cpage j) ∧
          t.dev.cpage k = { p with bexo := (a.map (· == 1)).getD p.bexo, boundsOnly := (b.map (· == 1)).getD p.boundsOnly }) ∧
      (is .crvCommit → Completes (.crvCommit n) s fun t => frame t ∧
        if p.pend then answer t 407 ∧ none_ t
        else if s.dev.bankLoaded p.stagedBank then asWrite (.crvCommitWrite .con k) t ∧ Waits s t n c (.crvCommit k)
        else none_ t ∧ Answers s t n c 402 [pairsText [("code", decText 0), ("name", txt "refused")]])) ∧
    ∀ recipe m, argSlot c = .ok (recipe, m) →
      (is .crvLoad → ∀ off, c.num "off" 0 (2 ^ 64 - 1) = .ok off → Completes (.crvLoad n) s fun t => frame t ∧
        match off with
        | none => answer t 103 ∧ none_ t
        | some off =>
          if s.dev.cmp.crv.busy.isSome then answer t 405 ∧ none_ t
          else
            let s' := { s.served with dev := { s.served.dev with
              cmp := { s.dev.cmp with crv := { s.dev.cmp.crv with lsrc := BitVec.ofNat 64 off } } } }
            let v : Word := BitVec.ofNat 32 ((if recipe then 2 else 1) * 2 ^ 30 + 2 ^ 29 + m)
            ∃ u, exec (if recipe then .crvLoadRecipe .con v else .crvLoadTable .con v) s' = .next u ∧
              if u.dev.cmp.crv.busy.isSome then
                Waits s t n c .crvLoad ∧ t.dev.cmp = { u.dev.cmp with crv := { u.dev.cmp.crv with
                  busy := u.dev.cmp.crv.busy.map fun l => { l with undo := some s.dev.cmp.crv.lsrc } } }
              else refusal t ∧ t.dev.cmp.crv.code = u.dev.cmp.crv.code ∧ t.dev.cmp.crv.busy = none ∧
                t.dev.cmp.crv.lsrc = s.dev.cmp.crv.lsrc ∧ (∀ r j, t.dev.storeSlot r j = s.dev.storeSlot r j)) ∧
      (is .crvUnload → Completes (.crvUnloadCmd n) s fun t => frame t ∧
        if s.dev.cmp.crv.busy.isSome then answer t 405 ∧ none_ t
        else asWrite (.crvUnload .con (BitVec.ofNat 32 (3 * 2 ^ 30 + (if recipe then 2 ^ 28 else 0) + m))) t ∧
          if t.dev.cmp.crv.code = 0x30 then answer t 0 else refusal t)

/-- The clock, power, link, fabric, time, stage, log, key, reset and test commands take effect, wait, or are turned away. er 408 before er 300 and the line drained= of fab chip (log entry 35), and the order of the sectors that log clear erases (log entry 36), are the model's choice: 11_atser_commands (R283), 11_atser_commands (R287), 11_atser_commands (R288), 11_atser_commands (R290), 11_atser_commands (R291), 11_atser_commands (R294), 11_atser_commands (R296), 11_atser_commands (R298), 11_atser_commands (R299), 11_atser_commands (R300). -/
def Obligations.SettingCommandsActAsTheirRegisters : Prop :=
  ∀ (s : State) (n : Fin 2) (c : CmdCtx), Turn s n c →
    let is (x : Cmd) : Prop := c.cmd.spec.cmd = x
    let only (keep : Dev → Dev → Dev) (t : State) : Prop :=
      Only (fun d e => { keep d e with con := e.con, pci := e.pci, outs := e.outs, log := e.log }) s t
    let asWrite (i : Instr) (t : State) : Prop := ∃ u, exec i s.served = .next u ∧ t.mem = u.mem ∧
      t.dev = { u.dev with con := t.dev.con, pci := t.dev.pci, outs := t.dev.outs, start := s.dev.start
                           pwr := { u.dev.pwr with returning := s.dev.pwr.returning } }
    let answer (t : State) (code : Nat) : Prop := Answers s t n c code []
    let nothing (t : State) (code : Nat) : Prop := answer t code ∧ only (fun d _ => d) t ∧ (code < 500 → t.dev.log = s.dev.log)
    let cfg := s.dev.start.cfg
    let stopped : Drain :=
      ⟨(List.range 128).filter fun k => (s.dev.sag k).st == .running, (List.range 256).filter fun q => (s.dev.q q).en, s.dev.now⟩
    let drains (t : State) : Prop := Waits s t n c .drain ∧ t.dev.con.drain = some stopped ∧
      (∀ k < 128, (t.dev.sag k).st = if (s.dev.sag k).st = .running then (if s.dev.sagBusy k then .draining else .off) else (s.dev.sag k).st) ∧
      (∀ q < 256, t.dev.q q = { s.dev.q q with en := false }) ∧ only (fun d e => { d with cmp := e.cmp, dma := e.dma }) t
    let resumed (t : State) : Prop := t.dev.con.drain = none ∧ (∀ k < 128, (t.dev.sag k).st = (s.dev.sag k).st) ∧
      ∀ q < 256, (t.dev.q q).en = (s.dev.q q).en
    let setting (i : Instr) (now drained : State → Prop) : Prop := ∀ d, c.flag "drain" = .ok d → Completes i s fun t =>
      if d then (if s.work.drainStart.dev.atLoad then drains t else drained t)
      else if s.dev.atLoad then nothing t 403 else now t
    let flashes (c' : Cfg) (by_ : Option Nat) (t : State) : Prop :=
      let x := { c' with gen := cfg.gen + 1, sector := 1 - cfg.sector }
      Waits s t n c .flash ∧ t.dev.log = { s.dev.log with
        cfgw := some ⟨1 - cfg.sector, x.bytes, x, by_⟩, cfgRes := none
        ops := s.dev.log.ops ++ [⟨true, 0x1000 * (1 - cfg.sector), [], .cfg 0⟩] }
    let writes (i : Instr) (c' : Cfg) (by_ : Option Nat) : Prop := setting i
      (fun t => if s.dev.aon.mayFlash eraseCost then flashes c' by_ t ∧ only (fun d _ => d) t else nothing t 502)
      fun t => if s.dev.aon.mayFlash eraseCost then flashes c' by_ t ∧ t.dev.con.drain = some stopped else answer t 502 ∧ resumed t
    (is .aclkSet → ∀ p, argNum (c.arg 0) 0 8 = .ok p → Completes (.aclkSet n) s fun t => asWrite (.aclkTargetWrite .con (BitVec.ofNat 32 p)) t ∧
      if t.dev.hub.changing then Waits s t n c .aclk else Answers s t n c 0 [kvText "cur" (decText s.dev.hub.cur.toNat)]) ∧
    (is .pwrReq → ∀ k x l f, argWord (c.arg 0) ["clu", "hub", "port", "hbm"] = .ok k → argWord (c.arg 1) ["active", "idle", "banked"] = .ok x →
      c.domains k = .ok l → c.flag "force" = .ok f → Completes (.pwrReq n) s fun t =>
        let tgt : PSt := match x with | 0 => .active | 1 => .idle | _ => .banked
        Waits s t n c (.pwr l (f && tgt ≠ .active)) ∧
        (f = true → tgt ≠ .active → ∀ d ∈ l, (t.dev.dom d).forceReq = some tgt ∧ (t.dev.dom d).forceCon = true ∧ (t.dev.dom d).cur = (s.dev.dom d).cur) ∧
        ∀ d, f = false → tgt ≠ .active → l = [d] → d ≠ hubDom →
          (((s.dev.dom d).entry.isSome ∨ (s.dev.dom d).wake.isSome) → (t.dev.dom d).queued = (s.dev.dom d).queued ++ [⟨tgt, false, false, true⟩]) ∧
          ((s.dev.dom d).entry = none → (s.dev.dom d).wake = none → (s.dev.dom d).cur = .active → (t.dev.dom d).fromCon = true ∧
            (t.dev.dom d).entry = some ⟨.request, if k = 2 then .banked else tgt, domPorts d, [], false, false, s.dev.now, []⟩)) ∧
    (is .pwrRefusals → ∀ f lines, c.flag "clear" = .ok f →
      c.page (s.dev.pwr.reftab.map fun x => pairsText [("refuser", refuserName x.1.toNat), ("count", decText x.2.toNat)]) = .done 0 lines →
      Completes (.pwrRefusals n) s fun t => Answers s t n c 0 lines ∧ only (fun d e => { d with pwr := e.pwr }) t ∧
        t.dev.pwr = if f then { s.dev.pwr with reftab := [] } else s.dev.pwr) ∧
    (∀ p : Fin 12, argNum (c.arg 0) 0 11 = .ok p.val →
      (is .lnkTrain → Completes (.lnkTrain n) s fun t => asWrite (.lnkTrainStart .con p) t ∧
        if t.dev.training p then answer t 0 else Waits s t n c (.lnkTrain p)) ∧
      (is .lnkPark → Completes (.lnkPark n) s fun t => asWrite (.lnkTrainPark .con p) t ∧
        if (t.dev.port p).state = .parked then answer t 0 else Waits s t n c (.lnkPark p))) ∧
    (is .lnkAlloc → ∀ l, argLanes (c.arg 0) = .ok l → writes (.lnkAlloc n) { cfg with lanes := lanesBytes l } none) ∧
    (is .fabChip → ∀ x, argChip (c.arg 0) = .ok x → 
      let v : Word := match x with | some k => BitVec.ofNat 32 (2 ^ 31 + k) | none => 0
      setting (.fabChip n) (fun t => answer t 0 ∧ asWrite (.chipovWrite .con v) t) fun t => resumed t ∧ t.dev.fab.chipov = v ∧
        Answers s t n c 0 (sideLines (listTexts stopped.sags) (listTexts stopped.queues))) ∧
    (is .fabSlice → ∀ x, argNum (c.arg 0) 0 0xFFFF = .ok x → writes (.fabSlice n) { cfg with slice := BitVec.ofNat 16 x } none) ∧
    (is .keySet → ∀ k key, argKey c = .ok (k, key) → writes (.keySet n) { cfg with kid := BitVec.ofNat 32 k, key := key } (some n.val)) ∧
    (is .keyClear → writes (.keyClear n) { cfg with kid := 0, key := List.replicate 32 0 } (some n.val)) ∧
    (is .timeSet → ∀ x, argNum (c.arg 0) 0 (2 ^ 64 - 1) = .ok x → Completes (.timeSet n) s fun t =>
      if s.dev.fab.state = .admitted ∧ s.dev.fab.master = false then nothing t 408
      else if x < s.dev.fab.time.toNat then nothing t 300
      else answer t 0 ∧ t.dev.fab = { s.dev.fab with time := BitVec.ofNat 64 x } ∧ only (fun d e => { d with fab := e.fab }) t) ∧
    (is .logMark → ∀ m, c.arg 0 = some (.val (.str m)) → Completes (.logMark n) s fun t => answer t 0 ∧ only (fun d _ => d) t ∧
      t.dev.log = s.dev.log.enqueue s.dev.now ⟨0x0800, srcOf 0x0A n, none, zeroPad 64 m, s.dev.stampTime, 0, 1, [], []⟩) ∧
    (is .logClear → Completes (.logClear n) s fun t =>
      if s.dev.aon.vbakSrc = true ∨ s.dev.aon.mayFlash eraseCost = false then nothing t 502
      else Waits s t n c .flash ∧ only (fun d _ => d) t ∧
        t.dev.log = { s.dev.log with cfgRes := none, oldm := t.dev.log.oldm, ops := s.dev.log.ops ++
          [⟨true, 0x800000 + (s.dev.log.mpage / 16 + 1) % 2048 * 4096, [], .clear true 2047⟩] } ∧
        (s.dev.log.ops ≠ [] → t.dev.log.oldm = s.dev.log.oldm)) ∧
    (is .stageSet → ∀ (k : Fin 5) v, argWord (c.arg 0) settingNames = .ok k.val → argNum (c.arg 1) 0 60000 = .ok v → Completes (.stageSet n) s fun t =>
      if stageRange k v = false then nothing t 300 else if s.dev.stage.pend then nothing t 407
      else answer t 0 ∧ asWrite (.stageRegisterWrite .con k (BitVec.ofNat 32 (2 ^ 31 + v))) t) ∧
    (is .stageDrop → Completes (.stageDrop n) s fun t =>
      if s.dev.stage.pend then nothing t 407
      else answer t 0 ∧ t.dev.stage = { s.dev.stage with stg := [] } ∧ only (fun d e => { d with stage := e.stage }) t) ∧
    (is .commit → Completes (.commit n) s fun t =>
      if s.dev.stage.pend then nothing t 407
      else asWrite (.stageCommitWrite .con) t ∧
        if t.dev.stage.pend then Waits s t n c .commit else Answers s t n c 0 [kvText "gen" (decText s.dev.stage.cgen.toNat)]) ∧
    (is .reset → ∀ k, argWord (c.arg 0) ["warm", "cold"] = .ok k → Completes (.reset n) s fun t => answer t 0 ∧ only (fun d _ => d) t ∧
      t.dev.con.resetCmd = some (k == 1)) ∧
    (is .testBscan → ∀ k, argWord (c.arg 0) ["off", "on"] = .ok k → Completes (.testBscan n) s fun t =>
      if s.dev.atLoad = true then nothing t 403
      else answer t 0 ∧ only (fun d e => { d with start := e.start }) t ∧ t.dev.start = { s.dev.start with owner := k == 1 })

/-- A port's attempt goes from signal detect through its phases, or fails with its cause; probes, parking and training by command. That skew is measured against the earliest locked lane is the model's choice (log entry 41), and that an early RESUME is kept (log entry 24): 12_optical_links (R308), 12_optical_links (R309), 12_optical_links (R310), 12_optical_links (R311), 12_optical_links (R312), 12_optical_links (R313), 12_optical_links (R314), 12_optical_links (R315), 12_optical_links (R316), 12_optical_links (R317), 12_optical_links (R327), 12_optical_links (R329). -/
def Obligations.LinkTrainingSteps : Prop :=
  ∀ (s : State) (p : Fin 12), s.dev.noWaits = true →
    let x := s.dev.port p
    let now := s.dev.now
    let frame (t : State) : Prop := (∀ o ≠ p.val, t.dev.port o = s.dev.port o) ∧
      Only (fun d e => { d with ports := e.ports, pwr := e.pwr, log := e.log, outs := e.outs, free := e.free }) s t
    let sent (t : State) (l : List Byte) : Prop := t.dev.outs = .flit p (trainFlit false l) :: s.dev.outs
    let lanes (t : State) (f : Bool → LaneSignal) : Prop := (s.dev.dom (portDom p)).cur = .active →
      ∀ i, x.base ≤ i → i < x.base + x.count → t.dev.laneSends p i = f ((t.dev.port p).lanes.getLsbD i)
    let resumed (t : State) (l : List Byte) : Prop := let e := leAt l 4 4
      if (l.drop 0x10).take 32 = resumeTag x.sess.z (!x.sess.initiator) e (leAt l 8 8) ∧ e < 4096 ∧
          (BitVec.ofNat 12 e - x.sess.a).toNat ≤ (x.sess.n - x.sess.a).toNat then
        (t.dev.port p).state = .up ∧ (t.dev.port p).phase = .none ∧ (t.dev.port p).sess.a = BitVec.ofNat 12 e
      else LinkLost s t p 0x0B
    let begun (t : State) (probe : Bool) : Prop := frame t ∧ lanes t (fun _ => .frames) ∧ let y := t.dev.port p
      y.state = .train ∧ y.phase = .lane ∧ y.phaseAt = now ∧ y.encNow = false ∧ y.probeAttempt = probe ∧ y.armRx = false ∧
        y.nonce = (rangeFrom s.dev.free 16).map Config.randomByte ∧ t.dev.free = s.dev.free + 16 ∧ Counted s t p 0 1
    (Completes (.signalDetect p) s fun t =>
      if s.dev.admits (portDom p) = true ∧ x.state = .detect then begun t false
      else if s.dev.admits (portDom p) = true ∧ x.state = .parked ∧
        (x.probing.isSome = true ∨ ∀ e, x.lastEnd = some e → e + s.dev.reprobe.toNat * 1000000 ≤ now) then begun t true
      else t = s) ∧
    (∀ (mine peer : BitVec 96) (arrive : List Nat) (k : Nat), Completes (.lanePhaseDone p mine arrive peer k) s fun t =>
      let both (i : Nat) : Bool := mine.getLsbD i && peer.getLsbD i &&
        (List.range 96).all fun j => !mine.getLsbD j || decide (arrive.getD i 0 ≤ arrive.getD j 0 + 64)
      let kept (l : List Nat) : Prop := frame t ∧ lanes t (fun used => if used then .frames else .idle) ∧ let y := t.dev.port p
        y.phase = .align ∧ y.state = x.state ∧ y.width = l.length ∧ ∀ i < 96, (y.lanes.getLsbD i = true ↔ ∃ j ∈ l, i = x.base + j)
      if x.phase ≠ .lane then t = s
      else if x.state = .train then
        let l := (List.range (min x.count k)).filter both
        if l.length < 2 then frame t ∧ AttemptFailed s t p 0x0A else kept (l.take (l.length / 2 * 2))
      else if x.state = .retrain then
        let l := (List.range x.count).filter fun i => x.lanes.getLsbD (x.base + i) && both i && !x.dropped.getLsbD (x.base + i)
        Counted s t p 5 (x.width - l.length) ∧ if l.length < 2 then LinkLost s t p 0x0A ∧ (t.dev.port p).causePhase = Phase.lane.code else kept (l.take (l.length / 2 * 2))
      else t = s) ∧
    (Completes (.alignPhaseDone p) s fun t =>
      if x.phase = .align ∧ x.state = .train then
        frame t ∧ (t.dev.port p) = { x with phase := .ident, phaseAt := now, lastTrain := now } ∧ sent t (s.dev.identPayload p)
      else if x.phase = .align ∧ x.state = .retrain then
        match x.early with
        | none => frame t ∧ (t.dev.port p) = { x with phase := .resume, phaseAt := now, lastTrain := now } ∧
          ∃ l, t.dev.trainPayload p = some l ∧ t.dev.outs = .flit p (trainFlit x.encNow l) :: s.dev.outs
        | some l => resumed t l
      else t = s) ∧
    (∀ f l, TrainMsg f l →
      (x.state = .train → x.phase = .ident → leAt f 8 1 = 1 → Completes (.ident p f) s fun t => frame t ∧
        match identCheck s.dev p l with
        | .error c => AttemptFailed s t p c
        | .ok (peer, enc) => t.dev.port p = { x with peer := some peer, enc := enc, phase := .auth, phaseAt := now, lastTrain := now } ∧
          sent t (leBytes 4 2 ++ authTag s.dev.start.cfg.key x.nonce peer (initiatorOf peer))) ∧
      (∀ peer, x.state = .train → x.phase = .auth → x.peer = some peer → leAt f 8 1 = 2 → Completes (.auth p f) s fun t => frame t ∧
        if (l.drop 4).take 32 = authTag s.dev.start.cfg.key x.nonce peer (!initiatorOf peer) then
          t.dev.port p = { x with authSt := 1, phase := .arm, phaseAt := now, lastTrain := now } ∧
          sent t (leBytes 4 (3 + (if x.enc then 1 else 0) * 2 ^ 8 + x.width * 2 ^ 16))
        else AttemptFailed s t p 7 ∧ (t.dev.port p).authSt = 2 ∧ Counted s t p 3 1) ∧
      (∀ peer, x.state = .train → x.phase = .arm → x.armRx = false → x.peer = some peer → leAt f 8 1 = 3 → Completes (.arm p f) s fun t => frame t ∧
        if bits (leAt l 0 4) 23 16 = x.width ∧ bit (leAt l 0 4) 8 = x.enc then let y := t.dev.port p
          y.armRx = true ∧ y.encNow = x.enc ∧ y.sess.z = sessionKey s.dev.start.cfg.key x.nonce peer ∧ y.sess.initiator = initiatorOf peer ∧
          y.sess.a = 0 ∧ y.sess.n = 0 ∧ y.sess.e = 0 ∧ y.sess.replay = [] ∧ y.state = .train
        else AttemptFailed s t p 4) ∧
      (x.state = .retrain → leAt f 8 1 = 4 → Completes (.resume p f) s fun t =>
        if x.phase = .resume then resumed t l else frame t ∧ t.dev.port p = { x with early := some l }) ∧
      ∀ c, (leAt f 8 1 = 1 ∧ c = .ident p f) ∨ (leAt f 8 1 = 2 ∧ c = .auth p f) ∨ (leAt f 8 1 = 3 ∧ c = .arm p f) ∨ (leAt f 8 1 = 4 ∧ c = .resume p f) →
        (Completes (.train p f) s fun t => exec c s = .next t) ∧
        (x.state = .up → Completes c s fun t => Counted s t p 12 1 ∧
          if 17 ≤ (recentMs now x.sess.protoErrs).length + 1 then LinkLost s t p 0x0E else (t.dev.port p).state = .up)) ∧
    (∀ f, flitWf f = true →
      (flitCrcOk f = false → x.state = .up → Completes (.train p f) s fun t =>
        (t.dev.port p).state = .up ∧ Counted s t p 6 1 ∧ (t.dev.port p).sess.lastRx = now) ∧
      (flitCrcOk f = true → bits (leAt f 0 8) 63 60 = 3 → leAt f 0 8 ≠ 3 * 2 ^ 60 → leAt f 0 8 ≠ 3 * 2 ^ 60 + 2 ^ 23 → x.state = .retrain →
        Completes (.train p f) s fun t => Counted s t p 12 1 ∧
          if 17 ≤ (recentMs now x.sess.protoErrs).length + 1 then LinkLost s t p 0x0E else (t.dev.port p).state = .retrain)) ∧
    (Completes (.trainingPhaseTimeout p) s fun t =>
      if x.state = .train ∧ x.phaseAt + x.phase.timeout ≤ now then frame t ∧ AttemptFailed s t p 1 else t = s) ∧
    (Completes (.quietEnd p) s fun t =>
      if x.state = .quiet ∧ x.phaseAt + 10000000 ≤ now then frame t ∧ (t.dev.port p).state = .detect ∧ (t.dev.port p).peer = none else t = s) ∧
    (Completes (.unplug p) s fun t =>
      if x.state = .train then frame t ∧ (t.dev.port p).state = .detect ∧ (t.dev.port p).cause = 2 ∧ (t.dev.port p).fails = x.fails ∧ Counted s t p 2 1
      else t = s) ∧
    (Completes (.reprobe p) s fun t =>
      if x.state = .parked ∧ s.dev.admits (portDom p) = true ∧ x.probing = none ∧
        (∃ t0, x.parkedAt = some t0 ∧ (x.lastProbe - t0) / (s.dev.reprobe.toNat * 1000000) < (now - t0) / (s.dev.reprobe.toNat * 1000000))
      then frame t ∧ (t.dev.port p).probing = some now ∧ (t.dev.port p).state = .parked ∧ Counted s t p 14 1 else t = s) ∧
    (Completes (.reprobeWindowEnd p) s fun t =>
      if ∃ t0, x.probing = some t0 ∧ t0 + 20000000 ≤ now then frame t ∧ t.dev.port p = { x with probing := none } else t = s) ∧
    (Completes (.trainResend p) s fun t =>
      match s.dev.trainPayload p with
      | some l => if x.state = .train ∧ x.lastTrain + 1000 ≤ now then frame t ∧ t.dev.port p = { x with lastTrain := now } ∧ sent t l else t = s
      | none => t = s) ∧
    ∀ ag : Agent, s.dev.serves ag .glob = true →
      (Completes (.lnkTrainStart ag p) s fun t =>
        if x.state = .detect then frame t ∧ t.dev.port p = { x with fails := 0 }
        else if x.state = .parked ∨ x.state = .quiet then frame t ∧ (t.dev.port p).state = .detect ∧ (t.dev.port p).fails = 0
        else t = s) ∧
      Completes (.lnkTrainPark ag p) s fun t =>
        if x.state = .off ∨ (x.state = .up ∧ x.parkAfter = true) then t = s
        else if x.state = .up then frame t ∧ (t.dev.port p).state = .up ∧ (t.dev.port p).parkAfter = true ∧ (t.dev.port p).sess.orderly = some now
        else (t.dev.port p).state = .parked ∧ (t.dev.port p).cause = 0x0F ∧ (t.dev.port p).fails = 3

/-- Flits accepted, refused, acknowledged and replayed on a link; its timers; what makes it retrain or go down. The limit of 2,125 corrected symbols, and that a flit on a port that is not UP changes nothing, are the model's choice (log entry 24): 12_optical_links (R309), 12_optical_links (R320), 12_optical_links (R321), 12_optical_links (R322), 12_optical_links (R323), 12_optical_links (R324), 12_optical_links (R328), 12_optical_links (R329), 12_optical_links (R330). -/
def Obligations.LinksCarryFlitsAndGoDown : Prop :=
  ∀ (s : State) (p : Fin 12), s.dev.noWaits = true →
    let x := s.dev.port p
    let now := s.dev.now
    let flits (f : List Byte) : List Instr := [.data p f, .nullFlit p f, .nak p f, .down p f]
    let acked (t : State) (h : FlitHead) : Prop := (t.dev.port p).sess.a = if h.ackv then BitVec.ofNat 12 h.ack + 1 else x.sess.a
    (∀ f, flitWf f = true → ∀ c ∈ flits f,
      (x.state = .up → flitCrcOk f = false → Completes c s fun t => (t.dev.port p).state = .up ∧
        Counted s t p 6 1 ∧ (t.dev.port p).sess.e = x.sess.e ∧ (t.dev.port p).sess.rx = x.sess.rx ∧
        (t.dev.port p).sess.nakSince = some now ∧ (t.dev.port p).sess.lastRx = now ∧ Counted s t p 9 1) ∧
      (x.state ≠ .up → ¬(x.state = .train ∧ x.phase = .arm ∧ x.armRx = true) → Completes c s fun t => t = s)) ∧
    (∀ f h l, Accepts x f h l →
      (h.ty = 1 → Completes (.data p f) s fun t => t.mem = s.mem ∧ acked t h ∧ let y := t.dev.port p
        let seq := BitVec.ofNat 12 h.seq
        let pkt := l.take (4 * h.plen)
        y.state = .up ∧
        (seq = x.sess.e → y.sess.e = x.sess.e + 1 ∧ y.sess.ackv = true ∧ y.sess.nakSince = none ∧ y.frx = x.frx + 1 ∧
          (pktOk pkt = true → ptypeTaken (pktOf pkt).ptype = true → y.sess.rx = x.sess.rx ++ [(h.vc, pkt)]) ∧
          (pktOk pkt = false → y.sess.rx = x.sess.rx)) ∧
        (seq ≠ x.sess.e → y.sess.e = x.sess.e ∧ y.frx = x.frx ∧ y.sess.rx = x.sess.rx ∧
          ((seq - x.sess.e).toNat < 2048 → y.sess.nakSince.isSome = true))) ∧
      (h.ty = 0 → Completes (.nullFlit p f) s fun t => t.mem = s.mem ∧ acked t h ∧ let y := t.dev.port p
        y.state = .up ∧ y.sess.e = x.sess.e ∧ y.sess.rx = x.sess.rx ∧ y.sess.lastRx = now ∧
        (x.txq = [] → s.dev.fab.fwd = [] →
          (∀ vc, Tab.look 64 y.sess.credits vc = Tab.look 64 x.sess.credits vc + if h.crn ≠ 0 ∧ vc = h.crvc then h.crn else 0) ∧
          (h.ackv = true → y.sess.replay = x.sess.replay.drop (BitVec.ofNat 12 h.ack + 1 - x.sess.a).toNat))) ∧
      (h.ty = 2 → Completes (.nak p f) s fun t => acked t h ∧ (x.sess.replays < 8 → t.mem = s.mem ∧ (t.dev.port p).state = .up) ∧
        (h.ackv = false → x.sess.replay ≠ [] → x.txq = [] → s.dev.fab.fwd = [] →
          if 8 ≤ x.sess.replays then (t.dev.port p).state = .retrain ∧ (t.dev.port p).cause = 0x0C
          else (t.dev.port p).sess.replays = x.sess.replays + 1 ∧ (t.dev.port p).sess.replay = x.sess.replay ∧ Counted s t p 10 1)) ∧
      (h.ty = 4 → Completes (.down p f) s fun t => LinkLost s t p 0x0F)) ∧
    (∀ f h l, x.state = .train → x.phase = .arm → x.armRx = true → Accepts { x with state := .up } f h l → h.ty = 0 →
      Completes (.nullFlit p f) s fun t => (t.dev.port p).state = .up ∧ (t.dev.port p).phase = .none ∧ (t.dev.port p).fails = 0 ∧
        (t.dev.port p).parkedAt = none) ∧
    (∀ f, x.state = .train → x.phase = .arm → x.armRx = true → x.encNow = false → flitWf f = true → flitCrcOk f = true →
      bits (leAt f 0 8) 63 60 = 0 → x.flitBad f = true →
      Completes (.nullFlit p f) s fun t => (t.dev.port p).state = .train ∧ Counted s t p 12 1) ∧
    (Completes (.nullFlitTimer p) s fun t =>
      if x.state = .up ∧ x.sess.lastTx + 1000 ≤ now then (∃ f, t.dev.outs = .flit p f :: s.dev.outs ∧ ((∀ v ∈ x.sess.toReturn, v.1 < 8) → (headOf (leAt f 0 8)).ty = 0)) ∧
        (t.dev.port p).sess.lastTx = now ∧ (t.dev.port p).sess.txCtr = x.sess.txCtr + 1 ∧ (∀ o ≠ p.val, t.dev.port o = s.dev.port o) ∧
        Only (fun d e => { d with ports := e.ports, outs := e.outs }) s t
      else t = s) ∧
    (Completes (.nakExpiry p) s fun t =>
      if ∃ t0, x.sess.nakSince = some t0 ∧ t0 + 10000 ≤ now then
        t.dev.port p = { x with sess := { x.sess with nakSince := none } } ∧ (∀ o ≠ p.val, t.dev.port o = s.dev.port o) ∧
        Only (fun d e => { d with ports := e.ports }) s t
      else t = s) ∧
    (Completes (.replayTimeout p) s fun t =>
      if x.state = .up ∧ x.sess.replay ≠ [] ∧ x.sess.lastA + 10000 ≤ now then
        if 8 ≤ x.sess.replays then Retrains s t p [] ∧ (t.dev.port p).cause = 0x0C
        else (t.dev.port p).state = .up ∧ (t.dev.port p).sess.replays = x.sess.replays + 1 ∧ (t.dev.port p).sess.lastA = now ∧ Counted s t p 10 1
      else t = s) ∧
    (∀ lane : Fin 96, let used : Prop := x.state = .up ∧ x.lanes.getLsbD lane = true
      (Completes (.lockLoss p lane) s fun t => if used then Retrains s t p [lane.val] else t = s) ∧
      ∀ n, (Completes (.codewordErrors p lane n) s fun t =>
          if used then Counted s t p 8 n ∧ (4 < n → Retrains s t p [lane.val]) ∧ (n ≤ 4 → (t.dev.port p).state = .up) else t = s) ∧
        Completes (.symbolErrorRatio p lane n) s fun t =>
          if used then Counted s t p 7 n ∧ (2125 < n → Retrains s t p [lane.val]) ∧ (n ≤ 2125 → (t.dev.port p).state = .up) else t = s) ∧
    (Completes (.flitSilence p) s fun t => if x.state = .up ∧ x.sess.lastRx + 10000 ≤ now then Retrains s t p [] else t = s) ∧
    (Completes (.retrainPattern p) s fun t => if x.state = .up then Retrains s t p [] else t = s) ∧
    (Completes (.retrainTimeout p) s fun t => if x.state = .retrain ∧ x.retrainAt + 2000000 ≤ now then LinkLost s t p (if x.sess.orderly.isSome then 0x0F else 1)
      else t = s) ∧
    Completes (.orderlyDownEnd p) s fun t =>
      if ∃ t0, x.sess.orderly = some t0 ∧ (x.state = .up ∧ x.sess.a = x.sess.n ∨ (x.state = .up ∨ x.state = .retrain) ∧ t0 + 1000000 ≤ now)
      then LinkLost s t p 0x0F else t = s

/-- WRITE, READ, ATOMIC and RESP are performed once and in order at their destination; ACK, CLOSE and CLOSED; the timers of a stream. That every request is answered by a RESP in a stream of the responder, and that a stream is doomed when its destination or route goes, are the model's choice (log entry 33): 07_threads_ordering (R200), 13_fabric (R340), 13_fabric (R341), 13_fabric (R342), 13_fabric (R343), 13_fabric (R344), 13_fabric (R345). -/
def Obligations.SequencedPacketsArePerformed : Prop :=
  ∀ s : State, s.dev.noWaits = true →
    let f := s.dev.fab
    let now := s.dev.now
    (∀ (p : Fin 12) (vc : Fin 8) (ecc : List Ecc) (ty : Nat) (c : Instr) (k : Pkt), Arrives s p vc ty k →
      (ty, c) ∈ [(1, .write p ⟨vc, ecc⟩), (2, .read p ⟨vc, ecc⟩), (3, .atomic p ⟨vc, ecc⟩), (4, .resp p ⟨vc, ecc⟩)] →
      (∀ r, InOrder s vc k r →
        (∀ l, ty = 1 → Targets s ecc k (.store k.data.length) (piecesOf k.addr k.data.length) l → Completes c s fun t =>
          Taken1 s t p vc ∧ Advanced t vc k r ∧ Responds s t vc k 0 0 [] ∧
          t.mem = s.mem.applyAll (l.map fun x => .bytes x.2.2.1 x.2.2.2 ((k.data.drop (x.1 - k.addr)).take x.2.1))) ∧
        (∀ l, ty = 2 → 0 < k.arg → k.arg ≤ 128 → Targets s ecc k (.load k.arg) (piecesOf k.addr k.arg) l → Completes c s fun t =>
          Taken1 s t p vc ∧ Advanced t vc k r ∧ t.mem = s.mem ∧
          Responds s t vc k 0 0 (l.flatMap fun x => s.mem.bytes x.2.2.1 x.2.2.2 x.2.1)) ∧
        (∀ op a sp pa, ty = 3 → amoCodes[bits k.arg 3 0]? = some op → let n := if bit k.arg 4 then 8 else 4
          (op = .fadd → n = 4) → k.addr % n = 0 → Targets s ecc k (.amo n (amoReads op) (amoWrites op)) [(k.addr, n)] [(a, n, sp, pa)] →
          Completes c s fun t => Taken1 s t p vc ∧ Advanced t vc k r ∧
            let old := leVal (s.mem.bytes sp pa n)
            Responds s t vc k 0 0 (if op = .store then [] else leBytes n old) ∧
            t.mem = if op = .load then s.mem
              else s.mem.apply1 (.bytes sp pa (leBytes n (amoLeaves op n old (leAt k.data 0 n) (leAt k.data n n))))) ∧
        ∀ o, ty = 4 → s.dev.cmp.held = [] → f.ops.find? (fun o => o.sag == k.tsag && o.chip == k.src && o.vc == vc.val && o.seq == some (BitVec.ofNat 32 k.rseq)) = some o →
          Completes c s fun t => Taken1 s t p vc ∧ Advanced t vc k r ∧ t.mem = s.mem ∧ t.dev.fab.ops = f.ops.filter (fun y => y.id ≠ o.id) ∧
            ∀ x a lane off b, o.use = .load x a lane off → s.dev.bundle x.cl x.vu = some b →
              (bits k.arg 31 24 = 0 → t.dev.bundle x.cl x.vu = some { b.patch a lane off k.data with memOut := b.memOut - 1 }) ∧
              (bits k.arg 31 24 ≠ 0 → ∃ b', t.dev.bundle x.cl x.vu = some b' ∧ b'.faulted = true)) ∧
      (∀ r, f.recvs.find? (fun x => x.is k vc) = some r → let d := (BitVec.ofNat 32 k.seq - r.e).toNat
        0 < d → Completes c s fun t => Taken1 s t p vc ∧ t.mem = s.mem ∧ t.dev.fab.ops = f.ops ∧
          t.dev.fab.recvs.find? (fun x => x.is k vc) = some
            (if d ≤ 256 then { r with held := (r.held.filter fun y => y.1 ≠ BitVec.ofNat 32 k.seq) ++ [(BitVec.ofNat 32 k.seq, k.bytes)] } else r) ∧
          (256 < d → d < 2 ^ 31 → t.dev.fab.cnt = cntAdd f.cnt 6 1)) ∧
      (f.recvs.find? (fun x => x.is k vc) = none → k.opn = false → Completes c s fun t => Taken1 s t p vc ∧ t.mem = s.mem ∧
        t.dev.fab = { f with cnt := cntAdd f.cnt 3 1 })) ∧
    (∀ (p : Fin 12) (vc : Fin 8) (ecc : List Ecc) (c : Instr) (ty : Nat) (bytes : List Byte),
      (ty, c) ∈ [(1, .write p ⟨vc, ecc⟩), (2, .read p ⟨vc, ecc⟩), (3, .atomic p ⟨vc, ecc⟩), (4, .resp p ⟨vc, ecc⟩)] ∨ (vc.val = 7 ∧ (ty, c) ∈ [(5, .ack p), (6, .close p), (7, .closed p)]) →
      (s.dev.port p).sess.rx.find? (fun x => x.1 == vc.val) = some (vc.val, bytes) → (pktOf bytes).ptype = ty → (pktOf bytes).slice ≠ f.sliceid.toNat →
      Completes c s fun t => Taken1 s t p vc ∧ t.mem = s.mem ∧ t.dev.fab = { f with cnt := cntAdd f.cnt 2 1 }) ∧
    (∀ (p : Fin 12) (k : Pkt),
      (∀ st, Arrives s p 7 5 k → s.dev.sendStream k = some st → Completes (.ack p) s fun t => Taken1 s t p 7 ∧
        t.dev.fab = { f with sends := f.sends.map fun x => if x.key = st.key then
          { x with unacked := x.unacked.filter fun y => 2 ^ 31 ≤ (BitVec.ofNat 32 k.seq - y.seq).toNat } else x }) ∧
      (Arrives s p 7 6 k → Completes (.close p) s fun t => Taken1 s t p 7 ∧ t.dev.fab = { f with recvs := f.recvs.filter fun r => !r.is k (bits k.arg 2 0) }) ∧
      ∀ st, Arrives s p 7 7 k → s.dev.sendStream k = some st → (st.closing.isSome = true ∨ st.abandoned = true) → st.waiting = [] →
        (∀ x ∈ f.sends, x.waiting = []) → Completes (.closed p) s fun t => Taken1 s t p 7 ∧
          t.dev.fab = { f with sends := f.sends.filter fun x => x.key ≠ st.key }) ∧
    (∀ (key : Nat) (st : SendStream), s.dev.sendOf key = some st →
      (∀ seq x, st.unacked.find? (fun x => x.seq == seq) = some x → Completes (.packetResendTimer key seq) s fun t =>
        if x.last + 1000000 ≤ now ∧ x.resends < 3 ∧ st.abandoned = false ∧ st.doomed = false then
          t.dev.fab.cnt = cntAdd f.cnt 4 1 ∧ ∃ y, t.dev.sendOf key = some y ∧ y.unacked = st.unacked.map fun z =>
            if z.seq = seq then { z with last := now, resends := z.resends + 1, third := if z.resends = 2 then some now else z.third } else z
        else t = s) ∧
      (Completes (.streamClose key) s fun t =>
        if st.opened = true ∧ st.unacked = [] ∧ st.waiting = [] ∧ st.closing = none ∧ st.abandoned = false ∧ st.doomed = false ∧ st.lastAct + 1000000 ≤ now then
          t.dev.sendOf key = some { st with closing := some now } else t = s) ∧
      (Completes (.abandonCloseTimer key) s fun t =>
        if st.abandoned = false then t = s
        else if f.memberChips.contains (BitVec.ofNat 12 st.dst) = false then st.waiting = [] → t.dev.sendOf key = none
        else if st.lastAct + 1000000 ≤ now then t.dev.sendOf key = some { st with lastAct := now } else t = s) ∧
      (s.dev.cmp.held = [] → Completes (.streamFailureDeclared key) s fun t =>
        if st.abandoned = false ∧ (∀ x ∈ st.unacked, x.last + 800000 ≤ now) ∧ ((∃ x ∈ st.unacked, ∃ t0, x.third = some t0 ∧ t0 + 1000000 ≤ now) ∨
            st.doomed = true ∨ ¬(f.state = .admitted ∧ f.memberChips.contains (BitVec.ofNat 12 st.dst) = true ∧ s.dev.tableHas st.dst = true)) then
          (∀ o ∈ t.dev.fab.ops, o.stream ≠ key) ∧ t.mem = s.mem ∧ t.dev.fab.cnt = cntAdd f.cnt 5 1 ∧
          (st.unacked ≠ [] ∨ st.waiting ≠ [] ∨ (∃ o ∈ f.ops, o.stream = key) →
            ∃ e ∈ (t.dev.sag st.ssag).poison ++ (t.dev.sag st.ssag).owed, e.kind = 0 ∨ e.kind = 3) ∧
          (let ops := f.ops.filter fun o => o.stream == key
           let n := (ops.map RemoteOp.instr).eraseDups.length + (st.unacked.filter fun p => ops.all fun o => o.seq ≠ some p.seq).length +
             (st.waiting.filter fun p => ops.all fun o => o.id ≠ p.1).length
           (∀ o ∈ ops, ∃ x a l j, o.use = .load x a l j) → (s.dev.sag st.ssag).counting 0 st.vc st.dst 0 = none → n ≠ 0 →
             (t.dev.sag st.ssag).poison = (s.dev.sag st.ssag).poison ++ [(s.dev.sag st.ssag).newPoison 0 st.vc st.dst 0 n]) ∧
          (st.unacked = [] → st.waiting = [] → (∀ o ∈ f.ops, o.stream ≠ key) → t.dev.cmp = s.dev.cmp) ∧
          (st.opened = true → t.dev.sendOf key = some { st with abandoned := true, doomed := false, unacked := [], waiting := [], closing := none, lastAct := now }) ∧
          (st.opened = false → t.dev.sendOf key = none)
        else t = s)) ∧
    (f.fwd = [] ∨ (∀ x ∈ f.fwd, x.since + 50000 < now) → Completes .hopHoldTimeout s fun t => t.dev.fab.fwd = [] ∧ t.mem = s.mem ∧
      (∀ p < 12, (t.dev.port p).txq = (s.dev.port p).txq.filter fun x => decide (now ≤ x.2.2 + 50000)) ∧
      Tab.look 0 t.dev.fab.cnt 1 = BitVec.ofNat 32 (satAdd 32 (Tab.look 0 f.cnt 1).toNat (f.fwd.length +
        ((List.range 12).map fun p => (s.dev.port p).txq.countP fun x => decide (x.2.2 + 50000 < now)).sum)))

/-- Election, admission, commits, leaving, handing over and loss of the master, at the master and at a member. When a round that another chip leads ends is the model's choice (log entry 25): 13_fabric (R347), 13_fabric (R348), 13_fabric (R350), 13_fabric (R351), 13_fabric (R352), 13_fabric (R353), 13_fabric (R354), 13_fabric (R356). -/
def Obligations.SliceMembershipChanges : Prop :=
  ∀ (s : State) (p : Fin 12) (c src : BitVec 12), s.dev.fab.chip = some c →
    let f := s.dev.fab
    let now := s.dev.now
    let high (e : Word) : Word := if f.highEpoch.toNat < e.toNat then e else f.highEpoch
    let next (e : Word) : Word := if e = 0xFFFFFFFF then e else e + 1
    let said (t : State) := mgmtOuts t.dev.outs
    let toMates (m : Mgmt) := (s.dev.mates.filter fun v => v ≠ src).foldl (fun l v => s.dev.saysTo v m l) (said s)
    let committed (t : State) (e : Word) (chips : List (BitVec 12)) (low : Prop) : Prop := let g := t.dev.fab
      (s.dev.commitOpen = true → g.state = .admitted ∧ g.masterChip = some c ∧ g.memberChips = chips ∧ g.epoch = next e ∧ g.staged = none ∧
        g.commitAt = some now ∧ (g.master = true ↔ ¬low)) ∧
      (s.dev.commitOpen = false → g.state = f.state ∧ g.memberChips = f.memberChips ∧ g.epoch = e ∧ g.members.map Member.chip = chips ∧
        g.master = true ∧ g.commitDue = true)
    let lower (ms : List Member) : Prop := ∃ m ∈ ms, m.eligible = true ∧ m.chip.toNat < c.toNat
    let back (t : State) (m : Mgmt) (dst : BitVec 12) : Prop := t.dev.fab = f ∧
      said t = match f.back.find? fun x => x.1 == dst.toNat with
        | some (_, v) => if v = src then said s else s.dev.saysTo v m (said s)
        | none => said s
    let up (t : State) (m : Mgmt) : Prop := said t = match f.path with
      | some (v, _) => if v = src ∧ f.masterChip ≠ some c then said s else s.dev.saysTo v m (said s)
      | none => said s
    let counted (k : Nat) (g : Fab) : Prop := Tab.look 0 g.cnt k = BitVec.ofNat 32 (satAdd 32 (Tab.look 0 f.cnt k).toNat 1)
    let heard (chip : BitVec 12) : Tab (BitVec 12) := if chip = c then f.back else Tab.put f.back chip.toNat src
    let stands (t : State) (beaten : Prop) : Prop :=
      (s.dev.eligible = true → ¬beaten → t.dev.fab.election = some ⟨c, true, now⟩) ∧ (s.dev.eligible = false ∨ beaten → t.dev.fab.election = f.election)
    let beaten : Prop := ∃ x, s.dev.leading = some x ∧ x.toNat ≤ c.toNat
    (∀ (slice : BitVec 16) (cand : BitVec 12) (e : Word) (cause : Byte) (j : JoinMsg) (tb : TableMsg) (ms : List HandMember) (h : HandoverMsg) (u : UpdateMsg),
      j.wf = true → ms.all HandMember.wf = true → h.wf = true → u.wf = true → ∀ x ∈ [Instr.elect p src slice cand e, .join p src slice j,
        .admission p src slice cand e, .quar p src slice cand cause, .refuse p src slice cand cause, .table p src slice tb,
        .sliceCommitMsg p src slice e cand ms, .leave p src slice cand, .handover p src slice h, .update p src slice u],
      (s.dev.portUsable p = false → Completes x s fun t => t.dev.fab = f ∧ t.dev.outs = s.dev.outs) ∧
      (s.dev.portUsable p = true → slice ≠ f.sliceid → Completes x s fun t => t.dev.fab = { f with cnt := cntAdd f.cnt 2 1 } ∧ t.dev.outs = s.dev.outs)) ∧
    (s.dev.portUsable p = true →
      (∀ cand e, Completes (.elect p src f.sliceid cand e) s fun t =>
        if ∀ x, s.dev.leading = some x → cand.toNat < x.toNat then
          t.dev.fab = { f with highEpoch := high e, election := some ⟨cand, false, now⟩ } ∧ said t = toMates (.elect cand f.sliceid e)
        else t.dev.fab = { f with highEpoch := high e } ∧ t.dev.outs = s.dev.outs) ∧
      (∀ m : JoinMsg, m.wf = true →
        let cause := joinCause s.dev m
        let ms := f.members.filter fun x => x.chip ≠ m.chip
        (f.master = false → Completes (.join p src f.sliceid m) s fun t => up t (.join m) ∧ t.dev.fab = { f with back := heard m.chip }) ∧
        (f.master = true → cause = 0 → m.chip ≠ c → Completes (.join p src f.sliceid m) s fun t =>
          committed t f.epoch (ms.map Member.chip ++ [m.chip]) (lower ms ∨ (m.eligible = true ∧ m.chip.toNat < c.toNat))) ∧
        (f.master = true → cause ≠ 0 → Completes (.join p src f.sliceid m) s fun t =>
          t.dev.fab = { f with back := heard m.chip, cnt := cntAdd f.cnt (if cause = 1 then 7 else 8) 1 } ∧
          let a : Mgmt := if cause = 1 then .refuse m.chip 1 else .quar m.chip (BitVec.ofNat 8 cause)
          said t = (p.val, ⟨a.ptype, 15, 7, some src, some c, f.sliceid⟩, a) :: said s)) ∧
      (∀ (dst : BitVec 12) (e : Word),
        (dst = c → Completes (.admission p src f.sliceid dst e) s fun t => t.dev.fab = { f with highEpoch := high e } ∧
          said t = match f.path with
            | some (v, _) => s.dev.saysTo v (.update ⟨c, s.dev.portReport, s.dev.chash⟩) (said s)
            | none => said s) ∧
        (dst ≠ c → Completes (.admission p src f.sliceid dst e) s fun t => back t (.admission dst e) dst)) ∧
      (∀ (dst : BitVec 12) (cause : Byte),
        (dst = c → (Completes (.quar p src f.sliceid dst cause) s fun t => t.dev.fab.state = .quarantine ∧ t.dev.fab.cause = cause ∧
            counted 8 t.dev.fab ∧ t.dev.fab.rrack = f.rrack ∧ t.dev.fab.rpos = f.rpos ∧ t.dev.fab.memberChips = f.memberChips ∧
            (f.state ≠ .admitted → t.dev.fab = { f with state := .quarantine, cause := cause, cnt := cntAdd f.cnt 8 1 } ∧ t.dev.coll = s.dev.coll) ∧
            (f.state = .admitted → t.dev.fab.members = [] ∧ t.dev.fab.master = false ∧ t.dev.fab.untrusted = true ∧
              ∀ i < 256, (s.dev.quire i).state = .formed → (s.dev.quire i).run = none → (t.dev.quire i).state = .broken)) ∧
          Completes (.refuse p src f.sliceid dst cause) s fun t => t.dev.fab = { f with state := .refused, cause := cause, refusedAs := some c, cnt := cntAdd f.cnt 7 1 }) ∧
        (dst ≠ c → (Completes (.quar p src f.sliceid dst cause) s fun t => back t (.quar dst cause) dst) ∧
          Completes (.refuse p src f.sliceid dst cause) s fun t => back t (.refuse dst cause) dst)) ∧
      (∀ m : TableMsg, Completes (.table p src f.sliceid m) s fun t =>
        if m.dst = c then
          let r := m.racks.map fun x => (x.1.val, x.2)
          let q := m.poss.map fun x => (x.1.val, x.2)
          t.dev.fab = { f with staged := some (match f.staged with | some x => (x.1 ++ r, x.2 ++ q) | none => (r, q)) }
        else back t (.table m) m.dst) ∧
      (∀ (e : Word) (mc : BitVec 12) (ms : List HandMember), ms.all HandMember.wf = true → Completes (.sliceCommitMsg p src f.sliceid e mc ms) s fun t =>
        let chips := ms.map HandMember.chip
        let fresh := f.epoch.toNat < e.toNat ∨ (f.epoch = e ∧ (e = 0xFFFFFFFF ∨ f.state ≠ .admitted))
        let g := t.dev.fab
        (¬fresh ∨ (chips.contains c = false ∧ f.state ≠ .admitted) → g = { f with highEpoch := high e } ∧
          said t = if f.highEpoch.toNat < e.toNat ∨ e = 0xFFFFFFFF then toMates (.commit e mc ms) else said s) ∧
        (fresh → chips.contains c = true → g.state = .admitted ∧ g.epoch = e ∧ g.masterChip = some mc ∧ g.memberChips = chips ∧ g.master = false ∧
          g.commitAt = some now ∧ g.staged = none ∧ (f.masterChip = some mc → g.path = f.path) ∧ (f.masterChip ≠ some mc → g.path = none) ∧
          (f.staged = none → g.rrack = f.rrack ∧ g.rpos = f.rpos) ∧
          ∀ x, f.staged = some x → g.rrack = x.1.foldl (fun t y => Tab.put t y.1 (y.2 &&& 0x800F0F3F)) [] ∧
            g.rpos = x.2.foldl (fun t y => Tab.put t y.1 (y.2 &&& 0xC03F00FF)) []) ∧
        (fresh → chips.contains c = false → f.state = .admitted → g.memberChips = [] ∧ g.master = false ∧ g.rrack = [] ∧ g.rpos = [] ∧
          g.untrusted = true ∧ (f.masterChip = some mc → g.state = .alone) ∧
          (f.masterChip ≠ some mc → g.state = .joining ∧ g.masterChip = none ∧ counted 9 g))) ∧
      (∀ chip, (f.master = false → Completes (.leave p src f.sliceid chip) s fun t => up t (.leave chip) ∧ t.dev.fab = f) ∧
        (f.master = true → chip ≠ c → f.members.any (fun m => m.chip == chip) = true → Completes (.leave p src f.sliceid chip) s fun t =>
          let ms := f.members.filter fun m => m.chip ≠ chip
          committed t f.epoch (ms.map Member.chip) (lower ms))) ∧
      (∀ m : HandoverMsg, m.wf = true → Completes (.handover p src f.sliceid m) s fun t =>
        if m.dst = c then committed t m.epoch (m.members.map fun x => x.chip) (∃ x ∈ m.members, x.eligible = true ∧ x.chip.toNat < c.toNat)
        else back t (.handover m) m.dst) ∧
      (∀ m : UpdateMsg, m.wf = true →
        (f.master = false → Completes (.update p src f.sliceid m) s fun t => up t (.update m) ∧ t.dev.fab = { f with back := heard m.chip }) ∧
        ∀ x, f.master = true → f.members.find? (fun x => x.chip == m.chip) = some x → Completes (.update p src f.sliceid m) s fun t =>
          let noted := f.members.map fun y => if y.chip = m.chip then noteHash now s.dev.chash m.hash y else y
          let ms := noted.map fun y => if y.chip = m.chip then { y with ports := m.ports, via := some src } else y
          let before := ms.map fun y => if y.chip = m.chip then { y with ports := x.ports } else y
          let gone (y : Member) : Bool := decide (y.chip ≠ c) && ((y.chip == m.chip && m.ports.all fun q => q == none) ||
            (y.chip != m.chip && cutOff ms y.chip && !cutOff before y.chip))
          if x.ports = m.ports ∧ x.via ≠ none ∧ (∃ q ∈ m.ports, q ≠ none) then t.dev.fab = { f with back := heard m.chip, members := noted }
          else committed t f.epoch ((ms.filter fun y => !gone y).map Member.chip) (lower (ms.filter fun y => !gone y)))) ∧
    (Completes .electionStart s fun t =>
      if (∃ t0, f.firstUp = some t0 ∧ t0 + 5000000 ≤ now) ∧ (f.state = .alone ∨ f.state = .joining ∨ f.state = .admitted) ∧ f.masterChip = none then stands t beaten
      else t.dev.fab = f) ∧
    (Completes .becomeMaster s fun t =>
      if (∃ e, f.election = some e ∧ e.own = true ∧ e.best = c ∧ e.since + 5000000 ≤ now) ∧ f.masterChip = none ∧ s.dev.commitOpen = true then
        let ms := if f.state = .admitted then f.members.filter fun m => m.chip ≠ c && f.memberChips.contains m.chip && f.lostMaster ≠ some m.chip else []
        committed t (if f.epoch.toNat < f.highEpoch.toNat then f.highEpoch else f.epoch) (c :: ms.map Member.chip) (lower ms) ∧ t.dev.fab.election = none
      else t.dev.fab = f) ∧
    (Completes .masterLoss s fun t =>
      if (∃ t0, f.lastMaster = some t0 ∧ t0 + 10000000 ≤ now) ∧ f.state = .admitted ∧ f.master = false then
        t.dev.fab.masterChip = none ∧ t.dev.fab.path = none ∧ t.dev.fab.memberChips = f.memberChips ∧ t.dev.fab.lostMaster = f.masterChip ∧
        t.dev.fab.lastMaster = none ∧ stands t beaten
      else t.dev.fab = f) ∧
    (∀ chip m t0, f.master = true → f.members.find? (fun m => m.chip == chip) = some m → m.differSince = some t0 → Completes (.hashMismatchTimeout chip) s fun t =>
      if t0 + 1000000000 < now then
        let ms := f.members.filter fun x => x.chip ≠ chip
        committed t f.epoch (ms.map Member.chip) (lower ms)
      else t.dev.fab = f) ∧
    Completes .quarantineRejoin s fun t =>
      if f.state = .quarantine ∧ f.lastJoin + 1000000000 ≤ now then t.dev.fab = { f with lastJoin := now } else t.dev.fab = f

/-- HELLO, fabric time, and writes of the chip-number override, the slice identity and the twist masks. Offset and skew 0 in a master's own exchange, and hop count 0 giving no path but from the master, are the model's choice (log entry 25): 13_fabric (R336), 13_fabric (R338), 13_fabric (R348), 13_fabric (R350), 13_fabric (R356), 13_fabric (R357), 13_fabric (R358), 13_fabric (R359). -/
def Obligations.FabricNeighboursTimeAndIdentity : Prop :=
  ∀ (s : State) (p : Fin 12) (src : BitVec 12), s.dev.noWaits = true →
    let f := s.dev.fab
    let now := s.dev.now
    let onlyFab (t : State) : Prop := Only (fun d e => { d with fab := e.fab }) s t
    let sending (t : State) : Prop := Only (fun d e => { d with fab := e.fab, outs := e.outs, free := e.free, ports := e.ports }) s t
    let said (t : State) := mgmtOuts t.dev.outs
    (Completes .helloTimer s fun t =>
      if f.lastHello + 100000000 ≤ now then sending t ∧ t.dev.fab = { f with lastHello := now } ∧
        said t = (s.dev.helloTargets.map fun x => (x.1, ⟨16, 15, 7, x.2, f.chip, f.sliceid⟩, .hello ⟨f.chip, s.dev.eligible, f.sliceid, f.epoch,
          f.masterChip, s.dev.hops, s.dev.chash, Dev.version, f.state.code⟩)).reverse ++ said s
      else t = s) ∧
    (∀ m : HelloMsg, let high : Word := if f.highEpoch.toNat < m.epoch.toNat then m.epoch else f.highEpoch
      let near : List Near := if m.chip = none then f.near else (f.near.filter fun x => decide (6 ≤ x.port) || x.chip ≠ m.chip) ++ [⟨p, m.chip, m.slice⟩]
      (s.dev.isUp p = false → Completes (.hello p m) s fun t => t = s) ∧
      (s.dev.isUp p = true → 6 ≤ p.val → Completes (.hello p m) s fun t => t.dev.fab.near.find? (fun x => x.port == p.val) = some ⟨p, m.chip, m.slice⟩) ∧
      (s.dev.portUsable p = true → p.val < 6 → m.slice ≠ f.sliceid → Completes (.hello p m) s fun t => onlyFab t ∧
        t.dev.fab = { f with near := near, back := f.back.filter fun x => m.chip ≠ some x.2 }) ∧
      ∀ c d mc, s.dev.portUsable p = true → p.val < 6 → m.slice = f.sliceid → f.chip = some c → m.chip = some d → m.master = some mc → d ≠ c →
        let stale : Prop := m.state = 2 ∧ (f.epoch.toNat < m.epoch.toNat ∨ (f.epoch = m.epoch ∧ ∃ x, f.masterChip = some x ∧ mc.toNat < x.toNat))
        (mc ≠ c → f.state = .alone ∨ f.state = .joining → f.master = false → Completes (.hello p m) s fun t => let g := t.dev.fab
          g.state = .joining ∧ g.masterChip = some mc ∧ g.lastMaster = some now ∧ g.highEpoch = high ∧ g.election = none ∧ g.near = near ∧
          g.path = pathBy (if f.masterChip = some mc then f.path else none) d m.hops mc) ∧
        (f.state = .admitted → f.master = false → f.masterChip = some mc → ¬stale → Completes (.hello p m) s fun t =>
          sending t ∧ t.dev.fab = { f with near := near, highEpoch := high, path := pathBy f.path d m.hops mc } ∧
          said t = match f.path, t.dev.fab.path with
            | none, some (v, _) => t.dev.saysTo v (.update ⟨c, t.dev.portReport, t.dev.chash⟩) (said s)
            | _, _ => said s) ∧
        (f.state = .admitted → mc ≠ c → stale → Completes (.hello p m) s fun t => let g := t.dev.fab
          g.state = .joining ∧ g.masterChip = some mc ∧ g.master = false ∧ g.memberChips = [] ∧ g.rrack = [] ∧ g.rpos = [] ∧ g.untrusted = true ∧
          g.path = pathBy none d m.hops mc ∧ Tab.look 0 g.cnt 9 = BitVec.ofNat 32 (satAdd 32 (Tab.look 0 f.cnt 9).toNat 1))) ∧
    (∀ (slice : BitVec 16) (x : DWord) (off : Int) (rtt : Nat), ∀ i ∈ [Instr.tsync p src slice x, .tsyncr p src slice off rtt],
      (s.dev.portUsable p = false → Completes i s fun t => t = s) ∧
      (s.dev.portUsable p = true → slice ≠ f.sliceid → Completes i s fun t => onlyFab t ∧ t.dev.fab = { f with cnt := cntAdd f.cnt 2 1 })) ∧
    (s.dev.portUsable p = true →
      (∀ x : DWord, Completes (.tsync p src f.sliceid x) s fun t =>
        if f.state = .admitted ∧ f.master = false then sending t ∧ t.dev.fab = { f with lastMaster := some now } ∧
          said t = (p.val, ⟨25, 15, 7, some src, f.chip, f.sliceid⟩, .tsyncr x f.time f.time) :: said s
        else t = s) ∧
      ∀ (offset : Int) (rtt : Nat), Completes (.tsyncr p src f.sliceid offset rtt) s fun t =>
        if f.state = .admitted then onlyFab t ∧ let g := t.dev.fab
          let off : Int := if f.master then 0 else offset
          let skew := if f.master then 0 else offset.natAbs + rtt / 2
          g.skew.toNat = min skew (2 ^ 31 - 1) ∧ g.lastExch = some now ∧
          (1000 < skew → g.untrusted = true ∧ g.good = 0) ∧
          (skew ≤ 1000 → g.good = min 8 (f.good + 1) ∧ (g.untrusted = true ↔ f.untrusted = true ∧ f.good + 1 < 8)) ∧
          (100000 < off → g.time = f.time + BitVec.ofInt 64 off ∧ g.slewLeft = 0) ∧ (off ≤ 100000 → g.time = f.time ∧ g.slewLeft = off)
        else t = s) ∧
    (Completes .tsyncTimer s fun t =>
      if f.state = .admitted ∧ f.lastTsync + 1000000 ≤ now then sending t ∧ t.dev.fab = { f with lastTsync := now } ∧
        said t = (f.back.map Prod.snd).eraseDups.foldl (fun l v => s.dev.saysTo v (.tsync f.time) l) (said s)
      else t = s) ∧
    (Completes .tsyncMissing s fun t =>
      if ∀ x, f.lastExch = some x → x + 10000000 ≤ now then t.dev.fab = { f with untrusted := true, good := 0 } ∧ onlyFab t else t = s) ∧
    ∀ (ag : Agent) (v : Word), s.dev.serves ag .glob = true →
      (Completes (.chipovWrite ag v) s fun t => t.dev.fab.chipov = v &&& 0x80000FFF ∧
        let c := if v.getLsbD 31 then some (v.setWidth 12) else
          match (List.range 6).find? s.dev.portUsable with
          | some o => (s.dev.reported o).map fun x => BitVec.ofNat 12 (64 * x.1 + x.2)
          | none => none
        let from_ : Fin 3 := if v.getLsbD 31 then 1 else if c = none then 0 else 2
        t.dev.fab.chip = c ∧ t.dev.fab.chipSrc = from_ ∧
        (c = f.chip → from_ = f.chipSrc → onlyFab t ∧ t.dev.fab = { f with chipov := v &&& 0x80000FFF }) ∧
        (c ≠ f.chip ∨ from_ ≠ f.chipSrc → t.dev.fab.master = false ∧ t.dev.fab.memberChips = [] ∧
          if f.state = .refused ∧ (c = f.chip ∨ c = none ∨ c = f.refusedAs) then t.dev.fab.state = .refused else t.dev.fab.state = .alone ∨ t.dev.fab.state = .joining)) ∧
      (Completes (.sliceidWrite ag v) s fun t => let x : BitVec 16 := v.setWidth 16
        t.dev.fab.sliceid = x ∧ (x = f.sliceid → t = s) ∧
        (x ≠ f.sliceid → t.dev.fab.master = false ∧ t.dev.fab.memberChips = [] ∧ t.dev.fab.state = (if f.state = .refused then .refused else .alone) ∧
          t.dev.fab.path = none ∧ t.dev.fab.masterChip = none ∧ t.dev.fab.epoch = 0 ∧ t.dev.fab.highEpoch = 0)) ∧
      ∀ k : Fin 6, Completes (.twistWrite ag k v) s fun t =>
        let tau := v.toNat % 64
        let sig := v.toNat / 256 % 64
        if tau / 2 ^ k.val % 2 = 1 ∨ sig / 2 ^ k.val % 2 = 1 ∨ tau &&& sig ≠ 0 then onlyFab t ∧ t.dev.fab = { f with errTwist := true }
        else t.dev.tau k = tau ∧ t.dev.sigma k = sig ∧ ∀ j < 6, j ≠ k.val → t.dev.tau j = s.dev.tau j ∧ t.dev.sigma j = s.dev.sigma j

/-- A collective command that passes its issue checks joins its quire's operations or makes the entry; one that fails is answered. That any of the six rows acts as the command's op field says is the model's choice (log entry 16): 14_collectives (R363), 14_collectives (R364), 14_collectives (R365), 14_collectives (R366), 14_collectives (R367), 14_collectives (R368), 14_collectives (R369). -/
def Obligations.CollectiveCommandsAreIssued : Prop :=
  ∀ (s : State) (x : At) (b : Bundle) (cmd : DWord) (c : Instr) (l : List Byte) (w : W),
    c = .form x cmd ∨ c = .dissolve x cmd ∨ c = .reduce x cmd ∨ c = .allreduce x cmd ∨ c = .bcast x cmd ∨ c = .barrier x cmd →
    s.dev.noWaits = true → ReadsCommand s x b cmd.toNat 64 l w →
    let k := ccmdOf l
    let o : CollOp := ⟨l, issuerOf x b (x.act &&& b.live)⟩
    let e := w.dev.quireOf b.sag k.qid
    let q := e.map s.dev.quire
    let st := collStatus w.dev cmd.toNat k q
    let hub (v : W) : W := { v with die := none }
    let rejected (t : State) (v : W) (rank st cause : Nat) : Prop := t.dev.coll = s.dev.coll ∧
      (t.dev.cmp.recs = s.dev.cmp.recs → t.dev.bundle x.cl x.vu = some { b with pc := x.pc }) ∧
      (t.dev.cmp.recs ≠ s.dev.cmp.recs → t.dev.bundle x.cl x.vu = some { b with pc := x.pc, asyncOut := b.asyncOut + 1 }) ∧
      t.mem = (s.after (((hub v).asyncIssued x).writeRec
        ⟨b.sag, o.completion, collRecord st o.code rank 0 0 o.tag 0 cause 0, none, some o.who, [], []⟩)).mem
    (st ≠ 0 → Completes c s fun t =>
      rejected t w (match q with | some q => q.rank | none => 0) st (match q with | some q => if st = 0x8B then q.cause.toNat else 0 | none => 0)) ∧
    (∀ i, st = 0 → k.op ≠ 1 → e = some i →
      let q := s.dev.quire i
      (q.waiting.length < 16 → ¬(k.op = 2 ∧ q.waiting = [] ∧ s.dev.quireIdle i = true) → Completes c s fun t => t.mem = s.mem ∧
        t.dev.quire i = { q with waiting := q.waiting ++ [o] } ∧ (∀ j ≠ i, t.dev.quire j = s.dev.quire j) ∧
        t.dev.bundle x.cl x.vu = some { b with pc := x.pc, asyncOut := b.asyncOut + 1 }) ∧
      (16 ≤ q.waiting.length → Completes c s fun t => t.mem = s.mem ∧ t.dev.coll = s.dev.coll ∧
        t.dev.bundle x.cl x.vu = some { b with pc := x.pc }) ∧
      (k.op = 2 → q.waiting = [] → s.dev.quireIdle i = true → Completes c s fun t =>
        t.dev.quire i = { Quire.reset with unacked := q.unacked } ∧ (∀ j ≠ i, t.dev.quire j = s.dev.quire j) ∧
        (t.dev.cmp.recs = s.dev.cmp.recs → t.dev.bundle x.cl x.vu = some { b with pc := x.pc }) ∧
        (t.dev.cmp.recs ≠ s.dev.cmp.recs → t.dev.bundle x.cl x.vu = some { b with pc := x.pc, asyncOut := b.asyncOut + 1 }) ∧
        t.mem = (s.after ((((hub w).collFree i).asyncIssued x).collRecorded i o q.rank 0 0 0 0 q.round.toNat)).mem)) ∧
    ∀ (h r : List Byte) (w1 w2 : W), st = 0 → k.op = 1 → (hub w).unblocked b.sag [(.operand false, k.rec_, 16)] →
      (hub w).fetchVa b.sag k.rec_ 16 (.operand false) = (.bytes h, w1) →
      let m := leAt h 4 4 % 2 ^ 13
      (m = 0 ∨ 4096 < m → Completes c s fun t => rejected t w1 0 0x84 0) ∧
      (1 ≤ m → m ≤ 4096 → w1.unblocked b.sag [(.operand false, k.rec_, 16 + 4 * m)] → w1.fetchVa b.sag k.rec_ (16 + 4 * m) (.operand false) = (.bytes r, w2) →
        (formStatus w2.dev b.sag r k.qid ≠ 0 → Completes c s fun t => rejected t w2 0 (formStatus w2.dev b.sag r k.qid) 0) ∧
        (formStatus w2.dev b.sag r k.qid = 0 → s.dev.coll.heldForms = [] → Completes c s fun t =>
          ∃ i, s.dev.quireFree = some i ∧ (∀ j ≠ i, t.dev.quire j = s.dev.quire j) ∧ let y := t.dev.quire i
            let ms := recordMembers (leAt r 4 4 % 2 ^ 13) r
            y.sag = b.sag ∧ y.qid = k.qid ∧ y.vc = leAt r 4 4 / 2 ^ 16 % 8 ∧ y.members = ms ∧ y.m = ms.length ∧
            ms[y.rank]? = some (s.dev.ownChip, b.sag) ∧ y.waiting = [] ∧
            (2 ≤ ms.length → y.state = .forming ∧ y.round = 0 ∧ ∃ u, y.run = some u ∧ u.op = o ∧ u.since = s.dev.now ∧
              u.limit = s.dev.colTimeout * 1000000) ∧
            (ms.length = 1 → y.state = .formed ∧ y.round = 1 ∧ y.run = none)))

/-- A waiting collective starts in its round; packets, acknowledgements, aborts, resends and timeouts act on their quire: 14_collectives (R365), 14_collectives (R369), 14_collectives (R371), 14_collectives (R372), 14_collectives (R374), 14_collectives (R375), 14_collectives (R376), 14_collectives (R377), 14_collectives (R378), 14_collectives (R384). -/
def Obligations.CollectivesRunAndFail : Prop :=
  ∀ (s : State), s.dev.noWaits = true →
    let now := s.dev.now
    let up (t : State) (k n : Nat) : Prop :=
      Tab.look 0 t.dev.coll.cnt k = BitVec.ofNat 32 (satAdd 32 (Tab.look 0 s.dev.coll.cnt k).toNat n)
    let same (t : State) : Prop := ∀ j, t.dev.quire j = s.dev.quire j
    let others (t : State) (i : Nat) : Prop := ∀ j ≠ i, t.dev.quire j = s.dev.quire j
    let broken (t : State) (i cause : Nat) : Prop := let q := s.dev.quire i
      others t i ∧ (t.dev.quire i).state = .broken ∧ (t.dev.quire i).cause = (if q.state = .broken then q.cause else BitVec.ofNat 8 cause) ∧
      (t.dev.quire i).run = none ∧ (t.dev.quire i).held = [] ∧ (t.dev.quire i).round = if q.run.isSome then q.round + 1 else q.round
    let comes (p : Fin 13) (vc : Fin 8) (ty : Nat) (k : Pkt) : Prop :=
      if p.val < 12 then Arrives s p vc ty k
      else ∃ bytes, s.dev.coll.loop.find? (fun x => x.1 == vc.val) = some (vc.val, bytes) ∧ k = pktOf bytes ∧ k.ptype = ty
    let taken (t : State) (p : Fin 13) (vc : Fin 8) : Prop := p.val < 12 → Taken1 s t p vc
    (∀ (i : Fin 256), let q := s.dev.quire i
      (∀ ecc, q.waiting = [] ∨ s.dev.quireIdle i = false → Completes (.collStart i ecc) s fun t => t = s) ∧
      (∀ ecc o rest, q.waiting = o :: rest → s.dev.quireIdle i = true → let c := ccmdOf o.cmd
        (c.op = 2 → rest = [] → Completes (.collStart i ecc) s fun t => others t i ∧ t.dev.quire i = { Quire.reset with unacked := q.unacked } ∧
          t.mem = (s.after ((s.work.collFree i).collRecorded i o q.rank 0 0 0 0 q.round.toNat)).mem) ∧
        (c.op ≠ 2 → (∃ t0, q.roundAt = some t0 ∧ now < t0 + 500) → Completes (.collStart i ecc) s fun t => t = s) ∧
        (c.op ≠ 2 → s.dev.roundOpen i = true → q.state = .broken → Completes (.collStart i ecc) s fun t => others t i ∧
          t.dev.quire i = { q with waiting := rest, round := q.round + 1, roundAt := some now, seen := [] }) ∧
        (s.dev.roundOpen i = true → q.state = .formed → q.rank < q.m → q.held = [] → (∃ l w', c.op = 6 ∧ c.n = 0 ∧ l = [] ∧ w' = s.work ∨
            c.op = 4 ∧ c.kind < 6 ∧ 1 ≤ c.n ∧ ecc = .ok ∧ 2 ≤ q.m ∧
            s.work.unblocked q.sag [(.operand true, c.dst, c.outBytes), (.operand false, c.src, c.inBytes)] ∧
            W.fetchVa { s.work.modQuire i (fun q => { q with waiting := rest }) with op := 0x44, rep := [.record (.quire i)] } q.sag c.src c.inBytes (.operand false)
              = (.bytes l, w')) →
          Completes (.collStart i ecc) s fun t => others t i ∧ let y := t.dev.quire i
            y.waiting = rest ∧
            (2 ≤ q.m → y.state = .running ∧ y.round = q.round ∧ ∃ u, y.run = some u ∧ u.op = o ∧ u.since = now ∧
              u.limit = s.dev.colTimeout * 1000000) ∧
            (q.m = 1 → y.state = .formed ∧ y.round = q.round + 1 ∧ y.run = none))) ∧
      (∀ n, Completes (.collResendTimer i n) s fun t =>
        match q.unacked[n]? with
        | some u =>
          if now < u.last + 1000000 then t = s
          else others t i ∧ if u.until_ ≤ now then t.dev.quire i = { q with unacked := q.unacked.eraseIdx n } ∧ up t 4 0
            else t.dev.quire i = { q with unacked := q.unacked.set n { u with last := now } } ∧ up t 4 1
        | none => t = s) ∧
      Completes (.collTimeout i) s fun t =>
        match q.run with
        | some r => if r.since + r.limit ≤ now then
            up t 2 1 ∧ (q.forms = false → broken t i 0x88) ∧ (q.forms = true → others t i ∧ (t.dev.quire i).state = .free)
          else t = s
        | none => t = s) ∧
    (∀ (p : Fin 13) (vc : Fin 8) (k : Pkt) (c : Instr), (c = .cform p vc ∧ comes p vc 0x20 k) ∨ (c = .cdata p vc ∧ comes p vc 0x21 k) →
      (s.dev.quireOf k.tsag (pktQid k) = none → Completes c s fun t => taken t p vc ∧ same t ∧ t.mem = s.mem ∧
        if k.ptype = 0x21 then up t 6 1 ∧ t.dev.coll.heldForms = s.dev.coll.heldForms
        else if 256 ≤ s.dev.coll.heldForms.length then up t 7 1 ∧ t.dev.coll.heldForms = s.dev.coll.heldForms
        else up t 7 0 ∧ t.dev.coll.heldForms =
          if s.dev.coll.heldForms.any (fun x => x.2.2 == k.bytes) then s.dev.coll.heldForms else s.dev.coll.heldForms ++ [(now, vc.val, k.bytes)]) ∧
      ∀ i, s.dev.quireOf k.tsag (pktQid k) = some i → let q := s.dev.quire i
        (∀ r, q.run = some r → (ccmdOf r.op.cmd).writes q.rank = true →
          s.work.unblocked q.sag [(.operand true, (ccmdOf r.op.cmd).dst, (ccmdOf r.op.cmd).outBytes)]) →
        let r := q.round.toNat
        let dup := q.knows k = true ∨ (k.seq + 1) % 2 ^ 32 = r
        let ended := q.state = .broken ∧ q.run = none
        (dup → Completes c s fun t => taken t p vc ∧ same t ∧ t.mem = s.mem ∧ up t 5 1) ∧
        (¬dup →
          (ended ∨ (k.seq ≠ r ∧ k.seq ≠ (r + 1) % 2 ^ 32) → Completes c s fun t => taken t p vc ∧ same t ∧ t.mem = s.mem ∧ up t 6 1) ∧
          (q.state ≠ .broken → k.seq = r → q.run = none → Completes c s fun t => taken t p vc ∧ others t i ∧ t.mem = s.mem ∧
            t.dev.quire i = { q with held := q.held ++ [(k.seq, k.bytes)], seen := q.seen ++ [pktMark k] }) ∧
          (¬ended → k.seq = (r + 1) % 2 ^ 32 →
            Completes c s fun t => taken t p vc ∧ others t i ∧ t.mem = s.mem ∧
              if (q.held.filter fun x => x.1 == k.seq).length < 64 then t.dev.quire i = { q with held := q.held ++ [(k.seq, k.bytes)] }
              else t.dev.quire i = q ∧ up t 7 1) ∧
          (∀ u d, q.state = .forming → k.seq = r → q.run = some u → (ccmdOf u.op.cmd).op = 1 → (ccmdOf u.op.cmd).n = 0 → q.m = 2 →
            u.vals = [d, d] → u.recv = [] → u.sats = [] →
            (q.rank = 0 ∧ u.phase = .up 0 ∧ pktStep k = 0 ∧ pktRank k = 1) ∨ (q.rank = 1 ∧ u.phase = .down ∧ pktStep k = 0x80 ∧ pktRank k = 0) →
            (k.arg = d → Completes c s fun t => taken t p vc ∧ others t i ∧ (t.dev.quire i).state = .formed ∧
              (t.dev.quire i).round = q.round + 1 ∧ (t.dev.quire i).run = none ∧ (t.dev.quire i).members = q.members) ∧
            (k.arg ≠ d → (q.rank = 0 → Config.formMarker.toNat ≠ d) → Completes c s fun t => taken t p vc ∧ others t i ∧
              (t.dev.quire i).state = .free)) ∧
          (∀ u need, q.state = .running ∨ q.state = .forming → k.seq = r → q.run = some u → let o := ccmdOf u.op.cmd
            (o.op ≠ 1 → k.arg = collSig u.op.cmd) → stepSender q o (pktStep k) = some (pktRank k) →
            (match u.phase with
              | .up l => need = l ∧ q.rank / 2 ^ l % 2 = 0 ∧ q.rank + 2 ^ l < q.m
              | .down => need = 0x80 + sendLevel q.rank
              | .handoff => need = 0xFE) →
            let v : CollRun := { u with recv := u.recv ++ [(pktStep k, pktFirst k,
              if o.op = 1 then [k.arg] else splitVals (kindTransit o.bcast o.kind) 128 k.data)] }
            v.got need = none → Completes c s fun t => taken t p vc ∧ others t i ∧ t.mem = s.mem ∧
              t.dev.quire i = { q with run := some v, seen := q.seen ++ [pktMark k] }) ∧
          ∀ u, q.state = .running → k.seq = r → q.run = some u → (ccmdOf u.op.cmd).op ≠ 1 →
            (k.arg ≠ collSig u.op.cmd → Completes c s fun t => taken t p vc ∧ broken t i 0x87) ∧
            (k.arg = collSig u.op.cmd → stepSender q (ccmdOf u.op.cmd) (pktStep k) = some (pktRank k) → Completes c s fun t =>
              taken t p vc ∧ others t i ∧ ((t.dev.quire i).run ≠ none → (t.dev.quire i).seen = q.seen ++ [pktMark k]) ∧
              ((ccmdOf u.op.cmd).op = 6 → (ccmdOf u.op.cmd).n = 0 → q.m = 2 →
                (q.rank = 0 ∧ u.phase = .up 0 ∧ pktStep k = 0) ∨ (q.rank = 1 ∧ u.phase = .down ∧ pktStep k = 0x80) →
                (t.dev.quire i).state = .formed ∧ (t.dev.quire i).round = q.round + 1 ∧ (t.dev.quire i).run = none)))) ∧
    (∀ (p : Fin 13) (vc : Fin 8) (k : Pkt),
      (comes p vc 0x22 k → Completes (.cack p vc) s fun t => taken t p vc ∧ t.mem = s.mem ∧
        (∀ j, t.dev.quire j = { s.dev.quire j with unacked := (s.dev.quire j).unacked.filter fun u => !ackCovers k u }) ∧
        if s.dev.coll.quires.any (fun x => x.2.unacked.any (ackCovers k)) = true ∨
            (∃ i, s.dev.quireOf k.tsag (pktQid k) = some i ∧ (s.dev.quire i).near k.seq = true) then up t 6 0 else up t 6 1) ∧
      (comes p vc 0x23 k → Completes (.cabort p vc) s fun t => taken t p vc ∧
        match s.dev.quireOf k.tsag (pktQid k) with
        | none => same t ∧ up t 6 1
        | some i => let q := s.dev.quire i
          if 2 ^ 31 ≤ (BitVec.ofNat 32 k.seq - q.round).toNat then same t ∧ t.mem = s.mem
          else if q.run.isSome = true ∧ k.seq = q.round.toNat then
            (q.forms = false → broken t i 0x8C) ∧ (q.forms = true → others t i ∧ (t.dev.quire i).state = .free)
          else others t i ∧ t.mem = s.mem ∧ t.dev.quire i = if q.state = .broken then q else { q with state := .broken, cause := 0x8C })) ∧
    Completes .cformHoldExpiry s fun t => Only (fun d e => { d with coll := e.coll }) s t ∧ same t ∧
      let old (x : Nat × Nat × List Byte) : Bool := decide (x.1 + s.dev.colTimeout * 1000000 ≤ now)
      t.dev.coll.heldForms = s.dev.coll.heldForms.filter (fun x => !old x) ∧ up t 6 (s.dev.coll.heldForms.filter old).length

/-- Idle timers, requests, handshakes, forced entries and wakes take a power domain from state to state. What a forced hub entry waits for before it takes the dependents down, and how a request that it overtakes ends, are the model's choice (log entry 26): 15_power_states (R390), 15_power_states (R391), 15_power_states (R392), 15_power_states (R393), 15_power_states (R394), 15_power_states (R395), 15_power_states (R396), 15_power_states (R397), 15_power_states (R398), 15_power_states (R399), 15_power_states (R402), 15_power_states (R403). -/
def Obligations.PowerDomainsEnterAndWake : Prop :=
  ∀ (s : State), let now := s.dev.now
    let pwrOnly (t : State) : Prop := Only (fun d e => { d with pwr := e.pwr }) s t
    let one (t : State) (n : Nat) (x : Dom) : Prop := t.dev.dom n = x ∧ (∀ k ≠ n, t.dev.dom k = s.dev.dom k) ∧ pwrOnly t
    let starts (x : Dom) (n : Nat) (way : Way) (tgt : PSt) : Dom :=
      { x with entry := some ⟨way, tgt, domPorts n, [], n = hubDom, false, now, []⟩, tgt := tgt, retryAt := none }
    let h := s.dev.dom hubDom
    (∀ d : Fin 278, let x := s.dev.dom d
      (Completes (.idleTimerExpiry d) s fun t =>
        if s.dev.idleDue d = true ∧ x.retryAt = none then one t d (starts x d .timer .banked) else t = s) ∧
      (Completes (.entryRetry d) s fun t =>
        match x.retryAt with
        | some r => if now < r then t = s
            else if d.val = hubDom ∧ s.dev.sup.orderly.isSome = true then
              x.cur = .active → x.entry = none → x.wake = none → ∃ e, (t.dev.dom d).entry = some e ∧ e.way = .request ∧ e.tgt = .banked
            else if s.dev.idleDue d = true then one t d (starts x d .timer .banked) else one t d { x with retryAt := none }
        | none => t = s) ∧
      (∀ (k : Fin 32) (busy : Bool),
        (∀ e, x.entry = some e → e.committed = true ∨ e.cascading = true ∨ e.open_.contains k.val = false) →
          Completes (.handshakeAnswer d k busy) s fun t => t = s) ∧
      (∀ (k : Fin 32) (busy : Bool) (e : Entry), x.entry = some e → e.committed = false → e.cascading = false → e.open_.contains k.val = true →
        let deferring := k.val = 6 ∨ k.val = 9
        let mine := if deferring then (if busy then [refCode k (portInst d k)] else []) else s.dev.refusers d k
        let all := mine ++ (e.open_.filter fun j => j ≠ k.val).flatMap fun j => s.dev.refusers d j
        (deferring → busy = true → e.ports.contains k.val = true → Completes (.handshakeAnswer d k busy) s fun t =>
          one t d { x with entry := some { e with ports := e.ports.erase k.val, defer := e.defer ++ [(k.val, now)] } }) ∧
        (mine = [] → Completes (.handshakeAnswer d k busy) s fun t =>
          let e' := { e with ports := e.ports.erase k.val, defer := e.defer.filter fun y => y.1 ≠ k.val }
          let x' := { x with entry := some (if e'.open_ = [] then { e' with committed := true, since := now } else e') }
          if d.val = hubDom ∧ e'.open_ = [] then (t.dev.dom d).entry = x'.entry ∧ t.dev.fab.master = false ∧ t.dev.fab.memberChips = [] ∧
            ((∀ i < 256, (s.dev.quire i).run = none ∧ (s.dev.quire i).state ≠ .forming) → t.mem = s.mem ∧ t.dev.dom d = x' ∧
              ∀ k ≠ d.val, t.dev.dom k = s.dev.dom k)
          else one t d x') ∧
        (mine ≠ [] → ¬(deferring ∧ e.ports.contains k.val = true) → x.queued = [] → Completes (.handshakeAnswer d k busy) s fun t =>
          t.mem = s.mem ∧ (t.dev.dom d).cur = x.cur ∧ (t.dev.dom d).refs = satBv x.refs all.length ∧
          (e.way ≠ .cascade → (d.val = hubDom ∨ ∀ y, h.entry = some y → y.cascading = false) → (t.dev.dom d).entry = none ∧
            (e.way = .timer → (t.dev.dom d).retryAt = some (now + 1000 * max 10 s.dev.pwr.retry.toNat))) ∧
          ∀ y, e.way = .cascade → d.val ≠ hubDom → h.entry = some y → h.queued = [] →
            (y.committed = false → (t.dev.dom hubDom).entry = none ∧ (t.dev.dom hubDom).aborts = satBv h.aborts 1) ∧
            (y.committed = true → t.dev.dom hubDom = h))) ∧
      (Completes (.deferTimeout d) s fun t =>
        match x.entry with
        | some e =>
          if ∃ y ∈ e.defer, y.2 + 100000 ≤ now then (d.val ≠ hubDom → (t.dev.dom d).aborts = satBv x.aborts 1) ∧ (t.dev.dom d).cur = x.cur ∧
            (x.queued = [] → e.way ≠ .cascade → (d.val = hubDom ∨ ∀ y, h.entry = some y → y.cascading = false) → (t.dev.dom d).entry = none)
          else t = s
        | none => t = s) ∧
      (s.dev.noWaits = true → Completes (.forcedEntry d) s fun t =>
        let downs (t : State) : Prop := ∀ n < 277, n ≠ hubDom → (s.dev.dom n).cur.down = false →
          (t.dev.dom n).entry = some ⟨.forced, .banked, [], [], false, true, now, []⟩
        if d.val = hubDom ∧ x.taking = true then (s.dev.hubHolds = true → t = s) ∧
          (s.dev.hubHolds = false → downs t ∧ ∀ e, x.entry = some e → ∃ e', (t.dev.dom d).entry = some e' ∧ e'.way = .forced ∧
            e'.committed = true ∧ e'.cascading = false ∧ e'.tgt = e.tgt ∧ e'.since = e.since)
        else match x.forceReq with
        | none => t = s
        | some tgt =>
          if x.committed = true ∨ x.wake.isSome = true then t = s
          else if x.cur = .off ∨ x.cur = .offline ∨ x.cur.reaches tgt = true then t.mem = s.mem ∧ (t.dev.dom d).cur = x.cur ∧
            (t.dev.dom d).forceReq = none ∧ (x.entry = none → pwrOnly t) ∧
            ∀ e, x.entry = some e → x.queued = [] → (t.dev.dom d).aborts = x.aborts ∧ (t.dev.dom d).refs = x.refs ∧
              (e.way = .request → x.fromReg = true → t.dev.pwr.busy = false ∧ t.dev.pwr.outcome = if x.cur.reaches x.reqTgt then 0 else 2)
          else (∃ e, (t.dev.dom d).entry = some e ∧ e.way = .forced ∧ e.committed = true ∧ e.since = now ∧
              (e.tgt = if 257 ≤ d.val ∧ d.val < 269 then .banked else tgt) ∧
              (d.val = hubDom → if e.cascading then ∀ n ≠ hubDom, (s.dev.dom n).entry = none → (t.dev.dom n).entry = none else downs t)) ∧
            (t.dev.dom d).forceReq = none) ∧
      (s.dev.noWaits = true → Completes (.forcedEntryDrainTimeout d) s fun t =>
        if ∃ e, x.entry = some e ∧ e.way = .forced ∧ e.since + 1000000 ≤ now then
          let mine (n : Nat) : Prop := n = d.val ∨ (d.val = hubDom ∧ x.taking = true)
          (∀ y ∈ t.dev.cmp.held, ¬mine y.at_.cl) ∧
          ∀ r ∈ t.dev.pci.reads, (match r.use with | .load y _ _ _ => ¬mine y.cl | _ => True)
        else t = s) ∧
      (Completes (.entryComplete d) s fun t =>
        match x.entry with
        | some e =>
          if e.committed = true ∧ s.dev.mayEnter d e = true then
            (d.val ≠ hubDom ∨ s.dev.sup.orderly = none → let y := t.dev.dom d
              t.mem = s.mem ∧ y.cur = e.tgt ∧ y.way = e.way ∧ y.entries = satBv x.entries 1 ∧ (x.fromReg = true → x.reqTgt ≠ .active → t.dev.pwr.busy = false)) ∧
            (d.val = hubDom → s.dev.sup.orderly = none → e.tgt = .banked → t.dev.sup.vset = 650)
          else t = s
        | none => t = s) ∧
      (Completes (.wakeStepReady d) s fun t =>
        match x.wake with
        | some k => if k.started = true ∧ 1 ≤ k.step ∧ k.step < 5 then one t d { x with wake := some { k with step := k.step + 1 } } else t = s
        | none => t = s) ∧
      ∀ ret : RetErr, s.dev.noWaits = true →
        let bad : Prop := ret.flops = true ∧ d.val < 256 ∧ x.cur = .banked
        let hubIn : Prop := d.val = hubDom ∨ 277 ≤ d.val ∨ h.cur = .active
        (¬hubIn ∨ (∀ k, x.wake = some k → k.started = false ∨ k.step ≠ 5) → Completes (.wakeComplete d ret) s fun t => t = s) ∧
        ∀ k, hubIn → x.wake = some k → k.started = true → k.step = 5 → s.dev.pci.held = [] →
          (bad → Completes (.wakeComplete d ret) s fun t =>
            (t.dev.dom d).cur = .offline ∧ (t.dev.dom d).wake = none ∧ (t.dev.cl d).online = false ∧ (t.dev.cl d).slots = []) ∧
          (¬bad → s.dev.nothingHeld = true → s.dev.con.rx = [] → Completes (.wakeComplete d ret) s fun t =>
            (t.dev.dom d).cur = k.into ∧ (d.val = hubDom → x.queued = [] → x.entry = none → s.dev.lockedOut = false →
              t.dev.pwr.casc = 0 ∧ t.dev.sup.activeAt = now ∧
              ∀ n < 277, n ≠ hubDom → s.dev.pwr.casc.getLsbD n = true → (s.dev.dom n).cur = .banked → (t.dev.dom n).wake.isSome = true))) ∧
    (∀ (ag : Agent) (v : Word), s.dev.serves ag .glob = true →
      (Completes (.refuserTableClear ag) s fun t => pwrOnly t ∧ t.dev.pwr = { s.dev.pwr with reftab := [] }) ∧
      ∀ (c : Instr) (st : Nat) (tgt : PSt), (c = .pwrReqActive ag v ∧ st = 0 ∧ tgt = .active) ∨ (c = .pwrReqIdle ag v ∧ st = 1 ∧ tgt = .idle) ∨
          (c = .pwrReqBanked ag v ∧ st = 2 ∧ tgt = .banked) →
        let n := v.toNat % 512
        let x := s.dev.dom n
        let done (t : State) (outcome : Fin 3) (code : Word) : Prop := t.mem = s.mem ∧ t.dev.pwr.busy = false ∧ t.dev.pwr.outcome = outcome ∧
          t.dev.pwr.rstatr = code ∧ t.dev.pwr.denied = (s.dev.pwr.denied || v.getLsbD 11) ∧ (t.dev.dom n).cur = x.cur ∧ (t.dev.dom n).entry = x.entry
        let going (t : State) : Prop := t.mem = s.mem ∧ t.dev.pwr.busy = true ∧ (t.dev.dom n).cur = x.cur
        (v.toNat / 512 % 4 ≠ st → Completes c s fun t => t = s) ∧
        (v.toNat / 512 % 4 = st → s.dev.pwr.busy = true → Completes c s fun t => pwrOnly t ∧ t.dev.pwr = { s.dev.pwr with lost := true }) ∧
        (v.toNat / 512 % 4 = st → s.dev.pwr.busy = false →
          (277 ≤ n → Completes c s fun t => done t 1 0x15000000) ∧
          (n < 277 → (x.entry.isSome = true ∨ x.wake.isSome = true → Completes c s fun t => going t ∧
              (t.dev.dom n).queued = x.queued ++ [⟨tgt, false, true, false⟩]) ∧
            (x.entry = none → x.wake = none → let to_ := if 257 ≤ n ∧ n < 269 ∧ tgt = .idle then .banked else tgt
              (x.cur = .off ∨ x.cur = .offline ∨ (to_ = .idle ∧ x.cur = .banked) → Completes c s fun t =>
                done t 1 0x15000000 ∧ (t.dev.dom n).refs = satBv x.refs 1) ∧
              (x.cur = to_ → x.cur ≠ .off → x.cur ≠ .offline → Completes c s fun t => done t 0 0) ∧
              (x.cur = .active ∨ (x.cur = .idle ∧ to_ = .banked) → to_ ≠ .active → Completes c s fun t => going t ∧
                ∃ e, (t.dev.dom n).entry = some e ∧ e.way = .request ∧ e.tgt = to_ ∧ e.committed = false) ∧
              (x.cur = .idle ∨ x.cur = .banked → to_ = .active → s.dev.lockedOut = false → s.dev.temps.banked = false → h.entry = none →
                s.dev.pwr.holds n = false →
                Completes c s fun t => going t ∧ (t.dev.dom n).wake.isSome = true))))) ∧
    Completes .wakeWave s fun t => pwrOnly t ∧
      (∀ n, t.dev.dom n = s.dev.dom n ∨ ∃ k, (s.dev.dom n).wake = some k ∧ k.started = false ∧
        t.dev.dom n = { s.dev.dom n with wake := some { k with started := true, step := 1 } }) ∧
      (s.dev.hubCarries = false → t = s) ∧ (s.dev.lockedOut = true → ∀ n, t.dev.dom n = s.dev.dom n) ∧
      (s.dev.hubCarries = true → s.dev.lockedOut = false → t.dev.pwr.linksDown = false ∧ (∀ n < 256, ∀ k, (t.dev.dom n).wake = some k → (s.dev.dom n).cur ≠ .banked → k.started = true) ∧
        ((s.dev.pwr.recentWaves now).length ≤ 32 → (t.dev.pwr.recentWaves now).length ≤ 32) ∧
        ((t.dev.pwr.recentWaves now).length < 32 → ∀ n < 256, ∀ k, (t.dev.dom n).wake = some k → k.started = true))

/-- PWRON, rails, throttle, phases, the phase lock, and the always-on domain's change of supply. That an entry which comes before its action is written in the command that finds it where none waits and queued otherwise, and that each throttle source is released alone by what the monitors find, are the model's choice (log entry 36): 16_supplies (R412), 16_supplies (R413), 16_supplies (R415), 16_supplies (R416), 16_supplies (R417), 16_supplies (R418), 16_supplies (R420), 16_supplies (R421), 16_supplies (R423), 16_supplies (R426), 16_supplies (R428), 16_supplies (R431). -/
def Obligations.SuppliesThrottleRestartAndHandOver : Prop :=
  ∀ (s : State), let now := s.dev.now
    let u := s.dev.sup
    let h := s.dev.dom hubDom
    let supOnly (t : State) (x : Sup) : Prop := Only (fun d e => { d with sup := e.sup }) s t ∧ t.dev.sup = x
    let aonOnly (t : State) (x : Aon) : Prop := Only (fun d e => { d with aon := e.aon }) s t ∧ t.dev.aon = x
    let logged (t : State) (code : Nat) : Prop := ∃ e, e.code = code ∧ t.dev.log.queue = (s.dev.log.enqueue now e).queue ∧
      t.dev.log.overd = (s.dev.log.enqueue now e).overd
    let first (t : State) (code : Nat) : Prop :=
      if s.dev.aon.powered = true ∧ s.dev.log.queue = [] ∧ s.dev.log.overd = [] ∧ s.dev.log.mayStart now = true then
        t.dev.log.next = s.dev.log.next + 1 ∧ t.dev.log.lastStart = some now ∧
        ∃ e, t.dev.log.ring.getLast? = some e ∧ e.code = BitVec.ofNat 16 code ∧ e.seq = s.dev.log.next
      else logged t code
    let up (t : State) (k n : Nat) : Prop := Tab.look 0 t.dev.sup.cnt k = BitVec.ofNat 32 (satAdd 32 (Tab.look 0 u.cnt k).toNat n)
    let gone (t : State) : Prop := t.dev.hub = .reset ∧ t.dev.cmp = .reset ∧ t.dev.ports = [] ∧ t.dev.pwr = .reset ∧ t.dev.coll = .reset ∧
      t.dev.start.state = .none ∧ t.dev.sup.episode = none ∧ t.mem.cells .near = [] ∧ t.mem.cells .hbm = [] ∧
      t.mem.cells .flash = s.mem.cells .flash ∧
      t.dev.sup.seq = match u.seq with | .on => .down 5 now | .up k _ => .down k now | x => x
    let entering (t : State) : Prop := h.cur = .active → h.entry = none → h.wake = none → u.orderly = none →
      t.dev.sup.orderly = some now ∧ ∃ e, (t.dev.dom hubDom).entry = some e ∧ e.way = .request ∧ e.tgt = .banked
    (Completes .pwronRise s fun t => if u.pwron = true then t = s
      else t.mem = s.mem ∧ t.dev.sup = { u with pwron := true } ∧ t.dev.start.pend = if s.dev.aon.powered = true then some 1 else s.dev.start.pend) ∧
    (Completes .pwronFall s fun t => if u.pwron = false then t = s
      else t.dev.sup.pwron = false ∧ t.dev.sup.restartAt = none ∧ t.dev.start.pend = none ∧
        if s.dev.start.state = .ready ∨ s.dev.start.state = .failed then
          entering t ∧ (h.cur.down = false → t.dev.sup.down = true) ∧ (h.cur.down = true → h.wake = none → gone t) else gone t) ∧
    (∀ (k : Fin 6) (mv : Nat),
      (Completes (.railGood k mv) s fun t => if (match u.seq with | .up j _ => j == k.val | _ => false) = true then
          supOnly t { u with mv := Tab.put u.mv k mv, good := u.good ||| BitVec.ofNat 6 (2 ^ k.val),
                             seq := if k.val < 5 then .up (k + 1) now else .on }
        else t = s) ∧
      (Completes (.railWarningCrossing k mv) s fun t =>
        if (∃ l, warnLevel k = some l ∧ mv < l) ∧ s.dev.warnArmed = true ∧ u.good.getLsbD k = true then
          Only (fun d e => { d with sup := e.sup }) s t ∧ let y := t.dev.sup
          y.warn = true ∧ y.warnAt = now ∧ y.warnNow.getLsbD k = true ∧ up t 0 1 ∧ up t 1 (if u.episode.isSome then 0 else 1) ∧
          (9 ≤ ((u.crossings.filter fun t => decide (now < t + 1000000000)).length + 1) → y.holdUntil = some (now + 1000000000)) ∧
          ∃ e, y.episode = some e ∧ e.sources.getLsbD 2 = true ∧
            (e.since, e.crossings) = match u.episode with | some x => (x.since, x.crossings + 1) | none => (now, 1)
        else t = s) ∧
      Completes (.railResetCrossing k mv) s fun t =>
        let y := { u with mv := Tab.put u.mv k mv }
        if belowReset k mv = false then t = s
        else match u.seq with
          | .down j _ => supOnly t (if j ≠ k.val then y else if k.val ≤ 2 then { y with seq := .off }
              else { y with seq := .down (k - 1) now, good := u.good &&& ~~~(BitVec.ofNat 6 (2 ^ (k.val - 1))) })
          | .off => supOnly t y
          | _ => if u.good.getLsbD k = true then gone t ∧ up t 5 1 ∧ (u.pwron = true →
                let n := (u.restarts.filter fun t => decide (now < t + 60000000000)).length
                if 3 ≤ n then t.dev.sup.stay = true ∧ t.dev.sup.restartAt = none else t.dev.sup.restartAt = some (now + 10000000) ∧ first t 0x0203)
              else supOnly t y) ∧
    (Completes .railGoodTimeout s fun t =>
      match u.seq with | .up _ x => if now < x + 10000000 then t = s else gone t | _ => t = s) ∧
    (Completes .railFallTimeout s fun t =>
      match u.seq with
      | .down k x => if now < x + 10000000 then t = s else supOnly t (if k ≤ 2 then { u with seq := .off }
          else { u with seq := .down (k - 1) now, good := u.good &&& ~~~(BitVec.ofNat 6 (2 ^ (k - 1))) })
      | _ => t = s) ∧
    (Completes .restartTimer s fun t =>
      if (∃ x, u.restartAt = some x ∧ x ≤ now) ∧ u.pwron = true ∧ u.seq = .off then
        t.mem = s.mem ∧ t.dev.sup = { u with restartAt := none, restarts := u.restarts ++ [now] } ∧ t.dev.start.pend = some 4
      else t = s) ∧
    (Completes .currentLimit s fun t => if u.good.getLsbD 3 = true then
        t.dev.sup.current = true ∧ t.dev.sup.currentAt = now ∧ up t 2 (if u.current then 0 else 1) ∧ up t 1 (if u.episode.isSome then 0 else 1) ∧
        (∃ e, t.dev.sup.episode = some e ∧ e.sources.getLsbD 1 = true) ∧ Only (fun d e => { d with sup := e.sup }) s t
      else t = s) ∧
    (Completes .powerCap s fun t => if 2 ≤ u.lost ∧ u.good.getLsbD 3 = true then
        t.dev.sup.cap = true ∧ t.dev.sup.capAt = (if u.cap then u.capAt else now) ∧ t.dev.sup.capLast = now ∧ up t 3 (if u.cap then 0 else 1) ∧
        (∃ e, t.dev.sup.episode = some e ∧ e.sources.getLsbD 0 = true) ∧ Only (fun d e => { d with sup := e.sup }) s t
      else t = s) ∧
    (Completes .capNotHeld s fun t => if u.cap = true ∧ u.capAt + 1000000 ≤ now ∧ u.lock = false then
        t.dev.sup.lock = true ∧ t.dev.sup.capFailed = true ∧ first t 0x0202 ∧ entering t else t = s) ∧
    (∀ c : Calm, c.rails.length = 3 → Completes (.throttleRelease c) s fun t =>
      let y := u.release now c
      let on : Prop := u.warn = true ∧ u.warnEnds now c = false ∨ u.current = true ∧ (c.current < 100000 ∨ now < u.currentAt + 100000) ∨
        u.cap = true ∧ (c.cap < 1000000 ∨ now < u.capLast + 1000000) ∨ u.orderly ≠ none
      if u.episode = none then t = s
      else if on then supOnly t y
      else t.mem = s.mem ∧ t.dev.sup.warn = false ∧ t.dev.sup.current = false ∧ t.dev.sup.cap = false ∧ t.dev.sup.episode = none ∧
        t.dev.sup.holdUntil = none ∧ logged t 0x0200 ∧ t.dev.hub.cur = s.dev.hub.cur ∧
        (s.dev.hub.dvfs = none → s.dev.hub.tgt ≠ s.dev.hub.cur ∨ s.dev.hub.again = true → Dev.dvfsOpen { s.dev with sup := y.calm } s.dev.hub.tgt = true →
          t.dev.hub.dvfs = some s.dev.hub.tgt)) ∧
    (∀ l : List (Fin 16 × Bool), Completes (.phaseDrop l) s fun t => if u.good.getLsbD 3 = true then
        (∀ i : Fin 16, t.dev.sup.dropped.getLsbD i = true ↔ u.dropped.getLsbD i = true ∨ ∃ x ∈ l, x.1 = i) ∧
        up t 4 (t.dev.sup.lost - u.lost) ∧
        if u.lost < t.dev.sup.lost ∧ 3 ≤ t.dev.sup.lost then t.dev.sup.lock = true ∧ entering t else t.dev.sup.lock = u.lock
      else t = s) ∧
    (Completes .orderlyEntryTimeout s fun t =>
      if (∃ x, u.orderly = some x ∧ x + 10000000 ≤ now) ∧ h.cur.down = false then
        Only (fun d e => { d with pwr := e.pwr }) s t ∧ t.dev.dom hubDom = { h with forceReq := some .banked, retryAt := none, entry := h.entry.map fun e => if e.committed then { e with way := .forced } else e }
      else t = s) ∧
    (∀ ag : Agent, s.dev.serves ag .aon = true → Completes (.phaseLockClear ag) s fun t => supOnly t { u with lock := false }) ∧
    (∀ vaux vbak : Nat, let a := s.dev.aon
      let b := { a with vaux, vbak, okSince := if 3150 < vaux then some (a.okSince.getD now) else none }
      let e := { b with energy := min b.usable 0xFFFFFFFF }
      let record (kind : Nat) (t : State) : Prop :=
        if s.dev.log.ops = [] then ∃ l, t.dev.log.ops = [⟨false, logArea + 256 * s.dev.log.mpage, l, .record kind⟩] ∧ l.length = 256 ∧
          leAt l 0 4 = kind * 2 ^ 24 + 0x00014252
        else ∃ o, t.dev.log.ops = s.dev.log.ops ++ [o] ∧ o.use = .record kind
      (Completes (.energyEstimate vaux vbak) s fun t =>
        if a.powered = false then t = s
        else if a.vbakSrc = false ∨ a.closed = true ∨ a.snap.isSome = true ∨ s.dev.log.ops.any (fun o => match o.use with | .record _ => true | _ => false) = true ∨ 38600 ≤ b.usable then aonOnly t e
        else if 38000 ≤ b.usable then t.mem = s.mem ∧ { t.dev.aon with snap := none } = e ∧ ∃ n ≤ 61, t.dev.aon.snap = some (s.dev.log.next, n)
        else if 1200 ≤ b.usable then t.dev.aon = e ∧ record 2 t
        else aonOnly t { e with unsaved := true, closed := true }) ∧
      Completes (.vauxHandover vaux vbak) s fun t =>
        let b := { a with vaux, vbak, okSince := none }
        let e := { b with energy := min b.usable 0xFFFFFFFF }
        if a.powered = false ∨ 3050 ≤ vaux then t = s
        else if a.vbakSrc = true ∨ a.hand.isSome = true then aonOnly t e
        else if 2500 ≤ vbak then t.dev.aon = { e with hand := some now, epi := satBv a.epi 1 } ∧ first t 0x0205
        else (a.snap = none → t.dev.aon = e) ∧ first t 0x0206 ∧ (2950 ≤ vaux → record 3 t)) ∧
    (Completes .handoverDone s fun t => if s.dev.aon.hand.isSome = true ∧ ∀ e ∈ s.dev.log.queue ++ s.dev.log.overd, e.code ≠ 0x0205 then
        t.dev.aon.vbakSrc = true ∧ t.dev.aon.hand = none ∧ t.dev.aon.epi = s.dev.aon.epi ∧ t.mem = s.mem else t = s) ∧
    (Completes .vauxReturn s fun t => let a := s.dev.aon
      if (∃ x, a.okSince = some x ∧ x + 50000000 ≤ now) ∧ a.vbakSrc = true ∧ a.hand = none ∧ a.snap = none ∧
          s.dev.log.ops.any (fun o => match o.use with | .record _ | .snapshot _ => true | _ => false) = false then
        aonOnly t { a with vbakSrc := false, closed := false, ret := s.dev.stampTime &&& 0x7FFFFFFFFFFFFFFF }
      else t = s) ∧
    Completes .vauxLoss s fun t => if s.dev.aon.powered = true ∧ s.dev.aon.vbakSrc = false ∧ s.dev.aon.hand = none then
        t.dev.aon = .reset ∧ t.dev.log = .reset ∧ t.dev.cmp = .reset ∧ t.dev.start = .reset ∧ t.dev.sup = { Sup.reset with pwron := u.pwron } ∧
        t.mem.cells .near = [] ∧ t.mem.cells .hbm = [] ∧ (s.dev.log.ops = [] → t.mem.cells .flash = s.mem.cells .flash)
      else t = s

/-- Flash operations and the mirror, log entries and their retrieval, the staged set, temperatures, the watchdog and failed units. What a log erase that fails leaves, a failed mirror erase counted without a bad page, the order of the sectors of a log erase, the entry written first at a thermal event, and the open bytes of a failed program are the model's choice (log entry 36): 16_supplies (R425), 16_supplies (R426), 18_faults (R460), 18_faults (R462), 18_faults (R463), 18_faults (R464), 18_faults (R465), 18_faults (R474), 18_faults (R475), 18_faults (R476), 19_long_run (R487), 19_long_run (R488). -/
def Obligations.FlashLogStagingAndFaults : Prop :=
  ∀ (s : State), let now := s.dev.now
    let l := s.dev.log
    let a := s.dev.aon
    let h := s.dev.dom hubDom
    let u := s.dev.sup
    let logOnly (t : State) (x : Log) : Prop := Only (fun d e => { d with log := e.log }) s t ∧ t.dev.log = x
    let stageOnly (t : State) (x : Stage) : Prop := Only (fun d e => { d with stage := e.stage }) s t ∧ t.dev.stage = x
    let logged (t : State) (code : Nat) : Prop := ∃ e, e.code = code ∧ t.dev.log = l.enqueue now e
    let first (t : State) (code : Nat) : Prop :=
      if a.powered = true ∧ l.queue = [] ∧ l.overd = [] ∧ l.mayStart now = true then t.dev.log.next = l.next + 1 ∧ t.dev.log.lastStart = some now ∧
        ∃ e, t.dev.log.ring.getLast? = some e ∧ e.code = BitVec.ofNat 16 code ∧ e.seq = l.next
      else logged t code
    let cfgNext (t : State) (k : Nat) (x : CfgWrite) : Prop :=
      if a.mayFlash 600 = true then t.dev.log.ops = [⟨false, 0x1000 * x.sector + 256 * k, (x.bytes.drop (256 * k)).take 256, .cfg (k + 1)⟩]
      else t.dev.log.cfgw = none ∧ t.dev.log.cfgRes = some 502
    let entering (t : State) : Prop := h.cur = .active → h.entry = none → h.wake = none → u.orderly = none →
      t.dev.sup.orderly = some now ∧ ∃ e, (t.dev.dom hubDom).entry = some e ∧ e.way = .request ∧ e.tgt = .banked
    (∀ ok : Bool,
      (Completes (.flashProgramDone ok) s fun t => match l.ops with
        | o :: rest => if o.erase = true then t = s else
            (∃ b : List Byte, b.length = o.bytes.length ∧ (ok = true → b = o.bytes) ∧ t.mem = s.mem.apply1 (.bytes .flash o.off b)) ∧
            (rest = [] → a.snap = none → (∀ k, o.use ≠ .cfg k) → t.dev.log.ops = []) ∧
            (∀ q, o.use = .mirror q ∨ o.use = .snapshot q → t.dev.log.mpage = (l.mpage + 1) % 32768 ∧
              if ok then t.dev.log.failRow = 0 ∧ t.dev.log.unm = (if (q - l.unm).toNat < 2 ^ 31 then q else l.unm)
              else t.dev.log.failRow = l.failRow + 1 ∧ t.dev.log.bad = satBv l.bad 1 ∧ t.dev.log.unm = l.unm ∧
                t.dev.log.mfail = if 2 ≤ l.failRow + 1 then some now else l.mfail) ∧
            (∀ k, o.use = .record k → t.dev.log.mpage = (l.mpage + 1) % 32768 ∧
              (ok = true → t.dev.aon.brown = BitVec.ofNat 32 (k * 2 ^ 24 + leAt o.bytes 4 4 % 2 ^ 24)) ∧
              (k ≠ 3 → rest = [] → t.dev.aon.closed = a.vbakSrc ∧ t.dev.aon.snap = none)) ∧
            (∀ k x, o.use = .cfg k → l.cfgw = some x → rest = [] → (ok = true → k ≠ 2 → cfgNext t k x) ∧ (ok = false → t.dev.log.cfgw = none ∧ t.dev.log.cfgRes = some 501) ∧
              (ok = true → k = 2 → t.dev.start.cfg = x.cfg ∧ t.dev.log.cfgw = none ∧ t.dev.log.cfgRes = some 0 ∧
                ∀ n j, x.keyBy = some n → j < 2 → (t.dev.sess j).priv = if (s.dev.sess j).priv = 2 then 1 else (s.dev.sess j).priv))
        | [] => t = s) ∧
      Completes (.flashEraseDone ok) s fun t => match l.ops with
        | o :: rest => if o.erase = false then t = s else
            (ok = true → t.mem = s.mem.apply1 (.clearRange .flash o.off 4096)) ∧
            (∀ q, o.use = .mirror q → t.dev.log.failRow = (if ok then l.failRow else l.failRow + 1) ∧ (rest = [] → a.snap = none → t.dev.log.ops = [])) ∧
            (∀ k, o.use = .clear true k → rest = [] → (ok = false → t.dev.log.cfgRes = some 501) ∧
              (ok = true → k = 0 → t.dev.log.cfgRes = some 0 ∧ t.dev.log.ring = [] ∧ t.dev.log.unm = l.next ∧ t.dev.log.oldm = l.next) ∧
              (ok = true → k ≠ 0 → if a.mayFlash 3000 = true then
                  t.dev.log.ops = [⟨true, logArea + (o.off - logArea + 4096) % 0x800000, [], .clear true (k - 1)⟩] ∧ t.dev.log.cfgRes = l.cfgRes
                else t.dev.log.cfgRes = some 502)) ∧
            (∀ k, o.use = .clear false k → rest = [] → t.dev.log.cfgRes = l.cfgRes ∧ t.dev.log.ring = l.ring ∧ t.dev.log.queue = l.queue ∧
              t.dev.log.oldm = l.oldm) ∧
            (∀ k x, o.use = .cfg k → l.cfgw = some x → rest = [] → (ok = true → k ≠ 2 → cfgNext t k x) ∧
              (ok = false → t.dev.log.cfgw = none ∧ t.dev.log.cfgRes = some 501))
        | [] => t = s) ∧
    (let blocked : Prop := a.powered = false ∨ a.closed = true ∨ a.snap.isSome = true ∨ l.ops ≠ []
      let goes (t : State) (l : Log) : Prop := match mirrorErase s.mem l.mpage with
        | some k =>
          if l.worn now k = true then logOnly t { l with mwear := true }
          else if a.mayMirror 3000 = false then logOnly t { l with menergy := true }
          else t.mem = s.mem ∧ t.dev.log.ops = [⟨true, logArea + 4096 * k, [], .mirror l.unm⟩] ∧ Tab.look 0 t.dev.log.erases k = now + 1
        | none =>
          if l.behind < 2 then logOnly t { l with mwear := false, menergy := false }
          else if a.mayMirror 600 = false then logOnly t { l with menergy := true }
          else t.mem = s.mem ∧ t.dev.log.ops = [⟨false, logArea + 256 * l.mpage, l.pageBytes 2, .mirror (l.unm + 2)⟩]
      (Completes .mirrorProgram s fun t => (blocked ∨ l.mfail.isSome = true → t = s) ∧ (¬blocked → l.mfail = none → goes t l)) ∧
      Completes .mirrorRetry s fun t => match l.mfail with
        | some x => if now < x + 1000000000 then t = s
            else (blocked → logOnly t { l with mfail := none, failRow := 0 }) ∧ (¬blocked → goes t { l with mfail := none, failRow := 0 })
        | none => t = s) ∧
    (∀ e, l.hold = [e] → e.after.all s.dev.reportOut = true → codeCoalesced e.code = false → l.queue = [] → l.overd = [] →
      (∀ x, l.lastStart = some x → x + 100000 ≤ now) → a.powered = true →
      Completes .logEntryWrite s fun t => t.dev.log.hold = [] ∧ t.dev.log.next = l.next + 1 ∧ ∃ r, t.dev.log.ring.getLast? = some r ∧
        r.seq = l.next ∧ r.code = BitVec.ofNat 16 e.code ∧ r.src = BitVec.ofNat 32 e.src ∧ r.time = s.dev.stampTime ∧ r.data = e.data) ∧
    ((∀ e ∈ l.hold, e.after.all s.dev.reportOut = false) → Completes .logEntryWrite s fun t => match l.queue with
      | e :: _ => if (∀ x, l.lastStart = some x → x + 100000 ≤ now) ∧ a.powered = true then
          let full : Bool := 4096 ≤ l.ring.length
          let lost : Bool := full && (match l.ring with | o :: _ => o.seq == l.unm | [] => false)
          t.mem = s.mem ∧ t.dev.log.next = l.next + 1 ∧ t.dev.log.lastStart = some now ∧
          t.dev.log.ovf = (if lost then satBv l.ovf 1 else l.ovf) ∧ t.dev.log.unm = (if lost then l.unm + 1 else l.unm) ∧
          ∃ r, t.dev.log.ring = (if full then l.ring.drop 1 else l.ring) ++ [r] ∧ r.seq = l.next ∧ r.code = BitVec.ofNat 16 e.code ∧
            r.cls = codeClass e.code ∧ r.src = BitVec.ofNat 32 e.src ∧ r.time = e.time ∧ r.data = e.data ∧ r.sag = e.sag ∧
            r.rep = BitVec.ofNat 16 (min e.rep 65535) ∧ r.chip = s.dev.fab.chip
        else t = s
      | [] => t = s) ∧
    (∀ (code : BitVec 16) (src : Word), Completes (.coalesceWindowEnd code src) s fun t =>
      match l.windows.find? fun x => x.code == code.toNat && x.src == src.toNat with
      | some x => if now < x.since + 100000000 then t = s else
          let y := { l with windows := l.windows.filter fun y => !(y.code == code.toNat && y.src == src.toNat) }
          logOnly t (match x.last with | some e => y.enqueue now { e with rep := x.n, occ := x.n } | none => y)
      | none => t = s) ∧
    (Completes .logFetchDone s fun t =>
      if l.busy = false then t = s
      else match l.ring.reverse.find? fun e => e.seq == l.sel with
        | some e => logOnly t { l with busy := false, ssrc := 0, ent := e.bytes }
        | none => if l.inMirror l.sel = true ∧ l.ops ≠ [] then t = s else match mirrorEntry s.mem l l.sel with
          | some b => logOnly t { l with busy := false, ssrc := 1, ent := b }
          | none => logOnly t { l with busy := false, ssrc := 2, ent := [] }) ∧
    (∀ (ag : Agent) (v : Word), s.dev.serves ag .aon = true → Completes (.logFetch ag v) s fun t =>
      logOnly t (if l.busy then l else { l with sel := v, busy := true })) ∧
    (∀ (ag : Agent) (v : Word), s.dev.serves ag .glob = true → let g := s.dev.stage
      (∀ k : Fin 5, Completes (.stageRegisterWrite ag k v) s fun t =>
        let n := v.toNat % 65536
        stageOnly t (if g.pend then { g with lost := true }
          else if v.getLsbD 31 = false then { g with stg := Tab.del g.stg k }
          else if n ≤ 60000 ∧ (k.val = 3 → 250 ≤ n) ∧ (k.val = 4 → 1 ≤ n) then { g with stg := Tab.put g.stg k (v.setWidth 16) }
          else { g with range := true })) ∧
      Completes (.stageCommitWrite ag) s fun t =>
        stageOnly t (if g.pend then { g with lost := true } else if g.stg = [] then g
          else { g with apply := g.stg.foldl (fun t x => Tab.put t x.1 x.2) g.force, stg := [], pend := true, pos := 0, since := now })) ∧
    (s.dev.noWaits = true → let g := s.dev.stage
      let n := stageDom g.pos
      Completes .commitSafePoint s fun t =>
        if g.pend = false ∨ (n ≠ hubDom ∧ ((s.dev.dom n).entry.isSome = true ∨ ∃ k, (s.dev.dom n).wake = some k ∧ k.started = true)) ∨ (g.pos = 276 ∧ now < g.since + 10000)
        then t = s
        else t.dev.stage = (if g.pos = 276 then { g with cgen := g.cgen + 1, force := g.apply, pend := false, pos := 0 } else { g with pos := g.pos + 1 }) ∧
          (g.pos = 0 → t.dev.reprobe = if (Tab.look 0 g.apply 3).toNat = s.dev.setting 3 hubDom then s.dev.reprobe else Tab.look 0 g.apply 3)) ∧
    (∀ (recipe both : Bool) (slot : Fin 128) (cl : Option (Fin 256)), recipe = true ∨ slot.val < 64 →
      Completes (.tableStoreError recipe slot both cl) s fun t =>
        if (s.dev.storeSlot recipe slot).loaded = false then t = s
        else match cl with
          | some n => t.dev.cl n = { s.dev.cl n with copyErr := (if recipe then 64 + slot.val else slot.val) :: (s.dev.cl n).copyErr } ∧
              ∀ j ≠ n.val, t.dev.cl j = s.dev.cl j
          | none => if both then (t.dev.storeSlot recipe slot).failed = true ∧ logged t 0x0302 else t.dev.cmp.cecc = satBv s.dev.cmp.cecc 1) ∧
    (∀ t0 t1 t2 : BitVec 16,
      (Completes (.tempSample t0 t1 t2) s fun t => if s.dev.hubLive = false then t = s else
        let x := t.dev.temps
        x.t = [(0, some t0.toInt), (1, some t1.toInt), (2, some t2.toInt)] ∧ x.banked = s.dev.temps.banked ∧ x.latched = s.dev.temps.latched ∧
        Only (fun d e => { d with temps := e.temps, log := e.log }) s t ∧ (t0.toInt ≤ 1600 → t1.toInt ≤ 1600 → t2.toInt ≤ 1600 → t.dev.log = l) ∧
        ∀ k r, (k, r) ∈ [(0, t0), (1, t1), (2, t2)] → ((∃ y, (k, y) ∈ x.hot110) ↔ 1760 < r.toInt) ∧ ((∃ y, (k, y) ∈ x.hot125) ↔ 2000 < r.toInt)) ∧
      Completes (.aonTempRead t0 t1 t2) s fun t =>
        if s.dev.temps.banked = false ∨ h.cur ≠ .banked ∨ (∃ r, s.dev.temps.readAt = some r ∧ now < r + 1000000) then t = s
        else if t0.toInt ≤ 1520 ∧ t1.toInt ≤ 1520 ∧ t2.toInt ≤ 1520 then
          t.dev.temps = { s.dev.temps with banked := false, latched := [], readAt := none } ∧
          (s.dev.lockedOut = false → (∃ b, (hubDom, b) ∈ s.dev.temps.latched) → h.entry = none → (t.dev.dom hubDom).wake.isSome = true)
        else Only (fun d e => { d with temps := e.temps }) s t ∧ t.dev.temps = { s.dev.temps with readAt := some now }) ∧
    (Completes .tempBank s fun t => if (∃ x ∈ s.dev.temps.hot110, x.2 + 1000000 ≤ now) ∧ s.dev.temps.banked = false then
        entering t ∧ (h.cur = .active → t.dev.temps = { s.dev.temps with banked := true } ∧ first t 0x0208) else t = s) ∧
    (Completes .tempTrip s fun t => if ∃ x ∈ s.dev.temps.hot125, x.2 + 10000 ≤ now then
        first t 0x0209 ∧ t.dev.sup.stay = true ∧ t.dev.sup.restartAt = none ∧ t.dev.cmp = .reset ∧ t.mem.cells .hbm = [] ∧ t.mem.cells .near = [] ∧
        t.dev.sup.seq = match u.seq with | .on => .down 5 now | .up k _ => .down k now | x => x
      else t = s) ∧
    (Completes .watchdogExpiry s fun t => if a.powered = false then t = s else
        t.dev.con.run = none ∧ t.dev.log.wdog = satBv l.wdog 1 ∧
        (s.dev.start.running = true → t.dev.cmp = .reset ∧ t.mem.cells .hbm = [] ∧ t.mem.cells .near = [])) ∧
    ∀ k : Fin 3, s.dev.noWaits = true → Completes (.d2dLinkFail k) s fun t =>
      if s.dev.start.state ≠ .ready ∨ s.dev.hub.d2dDead.getLsbD k = true then t = s
      else t.dev.hub.d2dDead.getLsbD k = true ∧ (k.val = 2 → t.dev.start = s.dev.start ∧
          ((∀ n, (s.dev.cl n).tq = []) → s.dev.cmp.rowOps = [] → s.dev.nothingHeld = true → logged t 0x0303 ∧ t.mem = s.mem)) ∧
        (k.val ≠ 2 → t.dev.start.state = .failed ∧ t.dev.start.cause = 1 ∧ ∀ i < 128, (s.dev.sag i).st = .running → (t.dev.sag i).st = .killing)

/-- Always-on power-on, cold and warm starts step by step, resets, and the boundary-scan instructions. That a failed start keeps the
pending cold cause is the model's choice (log entry 36), and so are what output cells capture under SAMPLE and EXTEST and the rounding
of JTG.TIME (`Dev.startMs`, log entry 29): 17_startup (R435), 17_startup (R436), 17_startup (R441), 17_startup (R443), 17_startup (R444), 17_startup (R446), 17_startup (R447), 17_startup (R448), 17_startup (R449), 17_startup (R453), 17_startup (R454), 17_startup (R455). -/
def Obligations.StartUpResetsAndBoundaryScan : Prop :=
  ∀ (s : State), let now := s.dev.now
    let b := s.dev.start
    let u := s.dev.sup
    let startOnly (t : State) (x : Start) : Prop := Only (fun d e => { d with start := e.start }) s t ∧ t.dev.start = x
    let cleared (t : State) : Prop := t.mem.cells .near = [] ∧ t.mem.cells .hbm = [] ∧ t.mem.cells .flash = s.mem.cells .flash
    let at_ (t : State) (n : Nat) (st : StState) : Prop := t.dev.start.step = n ∧ t.dev.start.state = st
    let failed (t : State) (cause : Byte) : Prop := t.dev.start.state = .failed ∧ t.dev.start.cause = cause ∧ t.dev.start.pend = b.pend.filter coldCause ∧
      ∀ n < 277, n ≠ hubDom → (t.dev.dom n).cur = .offline ∨ (t.dev.dom n).cur = if 257 ≤ n ∧ n < 269 then .off else .banked
    (∀ (straps : BitVec 5) (pwron : Bool), Completes (.aonPowerOn straps pwron) s fun t =>
      if s.dev.aon.powered = true then t = s
      else t.mem = s.mem ∧ t.dev.now = now ∧ t.dev.aon.powered = true ∧ t.dev.start.strap = straps ∧ t.dev.start.why = 7 ∧
        t.dev.start.pend = (if pwron then some 7 else none) ∧ t.dev.sup = { Sup.reset with pwron } ∧ t.dev.cmp = .reset ∧
        t.dev.log.next = (logRestore s.mem).next ∧ t.dev.start.cfg = (if straps.getLsbD 3 then .default else (cfgChoose s.mem).1)) ∧
    (Completes .crystalStable s fun t => if s.dev.aon.powered = true then
        Only (fun d e => { d with aon := e.aon }) s t ∧ t.dev.aon = { s.dev.aon with crystal := true } else t = s) ∧
    (∀ straps : BitVec 5, Completes (.coldStart straps) s fun t => match b.pend with
      | some c =>
        let cold : Prop := (c ≠ 5 ∧ c ≠ 6) ∨ (b.cold = true ∧ (b.running = true ∨ b.state = .scan))
        if cold ∧ s.dev.aon.powered = true ∧ u.pwron = true ∧ u.stay = false ∧ u.down = false ∧ (match u.seq with | .down _ _ => false | _ => true) = true then
          at_ t 1 .seq ∧ cleared t ∧ t.dev.start.cold = true ∧ t.dev.start.strap = straps ∧ t.dev.start.owner = straps.getLsbD 4 ∧
          t.dev.start.why = c ∧ t.dev.start.pend = none ∧ t.dev.start.since = now ∧ t.dev.start.kind = (if c = 7 then 0 else 1) ∧
          t.dev.start.ir = 1 ∧ t.dev.start.cfg.key = b.cfg.key ∧ t.dev.start.cfg.kid = b.cfg.kid ∧
          t.dev.fab.time = 0 ∧ t.dev.aon.epi = 0 ∧ (∀ k, claimHolder t.dev.con k = 0)
        else t = s
      | none => t = s) ∧
    (∀ r : StepRes,
      (b.running = false → Completes (.startStepDone r) s fun t => t = s) ∧
      (b.running = true →
        (b.step = 1 → Completes (.startStepDone r) s fun t => at_ t 2 .seq ∧ t.mem = s.mem ∧
          t.dev.sup.seq = if u.seq = .off then .up 2 now else u.seq) ∧
        (2 ≤ b.step → b.step ≤ 4 → Completes (.startStepDone r) s fun t =>
          if u.good.getLsbD b.step = true then startOnly t { b with step := b.step + 1, state := .seq } else t = s) ∧
        (b.step = 5 → Completes (.startStepDone r) s fun t => if u.seq = .on then startOnly t { b with step := 6, state := .seq } else t = s) ∧
        (b.step = 6 → Completes (.startStepDone r) s fun t =>
          if b.strap.getLsbD 4 = true ∧ b.cold = true then startOnly t { b with step := 6, state := .scan }
          else at_ t 7 .test ∧ t.mem = s.mem ∧ t.dev.dom hubDom = { Dom.at .active with idleAt := now } ∧ t.dev.sup.vset = vcoreSet 8 ∧
            t.dev.sup.activeAt = now) ∧
        (b.step = 7 → Completes (.startStepDone r) s fun t =>
          let bad := r.d2dFail ||| s.dev.hub.d2dDead
          t.dev.start.d2dFail = bad ∧ t.dev.hub.d2dDead = bad ∧ t.dev.hub.d2dUp = ~~~bad ∧ if bad ≠ 0 then failed t 1 else at_ t 8 .test) ∧
        (b.step = 8 → Completes (.startStepDone r) s fun t => t.mem.cells .near = [] ∧ t.mem.cells .hbm = s.mem.cells .hbm ∧
          (b.cold = true → t.dev.start.clusterRep = r.cluRep &&& ~~~(r.logicBad ||| r.marchBad)) ∧
          let off (n : Nat) : Prop := if b.cold then (r.logicBad ||| r.marchBad).getLsbD n = true else (s.dev.dom n).cur = .offline
          (∀ n < 256, (t.dev.dom n).cur = .offline ↔ off n) ∧ ((∀ n < 256, off n) → failed t 3) ∧
          ((∃ n < 256, ¬off n) → at_ t 9 .test ∧ ∀ n < 256, ¬off n → (t.dev.dom n).cur = .active)) ∧
        (b.step = 9 → Completes (.startStepDone r) s fun t =>
          t.dev.start.hbmRep = r.hbmRep ∧ if r.hbmFail ≠ 0 then failed t 2 ∧ t.dev.start.hbmFail = r.hbmFail
          else (∀ k < 8, (t.dev.dom (hbmDom k)).cur = .active) ∧ if b.cold then at_ t 10 .test else at_ t 11 .load) ∧
        (b.step = 10 → Completes (.startStepDone r) s fun t => t.dev.start.hbmFail = r.hbmFail ∧ t.dev.start.hbmRep = b.hbmRep ||| r.hbmRep ∧
          if r.hbmFail ≠ 0 then failed t 2 else at_ t 11 .load ∧ t.mem.cells .hbm = []) ∧
        (b.step = 11 → Completes (.startStepDone r) s fun t =>
          if b.cfg.boots.length ≤ b.bootAt then startOnly t { b with step := 12, state := .load } else t = s) ∧
        (b.step = 12 → Completes (.startStepDone r) s fun t => at_ t 13 .ready ∧ t.mem = s.mem ∧
          t.dev.start.time = s.dev.startMs ∧ t.dev.start.col = s.dev.colophon ∧ ∀ p < 12,
          let n := ((lanesParse b.cfg.lanes).getD laneDefault).getD p 0
          (t.dev.port p).count = n ∧ if n = 0 then (t.dev.port p).state = .off ∧ (t.dev.dom (portDom p)).cur = .off
            else (t.dev.port p).state = .detect ∧ (t.dev.dom (portDom p)).cur = .active) ∧
        (13 ≤ b.step → Completes (.startStepDone r) s fun t => t = s))) ∧
    (Completes .warmReset s fun t =>
      let c : Bool := b.pend == some 5 || b.pend == some 6
      if c = true ∧ (b.state = .ready ∨ (b.running = true ∧ b.cold = false)) then
        at_ t 6 .seq ∧ t.dev.start.kind = 2 ∧ t.dev.start.pend = none ∧ some t.dev.start.why = b.pend ∧ t.dev.start.cfg = b.cfg ∧
        t.mem.cells .near = [] ∧ t.mem.cells .hbm = s.mem.cells .hbm ∧ t.dev.sup = { u with orderly := none } ∧
        (∀ n < 256, (t.dev.cl n).online = (s.dev.cl n).online) ∧ (s.dev.con.run = none → t.dev.con.claims = s.dev.con.claims) ∧ (∀ n < 256, (t.dev.dom n).cur = if (s.dev.dom n).cur = .offline then .offline else .banked) ∧
        ∀ k < 8, (t.dev.dom (hbmDom k)).cur = .banked
      else if c = true ∧ b.running = false ∧ b.state ≠ .scan then startOnly t { b with pend := none } else t = s) ∧
    (Completes .sysrst s fun t => if s.dev.aon.powered = true then startOnly t { b with pend := some 3 } else t = s) ∧
    let scans (t : State) (x : Start) (n v : Nat) : Prop :=
      if b.owner = true ∧ u.good.getLsbD 2 = true then
        Only (fun d e => { d with start := e.start, outs := e.outs }) s t ∧ t.dev.start = x ∧ t.dev.outs = .tdo n v :: s.dev.outs
      else t = s
    let captured (c : BitVec 65) (pins : BitVec 65) : Prop :=
      ∀ i : Fin 65, c.getLsbD i = if i.val ∈ inputCells then pins.getLsbD i else b.cells.getLsbD i
    let selects (ir : Byte) (i : TapInstr) : Prop := Start.tap { b with ir } = if b.state = .scan then i else .bypass
    (Completes .bypass s fun t => scans t { b with ir := 0xFF } 1 0) ∧ (Completes .idcode s fun t => scans t { b with ir := 0x01 } 32 idcodeWord.toNat) ∧
    (Completes .clamp s fun t => scans t { b with ir := 0x04 } 1 0 ∧ selects 0x04 .clamp) ∧
    (Completes .highz s fun t => scans t { b with ir := 0x05 } 1 0 ∧ selects 0x05 .highz) ∧
    ∀ pins shift : BitVec 65, ∃ c, captured c pins ∧
      (Completes (.samplePreload pins shift) s fun t => scans t { b with ir := 0x02, cells := shift, captured := c } 65 c.toNat) ∧
      Completes (.extest pins shift) s fun t => selects 0x00 .extest ∧
        if b.state = .scan then scans t { b with ir := 0x00, cells := shift, captured := c } 65 c.toNat else scans t { b with ir := 0x00 } 1 0

/-- An unplug during an attempt abandons it, is counted with cause UNPLUG, and is no failed attempt: R312. -/
def Obligations.UnpluggedAttemptIsAbandoned : Prop :=
  ∀ (s : State) (p : Fin 12), Completes (.unplug p) s fun t => t.mem = s.mem ∧ (∀ o ≠ p.val, t.dev.port o = s.dev.port o) ∧
    let x := s.dev.port p
    let y := t.dev.port p
    (x.state = .train → y.state = .detect ∧ y.phase = .none ∧ y.peer = none ∧ y.cause = 0x02 ∧ Counted s t p 2 1 ∧
      y.fails = x.fails ∧ Counted s t p 1 0) ∧
    (x.state ≠ .train → y = x)

end
end

