-- ==== Sys2Proof/Laws/State.lean ====
section
/-!
SUPPORT. What an update of one unit of the block leaves in each field: one lemma per field per update, so that no proof unfolds a
record update.
-/
namespace Sys2Proof.Machine

@[simp] theorem W.modCmp_now (w : W) (f : Compute → Compute) : (w.modCmp f).dev.now = w.dev.now := rfl
@[simp] theorem W.modCmp_free (w : W) (f : Compute → Compute) : (w.modCmp f).dev.free = w.dev.free := rfl
@[simp] theorem W.modCmp_outs (w : W) (f : Compute → Compute) : (w.modCmp f).dev.outs = w.dev.outs := rfl
@[simp] theorem W.modCmp_hub (w : W) (f : Compute → Compute) : (w.modCmp f).dev.hub = w.dev.hub := rfl
@[simp] theorem W.modCmp_cmp (w : W) (f : Compute → Compute) : (w.modCmp f).dev.cmp = f w.dev.cmp := rfl
@[simp] theorem W.modCmp_pci (w : W) (f : Compute → Compute) : (w.modCmp f).dev.pci = w.dev.pci := rfl
@[simp] theorem W.modCmp_dma (w : W) (f : Compute → Compute) : (w.modCmp f).dev.dma = w.dev.dma := rfl
@[simp] theorem W.modCmp_con (w : W) (f : Compute → Compute) : (w.modCmp f).dev.con = w.dev.con := rfl
@[simp] theorem W.modCmp_ports (w : W) (f : Compute → Compute) : (w.modCmp f).dev.ports = w.dev.ports := rfl
@[simp] theorem W.modCmp_reprobe (w : W) (f : Compute → Compute) : (w.modCmp f).dev.reprobe = w.dev.reprobe := rfl
@[simp] theorem W.modCmp_fab (w : W) (f : Compute → Compute) : (w.modCmp f).dev.fab = w.dev.fab := rfl
@[simp] theorem W.modCmp_coll (w : W) (f : Compute → Compute) : (w.modCmp f).dev.coll = w.dev.coll := rfl
@[simp] theorem W.modCmp_pwr (w : W) (f : Compute → Compute) : (w.modCmp f).dev.pwr = w.dev.pwr := rfl
@[simp] theorem W.modCmp_sup (w : W) (f : Compute → Compute) : (w.modCmp f).dev.sup = w.dev.sup := rfl
@[simp] theorem W.modCmp_aon (w : W) (f : Compute → Compute) : (w.modCmp f).dev.aon = w.dev.aon := rfl
@[simp] theorem W.modCmp_start (w : W) (f : Compute → Compute) : (w.modCmp f).dev.start = w.dev.start := rfl
@[simp] theorem W.modCmp_log (w : W) (f : Compute → Compute) : (w.modCmp f).dev.log = w.dev.log := rfl
@[simp] theorem W.modCmp_temps (w : W) (f : Compute → Compute) : (w.modCmp f).dev.temps = w.dev.temps := rfl
@[simp] theorem W.modCmp_stage (w : W) (f : Compute → Compute) : (w.modCmp f).dev.stage = w.dev.stage := rfl
@[simp] theorem W.modCmp_mem (w : W) (f : Compute → Compute) : (w.modCmp f).mem = w.mem := rfl
@[simp] theorem W.modCmp_ws (w : W) (f : Compute → Compute) : (w.modCmp f).ws = w.ws := rfl
@[simp] theorem W.modCmp_op (w : W) (f : Compute → Compute) : (w.modCmp f).op = w.op := rfl
@[simp] theorem W.modCmp_die (w : W) (f : Compute → Compute) : (w.modCmp f).die = w.die := rfl
@[simp] theorem W.modCmp_was (w : W) (f : Compute → Compute) : (w.modCmp f).was = w.was := rfl
@[simp] theorem W.modCmp_skip (w : W) (f : Compute → Compute) : (w.modCmp f).skip = w.skip := rfl
@[simp] theorem W.modCmp_inst (w : W) (f : Compute → Compute) : (w.modCmp f).inst = w.inst := rfl
@[simp] theorem W.modCmp_rep (w : W) (f : Compute → Compute) : (w.modCmp f).rep = w.rep := rfl
@[simp] theorem W.modCmp_ecc (w : W) (f : Compute → Compute) : (w.modCmp f).ecc = w.ecc := rfl

@[simp] theorem W.modPci_now (w : W) (f : Pci → Pci) : (w.modPci f).dev.now = w.dev.now := rfl
@[simp] theorem W.modPci_free (w : W) (f : Pci → Pci) : (w.modPci f).dev.free = w.dev.free := rfl
@[simp] theorem W.modPci_outs (w : W) (f : Pci → Pci) : (w.modPci f).dev.outs = w.dev.outs := rfl
@[simp] theorem W.modPci_hub (w : W) (f : Pci → Pci) : (w.modPci f).dev.hub = w.dev.hub := rfl
@[simp] theorem W.modPci_cmp (w : W) (f : Pci → Pci) : (w.modPci f).dev.cmp = w.dev.cmp := rfl
@[simp] theorem W.modPci_pci (w : W) (f : Pci → Pci) : (w.modPci f).dev.pci = f w.dev.pci := rfl
@[simp] theorem W.modPci_dma (w : W) (f : Pci → Pci) : (w.modPci f).dev.dma = w.dev.dma := rfl
@[simp] theorem W.modPci_con (w : W) (f : Pci → Pci) : (w.modPci f).dev.con = w.dev.con := rfl
@[simp] theorem W.modPci_ports (w : W) (f : Pci → Pci) : (w.modPci f).dev.ports = w.dev.ports := rfl
@[simp] theorem W.modPci_reprobe (w : W) (f : Pci → Pci) : (w.modPci f).dev.reprobe = w.dev.reprobe := rfl
@[simp] theorem W.modPci_fab (w : W) (f : Pci → Pci) : (w.modPci f).dev.fab = w.dev.fab := rfl
@[simp] theorem W.modPci_coll (w : W) (f : Pci → Pci) : (w.modPci f).dev.coll = w.dev.coll := rfl
@[simp] theorem W.modPci_pwr (w : W) (f : Pci → Pci) : (w.modPci f).dev.pwr = w.dev.pwr := rfl
@[simp] theorem W.modPci_sup (w : W) (f : Pci → Pci) : (w.modPci f).dev.sup = w.dev.sup := rfl
@[simp] theorem W.modPci_aon (w : W) (f : Pci → Pci) : (w.modPci f).dev.aon = w.dev.aon := rfl
@[simp] theorem W.modPci_start (w : W) (f : Pci → Pci) : (w.modPci f).dev.start = w.dev.start := rfl
@[simp] theorem W.modPci_log (w : W) (f : Pci → Pci) : (w.modPci f).dev.log = w.dev.log := rfl
@[simp] theorem W.modPci_temps (w : W) (f : Pci → Pci) : (w.modPci f).dev.temps = w.dev.temps := rfl
@[simp] theorem W.modPci_stage (w : W) (f : Pci → Pci) : (w.modPci f).dev.stage = w.dev.stage := rfl
@[simp] theorem W.modPci_mem (w : W) (f : Pci → Pci) : (w.modPci f).mem = w.mem := rfl
@[simp] theorem W.modPci_ws (w : W) (f : Pci → Pci) : (w.modPci f).ws = w.ws := rfl
@[simp] theorem W.modPci_op (w : W) (f : Pci → Pci) : (w.modPci f).op = w.op := rfl
@[simp] theorem W.modPci_die (w : W) (f : Pci → Pci) : (w.modPci f).die = w.die := rfl
@[simp] theorem W.modPci_was (w : W) (f : Pci → Pci) : (w.modPci f).was = w.was := rfl
@[simp] theorem W.modPci_skip (w : W) (f : Pci → Pci) : (w.modPci f).skip = w.skip := rfl
@[simp] theorem W.modPci_inst (w : W) (f : Pci → Pci) : (w.modPci f).inst = w.inst := rfl
@[simp] theorem W.modPci_rep (w : W) (f : Pci → Pci) : (w.modPci f).rep = w.rep := rfl
@[simp] theorem W.modPci_ecc (w : W) (f : Pci → Pci) : (w.modPci f).ecc = w.ecc := rfl

@[simp] theorem W.modCon_now (w : W) (f : Con → Con) : (w.modCon f).dev.now = w.dev.now := rfl
@[simp] theorem W.modCon_free (w : W) (f : Con → Con) : (w.modCon f).dev.free = w.dev.free := rfl
@[simp] theorem W.modCon_outs (w : W) (f : Con → Con) : (w.modCon f).dev.outs = w.dev.outs := rfl
@[simp] theorem W.modCon_hub (w : W) (f : Con → Con) : (w.modCon f).dev.hub = w.dev.hub := rfl
@[simp] theorem W.modCon_cmp (w : W) (f : Con → Con) : (w.modCon f).dev.cmp = w.dev.cmp := rfl
@[simp] theorem W.modCon_pci (w : W) (f : Con → Con) : (w.modCon f).dev.pci = w.dev.pci := rfl
@[simp] theorem W.modCon_dma (w : W) (f : Con → Con) : (w.modCon f).dev.dma = w.dev.dma := rfl
@[simp] theorem W.modCon_con (w : W) (f : Con → Con) : (w.modCon f).dev.con = f w.dev.con := rfl
@[simp] theorem W.modCon_ports (w : W) (f : Con → Con) : (w.modCon f).dev.ports = w.dev.ports := rfl
@[simp] theorem W.modCon_reprobe (w : W) (f : Con → Con) : (w.modCon f).dev.reprobe = w.dev.reprobe := rfl
@[simp] theorem W.modCon_fab (w : W) (f : Con → Con) : (w.modCon f).dev.fab = w.dev.fab := rfl
@[simp] theorem W.modCon_coll (w : W) (f : Con → Con) : (w.modCon f).dev.coll = w.dev.coll := rfl
@[simp] theorem W.modCon_pwr (w : W) (f : Con → Con) : (w.modCon f).dev.pwr = w.dev.pwr := rfl
@[simp] theorem W.modCon_sup (w : W) (f : Con → Con) : (w.modCon f).dev.sup = w.dev.sup := rfl
@[simp] theorem W.modCon_aon (w : W) (f : Con → Con) : (w.modCon f).dev.aon = w.dev.aon := rfl
@[simp] theorem W.modCon_start (w : W) (f : Con → Con) : (w.modCon f).dev.start = w.dev.start := rfl
@[simp] theorem W.modCon_log (w : W) (f : Con → Con) : (w.modCon f).dev.log = w.dev.log := rfl
@[simp] theorem W.modCon_temps (w : W) (f : Con → Con) : (w.modCon f).dev.temps = w.dev.temps := rfl
@[simp] theorem W.modCon_stage (w : W) (f : Con → Con) : (w.modCon f).dev.stage = w.dev.stage := rfl
@[simp] theorem W.modCon_mem (w : W) (f : Con → Con) : (w.modCon f).mem = w.mem := rfl
@[simp] theorem W.modCon_ws (w : W) (f : Con → Con) : (w.modCon f).ws = w.ws := rfl
@[simp] theorem W.modCon_op (w : W) (f : Con → Con) : (w.modCon f).op = w.op := rfl
@[simp] theorem W.modCon_die (w : W) (f : Con → Con) : (w.modCon f).die = w.die := rfl
@[simp] theorem W.modCon_was (w : W) (f : Con → Con) : (w.modCon f).was = w.was := rfl
@[simp] theorem W.modCon_skip (w : W) (f : Con → Con) : (w.modCon f).skip = w.skip := rfl
@[simp] theorem W.modCon_inst (w : W) (f : Con → Con) : (w.modCon f).inst = w.inst := rfl
@[simp] theorem W.modCon_rep (w : W) (f : Con → Con) : (w.modCon f).rep = w.rep := rfl
@[simp] theorem W.modCon_ecc (w : W) (f : Con → Con) : (w.modCon f).ecc = w.ecc := rfl

@[simp] theorem W.modFab_now (w : W) (f : Fab → Fab) : (w.modFab f).dev.now = w.dev.now := rfl
@[simp] theorem W.modFab_free (w : W) (f : Fab → Fab) : (w.modFab f).dev.free = w.dev.free := rfl
@[simp] theorem W.modFab_outs (w : W) (f : Fab → Fab) : (w.modFab f).dev.outs = w.dev.outs := rfl
@[simp] theorem W.modFab_hub (w : W) (f : Fab → Fab) : (w.modFab f).dev.hub = w.dev.hub := rfl
@[simp] theorem W.modFab_cmp (w : W) (f : Fab → Fab) : (w.modFab f).dev.cmp = w.dev.cmp := rfl
@[simp] theorem W.modFab_pci (w : W) (f : Fab → Fab) : (w.modFab f).dev.pci = w.dev.pci := rfl
@[simp] theorem W.modFab_dma (w : W) (f : Fab → Fab) : (w.modFab f).dev.dma = w.dev.dma := rfl
@[simp] theorem W.modFab_con (w : W) (f : Fab → Fab) : (w.modFab f).dev.con = w.dev.con := rfl
@[simp] theorem W.modFab_ports (w : W) (f : Fab → Fab) : (w.modFab f).dev.ports = w.dev.ports := rfl
@[simp] theorem W.modFab_reprobe (w : W) (f : Fab → Fab) : (w.modFab f).dev.reprobe = w.dev.reprobe := rfl
@[simp] theorem W.modFab_fab (w : W) (f : Fab → Fab) : (w.modFab f).dev.fab = f w.dev.fab := rfl
@[simp] theorem W.modFab_coll (w : W) (f : Fab → Fab) : (w.modFab f).dev.coll = w.dev.coll := rfl
@[simp] theorem W.modFab_pwr (w : W) (f : Fab → Fab) : (w.modFab f).dev.pwr = w.dev.pwr := rfl
@[simp] theorem W.modFab_sup (w : W) (f : Fab → Fab) : (w.modFab f).dev.sup = w.dev.sup := rfl
@[simp] theorem W.modFab_aon (w : W) (f : Fab → Fab) : (w.modFab f).dev.aon = w.dev.aon := rfl
@[simp] theorem W.modFab_start (w : W) (f : Fab → Fab) : (w.modFab f).dev.start = w.dev.start := rfl
@[simp] theorem W.modFab_log (w : W) (f : Fab → Fab) : (w.modFab f).dev.log = w.dev.log := rfl
@[simp] theorem W.modFab_temps (w : W) (f : Fab → Fab) : (w.modFab f).dev.temps = w.dev.temps := rfl
@[simp] theorem W.modFab_stage (w : W) (f : Fab → Fab) : (w.modFab f).dev.stage = w.dev.stage := rfl
@[simp] theorem W.modFab_mem (w : W) (f : Fab → Fab) : (w.modFab f).mem = w.mem := rfl
@[simp] theorem W.modFab_ws (w : W) (f : Fab → Fab) : (w.modFab f).ws = w.ws := rfl
@[simp] theorem W.modFab_op (w : W) (f : Fab → Fab) : (w.modFab f).op = w.op := rfl
@[simp] theorem W.modFab_die (w : W) (f : Fab → Fab) : (w.modFab f).die = w.die := rfl
@[simp] theorem W.modFab_was (w : W) (f : Fab → Fab) : (w.modFab f).was = w.was := rfl
@[simp] theorem W.modFab_skip (w : W) (f : Fab → Fab) : (w.modFab f).skip = w.skip := rfl
@[simp] theorem W.modFab_inst (w : W) (f : Fab → Fab) : (w.modFab f).inst = w.inst := rfl
@[simp] theorem W.modFab_rep (w : W) (f : Fab → Fab) : (w.modFab f).rep = w.rep := rfl
@[simp] theorem W.modFab_ecc (w : W) (f : Fab → Fab) : (w.modFab f).ecc = w.ecc := rfl

@[simp] theorem W.modColl_now (w : W) (f : Coll → Coll) : (w.modColl f).dev.now = w.dev.now := rfl
@[simp] theorem W.modColl_free (w : W) (f : Coll → Coll) : (w.modColl f).dev.free = w.dev.free := rfl
@[simp] theorem W.modColl_outs (w : W) (f : Coll → Coll) : (w.modColl f).dev.outs = w.dev.outs := rfl
@[simp] theorem W.modColl_hub (w : W) (f : Coll → Coll) : (w.modColl f).dev.hub = w.dev.hub := rfl
@[simp] theorem W.modColl_cmp (w : W) (f : Coll → Coll) : (w.modColl f).dev.cmp = w.dev.cmp := rfl
@[simp] theorem W.modColl_pci (w : W) (f : Coll → Coll) : (w.modColl f).dev.pci = w.dev.pci := rfl
@[simp] theorem W.modColl_dma (w : W) (f : Coll → Coll) : (w.modColl f).dev.dma = w.dev.dma := rfl
@[simp] theorem W.modColl_con (w : W) (f : Coll → Coll) : (w.modColl f).dev.con = w.dev.con := rfl
@[simp] theorem W.modColl_ports (w : W) (f : Coll → Coll) : (w.modColl f).dev.ports = w.dev.ports := rfl
@[simp] theorem W.modColl_reprobe (w : W) (f : Coll → Coll) : (w.modColl f).dev.reprobe = w.dev.reprobe := rfl
@[simp] theorem W.modColl_fab (w : W) (f : Coll → Coll) : (w.modColl f).dev.fab = w.dev.fab := rfl
@[simp] theorem W.modColl_coll (w : W) (f : Coll → Coll) : (w.modColl f).dev.coll = f w.dev.coll := rfl
@[simp] theorem W.modColl_pwr (w : W) (f : Coll → Coll) : (w.modColl f).dev.pwr = w.dev.pwr := rfl
@[simp] theorem W.modColl_sup (w : W) (f : Coll → Coll) : (w.modColl f).dev.sup = w.dev.sup := rfl
@[simp] theorem W.modColl_aon (w : W) (f : Coll → Coll) : (w.modColl f).dev.aon = w.dev.aon := rfl
@[simp] theorem W.modColl_start (w : W) (f : Coll → Coll) : (w.modColl f).dev.start = w.dev.start := rfl
@[simp] theorem W.modColl_log (w : W) (f : Coll → Coll) : (w.modColl f).dev.log = w.dev.log := rfl
@[simp] theorem W.modColl_temps (w : W) (f : Coll → Coll) : (w.modColl f).dev.temps = w.dev.temps := rfl
@[simp] theorem W.modColl_stage (w : W) (f : Coll → Coll) : (w.modColl f).dev.stage = w.dev.stage := rfl
@[simp] theorem W.modColl_mem (w : W) (f : Coll → Coll) : (w.modColl f).mem = w.mem := rfl
@[simp] theorem W.modColl_ws (w : W) (f : Coll → Coll) : (w.modColl f).ws = w.ws := rfl
@[simp] theorem W.modColl_op (w : W) (f : Coll → Coll) : (w.modColl f).op = w.op := rfl
@[simp] theorem W.modColl_die (w : W) (f : Coll → Coll) : (w.modColl f).die = w.die := rfl
@[simp] theorem W.modColl_was (w : W) (f : Coll → Coll) : (w.modColl f).was = w.was := rfl
@[simp] theorem W.modColl_skip (w : W) (f : Coll → Coll) : (w.modColl f).skip = w.skip := rfl
@[simp] theorem W.modColl_inst (w : W) (f : Coll → Coll) : (w.modColl f).inst = w.inst := rfl
@[simp] theorem W.modColl_rep (w : W) (f : Coll → Coll) : (w.modColl f).rep = w.rep := rfl
@[simp] theorem W.modColl_ecc (w : W) (f : Coll → Coll) : (w.modColl f).ecc = w.ecc := rfl

@[simp] theorem W.modPwr_now (w : W) (f : Pwr → Pwr) : (w.modPwr f).dev.now = w.dev.now := rfl
@[simp] theorem W.modPwr_free (w : W) (f : Pwr → Pwr) : (w.modPwr f).dev.free = w.dev.free := rfl
@[simp] theorem W.modPwr_outs (w : W) (f : Pwr → Pwr) : (w.modPwr f).dev.outs = w.dev.outs := rfl
@[simp] theorem W.modPwr_hub (w : W) (f : Pwr → Pwr) : (w.modPwr f).dev.hub = w.dev.hub := rfl
@[simp] theorem W.modPwr_cmp (w : W) (f : Pwr → Pwr) : (w.modPwr f).dev.cmp = w.dev.cmp := rfl
@[simp] theorem W.modPwr_pci (w : W) (f : Pwr → Pwr) : (w.modPwr f).dev.pci = w.dev.pci := rfl
@[simp] theorem W.modPwr_dma (w : W) (f : Pwr → Pwr) : (w.modPwr f).dev.dma = w.dev.dma := rfl
@[simp] theorem W.modPwr_con (w : W) (f : Pwr → Pwr) : (w.modPwr f).dev.con = w.dev.con := rfl
@[simp] theorem W.modPwr_ports (w : W) (f : Pwr → Pwr) : (w.modPwr f).dev.ports = w.dev.ports := rfl
@[simp] theorem W.modPwr_reprobe (w : W) (f : Pwr → Pwr) : (w.modPwr f).dev.reprobe = w.dev.reprobe := rfl
@[simp] theorem W.modPwr_fab (w : W) (f : Pwr → Pwr) : (w.modPwr f).dev.fab = w.dev.fab := rfl
@[simp] theorem W.modPwr_coll (w : W) (f : Pwr → Pwr) : (w.modPwr f).dev.coll = w.dev.coll := rfl
@[simp] theorem W.modPwr_pwr (w : W) (f : Pwr → Pwr) : (w.modPwr f).dev.pwr = f w.dev.pwr := rfl
@[simp] theorem W.modPwr_sup (w : W) (f : Pwr → Pwr) : (w.modPwr f).dev.sup = w.dev.sup := rfl
@[simp] theorem W.modPwr_aon (w : W) (f : Pwr → Pwr) : (w.modPwr f).dev.aon = w.dev.aon := rfl
@[simp] theorem W.modPwr_start (w : W) (f : Pwr → Pwr) : (w.modPwr f).dev.start = w.dev.start := rfl
@[simp] theorem W.modPwr_log (w : W) (f : Pwr → Pwr) : (w.modPwr f).dev.log = w.dev.log := rfl
@[simp] theorem W.modPwr_temps (w : W) (f : Pwr → Pwr) : (w.modPwr f).dev.temps = w.dev.temps := rfl
@[simp] theorem W.modPwr_stage (w : W) (f : Pwr → Pwr) : (w.modPwr f).dev.stage = w.dev.stage := rfl
@[simp] theorem W.modPwr_mem (w : W) (f : Pwr → Pwr) : (w.modPwr f).mem = w.mem := rfl
@[simp] theorem W.modPwr_ws (w : W) (f : Pwr → Pwr) : (w.modPwr f).ws = w.ws := rfl
@[simp] theorem W.modPwr_op (w : W) (f : Pwr → Pwr) : (w.modPwr f).op = w.op := rfl
@[simp] theorem W.modPwr_die (w : W) (f : Pwr → Pwr) : (w.modPwr f).die = w.die := rfl
@[simp] theorem W.modPwr_was (w : W) (f : Pwr → Pwr) : (w.modPwr f).was = w.was := rfl
@[simp] theorem W.modPwr_skip (w : W) (f : Pwr → Pwr) : (w.modPwr f).skip = w.skip := rfl
@[simp] theorem W.modPwr_inst (w : W) (f : Pwr → Pwr) : (w.modPwr f).inst = w.inst := rfl
@[simp] theorem W.modPwr_rep (w : W) (f : Pwr → Pwr) : (w.modPwr f).rep = w.rep := rfl
@[simp] theorem W.modPwr_ecc (w : W) (f : Pwr → Pwr) : (w.modPwr f).ecc = w.ecc := rfl

@[simp] theorem W.modSup_now (w : W) (f : Sup → Sup) : (w.modSup f).dev.now = w.dev.now := rfl
@[simp] theorem W.modSup_free (w : W) (f : Sup → Sup) : (w.modSup f).dev.free = w.dev.free := rfl
@[simp] theorem W.modSup_outs (w : W) (f : Sup → Sup) : (w.modSup f).dev.outs = w.dev.outs := rfl
@[simp] theorem W.modSup_hub (w : W) (f : Sup → Sup) : (w.modSup f).dev.hub = w.dev.hub := rfl
@[simp] theorem W.modSup_cmp (w : W) (f : Sup → Sup) : (w.modSup f).dev.cmp = w.dev.cmp := rfl
@[simp] theorem W.modSup_pci (w : W) (f : Sup → Sup) : (w.modSup f).dev.pci = w.dev.pci := rfl
@[simp] theorem W.modSup_dma (w : W) (f : Sup → Sup) : (w.modSup f).dev.dma = w.dev.dma := rfl
@[simp] theorem W.modSup_con (w : W) (f : Sup → Sup) : (w.modSup f).dev.con = w.dev.con := rfl
@[simp] theorem W.modSup_ports (w : W) (f : Sup → Sup) : (w.modSup f).dev.ports = w.dev.ports := rfl
@[simp] theorem W.modSup_reprobe (w : W) (f : Sup → Sup) : (w.modSup f).dev.reprobe = w.dev.reprobe := rfl
@[simp] theorem W.modSup_fab (w : W) (f : Sup → Sup) : (w.modSup f).dev.fab = w.dev.fab := rfl
@[simp] theorem W.modSup_coll (w : W) (f : Sup → Sup) : (w.modSup f).dev.coll = w.dev.coll := rfl
@[simp] theorem W.modSup_pwr (w : W) (f : Sup → Sup) : (w.modSup f).dev.pwr = w.dev.pwr := rfl
@[simp] theorem W.modSup_sup (w : W) (f : Sup → Sup) : (w.modSup f).dev.sup = f w.dev.sup := rfl
@[simp] theorem W.modSup_aon (w : W) (f : Sup → Sup) : (w.modSup f).dev.aon = w.dev.aon := rfl
@[simp] theorem W.modSup_start (w : W) (f : Sup → Sup) : (w.modSup f).dev.start = w.dev.start := rfl
@[simp] theorem W.modSup_log (w : W) (f : Sup → Sup) : (w.modSup f).dev.log = w.dev.log := rfl
@[simp] theorem W.modSup_temps (w : W) (f : Sup → Sup) : (w.modSup f).dev.temps = w.dev.temps := rfl
@[simp] theorem W.modSup_stage (w : W) (f : Sup → Sup) : (w.modSup f).dev.stage = w.dev.stage := rfl
@[simp] theorem W.modSup_mem (w : W) (f : Sup → Sup) : (w.modSup f).mem = w.mem := rfl
@[simp] theorem W.modSup_ws (w : W) (f : Sup → Sup) : (w.modSup f).ws = w.ws := rfl
@[simp] theorem W.modSup_op (w : W) (f : Sup → Sup) : (w.modSup f).op = w.op := rfl
@[simp] theorem W.modSup_die (w : W) (f : Sup → Sup) : (w.modSup f).die = w.die := rfl
@[simp] theorem W.modSup_was (w : W) (f : Sup → Sup) : (w.modSup f).was = w.was := rfl
@[simp] theorem W.modSup_skip (w : W) (f : Sup → Sup) : (w.modSup f).skip = w.skip := rfl
@[simp] theorem W.modSup_inst (w : W) (f : Sup → Sup) : (w.modSup f).inst = w.inst := rfl
@[simp] theorem W.modSup_rep (w : W) (f : Sup → Sup) : (w.modSup f).rep = w.rep := rfl
@[simp] theorem W.modSup_ecc (w : W) (f : Sup → Sup) : (w.modSup f).ecc = w.ecc := rfl

@[simp] theorem W.modAon_now (w : W) (f : Aon → Aon) : (w.modAon f).dev.now = w.dev.now := rfl
@[simp] theorem W.modAon_free (w : W) (f : Aon → Aon) : (w.modAon f).dev.free = w.dev.free := rfl
@[simp] theorem W.modAon_outs (w : W) (f : Aon → Aon) : (w.modAon f).dev.outs = w.dev.outs := rfl
@[simp] theorem W.modAon_hub (w : W) (f : Aon → Aon) : (w.modAon f).dev.hub = w.dev.hub := rfl
@[simp] theorem W.modAon_cmp (w : W) (f : Aon → Aon) : (w.modAon f).dev.cmp = w.dev.cmp := rfl
@[simp] theorem W.modAon_pci (w : W) (f : Aon → Aon) : (w.modAon f).dev.pci = w.dev.pci := rfl
@[simp] theorem W.modAon_dma (w : W) (f : Aon → Aon) : (w.modAon f).dev.dma = w.dev.dma := rfl
@[simp] theorem W.modAon_con (w : W) (f : Aon → Aon) : (w.modAon f).dev.con = w.dev.con := rfl
@[simp] theorem W.modAon_ports (w : W) (f : Aon → Aon) : (w.modAon f).dev.ports = w.dev.ports := rfl
@[simp] theorem W.modAon_reprobe (w : W) (f : Aon → Aon) : (w.modAon f).dev.reprobe = w.dev.reprobe := rfl
@[simp] theorem W.modAon_fab (w : W) (f : Aon → Aon) : (w.modAon f).dev.fab = w.dev.fab := rfl
@[simp] theorem W.modAon_coll (w : W) (f : Aon → Aon) : (w.modAon f).dev.coll = w.dev.coll := rfl
@[simp] theorem W.modAon_pwr (w : W) (f : Aon → Aon) : (w.modAon f).dev.pwr = w.dev.pwr := rfl
@[simp] theorem W.modAon_sup (w : W) (f : Aon → Aon) : (w.modAon f).dev.sup = w.dev.sup := rfl
@[simp] theorem W.modAon_aon (w : W) (f : Aon → Aon) : (w.modAon f).dev.aon = f w.dev.aon := rfl
@[simp] theorem W.modAon_start (w : W) (f : Aon → Aon) : (w.modAon f).dev.start = w.dev.start := rfl
@[simp] theorem W.modAon_log (w : W) (f : Aon → Aon) : (w.modAon f).dev.log = w.dev.log := rfl
@[simp] theorem W.modAon_temps (w : W) (f : Aon → Aon) : (w.modAon f).dev.temps = w.dev.temps := rfl
@[simp] theorem W.modAon_stage (w : W) (f : Aon → Aon) : (w.modAon f).dev.stage = w.dev.stage := rfl
@[simp] theorem W.modAon_mem (w : W) (f : Aon → Aon) : (w.modAon f).mem = w.mem := rfl
@[simp] theorem W.modAon_ws (w : W) (f : Aon → Aon) : (w.modAon f).ws = w.ws := rfl
@[simp] theorem W.modAon_op (w : W) (f : Aon → Aon) : (w.modAon f).op = w.op := rfl
@[simp] theorem W.modAon_die (w : W) (f : Aon → Aon) : (w.modAon f).die = w.die := rfl
@[simp] theorem W.modAon_was (w : W) (f : Aon → Aon) : (w.modAon f).was = w.was := rfl
@[simp] theorem W.modAon_skip (w : W) (f : Aon → Aon) : (w.modAon f).skip = w.skip := rfl
@[simp] theorem W.modAon_inst (w : W) (f : Aon → Aon) : (w.modAon f).inst = w.inst := rfl
@[simp] theorem W.modAon_rep (w : W) (f : Aon → Aon) : (w.modAon f).rep = w.rep := rfl
@[simp] theorem W.modAon_ecc (w : W) (f : Aon → Aon) : (w.modAon f).ecc = w.ecc := rfl

@[simp] theorem W.modStart_now (w : W) (f : Start → Start) : (w.modStart f).dev.now = w.dev.now := rfl
@[simp] theorem W.modStart_free (w : W) (f : Start → Start) : (w.modStart f).dev.free = w.dev.free := rfl
@[simp] theorem W.modStart_outs (w : W) (f : Start → Start) : (w.modStart f).dev.outs = w.dev.outs := rfl
@[simp] theorem W.modStart_hub (w : W) (f : Start → Start) : (w.modStart f).dev.hub = w.dev.hub := rfl
@[simp] theorem W.modStart_cmp (w : W) (f : Start → Start) : (w.modStart f).dev.cmp = w.dev.cmp := rfl
@[simp] theorem W.modStart_pci (w : W) (f : Start → Start) : (w.modStart f).dev.pci = w.dev.pci := rfl
@[simp] theorem W.modStart_dma (w : W) (f : Start → Start) : (w.modStart f).dev.dma = w.dev.dma := rfl
@[simp] theorem W.modStart_con (w : W) (f : Start → Start) : (w.modStart f).dev.con = w.dev.con := rfl
@[simp] theorem W.modStart_ports (w : W) (f : Start → Start) : (w.modStart f).dev.ports = w.dev.ports := rfl
@[simp] theorem W.modStart_reprobe (w : W) (f : Start → Start) : (w.modStart f).dev.reprobe = w.dev.reprobe := rfl
@[simp] theorem W.modStart_fab (w : W) (f : Start → Start) : (w.modStart f).dev.fab = w.dev.fab := rfl
@[simp] theorem W.modStart_coll (w : W) (f : Start → Start) : (w.modStart f).dev.coll = w.dev.coll := rfl
@[simp] theorem W.modStart_pwr (w : W) (f : Start → Start) : (w.modStart f).dev.pwr = w.dev.pwr := rfl
@[simp] theorem W.modStart_sup (w : W) (f : Start → Start) : (w.modStart f).dev.sup = w.dev.sup := rfl
@[simp] theorem W.modStart_aon (w : W) (f : Start → Start) : (w.modStart f).dev.aon = w.dev.aon := rfl
@[simp] theorem W.modStart_start (w : W) (f : Start → Start) : (w.modStart f).dev.start = f w.dev.start := rfl
@[simp] theorem W.modStart_log (w : W) (f : Start → Start) : (w.modStart f).dev.log = w.dev.log := rfl
@[simp] theorem W.modStart_temps (w : W) (f : Start → Start) : (w.modStart f).dev.temps = w.dev.temps := rfl
@[simp] theorem W.modStart_stage (w : W) (f : Start → Start) : (w.modStart f).dev.stage = w.dev.stage := rfl
@[simp] theorem W.modStart_mem (w : W) (f : Start → Start) : (w.modStart f).mem = w.mem := rfl
@[simp] theorem W.modStart_ws (w : W) (f : Start → Start) : (w.modStart f).ws = w.ws := rfl
@[simp] theorem W.modStart_op (w : W) (f : Start → Start) : (w.modStart f).op = w.op := rfl
@[simp] theorem W.modStart_die (w : W) (f : Start → Start) : (w.modStart f).die = w.die := rfl
@[simp] theorem W.modStart_was (w : W) (f : Start → Start) : (w.modStart f).was = w.was := rfl
@[simp] theorem W.modStart_skip (w : W) (f : Start → Start) : (w.modStart f).skip = w.skip := rfl
@[simp] theorem W.modStart_inst (w : W) (f : Start → Start) : (w.modStart f).inst = w.inst := rfl
@[simp] theorem W.modStart_rep (w : W) (f : Start → Start) : (w.modStart f).rep = w.rep := rfl
@[simp] theorem W.modStart_ecc (w : W) (f : Start → Start) : (w.modStart f).ecc = w.ecc := rfl

@[simp] theorem W.modLog_now (w : W) (f : Log → Log) : (w.modLog f).dev.now = w.dev.now := rfl
@[simp] theorem W.modLog_free (w : W) (f : Log → Log) : (w.modLog f).dev.free = w.dev.free := rfl
@[simp] theorem W.modLog_outs (w : W) (f : Log → Log) : (w.modLog f).dev.outs = w.dev.outs := rfl
@[simp] theorem W.modLog_hub (w : W) (f : Log → Log) : (w.modLog f).dev.hub = w.dev.hub := rfl
@[simp] theorem W.modLog_cmp (w : W) (f : Log → Log) : (w.modLog f).dev.cmp = w.dev.cmp := rfl
@[simp] theorem W.modLog_pci (w : W) (f : Log → Log) : (w.modLog f).dev.pci = w.dev.pci := rfl
@[simp] theorem W.modLog_dma (w : W) (f : Log → Log) : (w.modLog f).dev.dma = w.dev.dma := rfl
@[simp] theorem W.modLog_con (w : W) (f : Log → Log) : (w.modLog f).dev.con = w.dev.con := rfl
@[simp] theorem W.modLog_ports (w : W) (f : Log → Log) : (w.modLog f).dev.ports = w.dev.ports := rfl
@[simp] theorem W.modLog_reprobe (w : W) (f : Log → Log) : (w.modLog f).dev.reprobe = w.dev.reprobe := rfl
@[simp] theorem W.modLog_fab (w : W) (f : Log → Log) : (w.modLog f).dev.fab = w.dev.fab := rfl
@[simp] theorem W.modLog_coll (w : W) (f : Log → Log) : (w.modLog f).dev.coll = w.dev.coll := rfl
@[simp] theorem W.modLog_pwr (w : W) (f : Log → Log) : (w.modLog f).dev.pwr = w.dev.pwr := rfl
@[simp] theorem W.modLog_sup (w : W) (f : Log → Log) : (w.modLog f).dev.sup = w.dev.sup := rfl
@[simp] theorem W.modLog_aon (w : W) (f : Log → Log) : (w.modLog f).dev.aon = w.dev.aon := rfl
@[simp] theorem W.modLog_start (w : W) (f : Log → Log) : (w.modLog f).dev.start = w.dev.start := rfl
@[simp] theorem W.modLog_log (w : W) (f : Log → Log) : (w.modLog f).dev.log = f w.dev.log := rfl
@[simp] theorem W.modLog_temps (w : W) (f : Log → Log) : (w.modLog f).dev.temps = w.dev.temps := rfl
@[simp] theorem W.modLog_stage (w : W) (f : Log → Log) : (w.modLog f).dev.stage = w.dev.stage := rfl
@[simp] theorem W.modLog_mem (w : W) (f : Log → Log) : (w.modLog f).mem = w.mem := rfl
@[simp] theorem W.modLog_ws (w : W) (f : Log → Log) : (w.modLog f).ws = w.ws := rfl
@[simp] theorem W.modLog_op (w : W) (f : Log → Log) : (w.modLog f).op = w.op := rfl
@[simp] theorem W.modLog_die (w : W) (f : Log → Log) : (w.modLog f).die = w.die := rfl
@[simp] theorem W.modLog_was (w : W) (f : Log → Log) : (w.modLog f).was = w.was := rfl
@[simp] theorem W.modLog_skip (w : W) (f : Log → Log) : (w.modLog f).skip = w.skip := rfl
@[simp] theorem W.modLog_inst (w : W) (f : Log → Log) : (w.modLog f).inst = w.inst := rfl
@[simp] theorem W.modLog_rep (w : W) (f : Log → Log) : (w.modLog f).rep = w.rep := rfl
@[simp] theorem W.modLog_ecc (w : W) (f : Log → Log) : (w.modLog f).ecc = w.ecc := rfl

@[simp] theorem W.modTemps_now (w : W) (f : Temps → Temps) : (w.modTemps f).dev.now = w.dev.now := rfl
@[simp] theorem W.modTemps_free (w : W) (f : Temps → Temps) : (w.modTemps f).dev.free = w.dev.free := rfl
@[simp] theorem W.modTemps_outs (w : W) (f : Temps → Temps) : (w.modTemps f).dev.outs = w.dev.outs := rfl
@[simp] theorem W.modTemps_hub (w : W) (f : Temps → Temps) : (w.modTemps f).dev.hub = w.dev.hub := rfl
@[simp] theorem W.modTemps_cmp (w : W) (f : Temps → Temps) : (w.modTemps f).dev.cmp = w.dev.cmp := rfl
@[simp] theorem W.modTemps_pci (w : W) (f : Temps → Temps) : (w.modTemps f).dev.pci = w.dev.pci := rfl
@[simp] theorem W.modTemps_dma (w : W) (f : Temps → Temps) : (w.modTemps f).dev.dma = w.dev.dma := rfl
@[simp] theorem W.modTemps_con (w : W) (f : Temps → Temps) : (w.modTemps f).dev.con = w.dev.con := rfl
@[simp] theorem W.modTemps_ports (w : W) (f : Temps → Temps) : (w.modTemps f).dev.ports = w.dev.ports := rfl
@[simp] theorem W.modTemps_reprobe (w : W) (f : Temps → Temps) : (w.modTemps f).dev.reprobe = w.dev.reprobe := rfl
@[simp] theorem W.modTemps_fab (w : W) (f : Temps → Temps) : (w.modTemps f).dev.fab = w.dev.fab := rfl
@[simp] theorem W.modTemps_coll (w : W) (f : Temps → Temps) : (w.modTemps f).dev.coll = w.dev.coll := rfl
@[simp] theorem W.modTemps_pwr (w : W) (f : Temps → Temps) : (w.modTemps f).dev.pwr = w.dev.pwr := rfl
@[simp] theorem W.modTemps_sup (w : W) (f : Temps → Temps) : (w.modTemps f).dev.sup = w.dev.sup := rfl
@[simp] theorem W.modTemps_aon (w : W) (f : Temps → Temps) : (w.modTemps f).dev.aon = w.dev.aon := rfl
@[simp] theorem W.modTemps_start (w : W) (f : Temps → Temps) : (w.modTemps f).dev.start = w.dev.start := rfl
@[simp] theorem W.modTemps_log (w : W) (f : Temps → Temps) : (w.modTemps f).dev.log = w.dev.log := rfl
@[simp] theorem W.modTemps_temps (w : W) (f : Temps → Temps) : (w.modTemps f).dev.temps = f w.dev.temps := rfl
@[simp] theorem W.modTemps_stage (w : W) (f : Temps → Temps) : (w.modTemps f).dev.stage = w.dev.stage := rfl
@[simp] theorem W.modTemps_mem (w : W) (f : Temps → Temps) : (w.modTemps f).mem = w.mem := rfl
@[simp] theorem W.modTemps_ws (w : W) (f : Temps → Temps) : (w.modTemps f).ws = w.ws := rfl
@[simp] theorem W.modTemps_op (w : W) (f : Temps → Temps) : (w.modTemps f).op = w.op := rfl
@[simp] theorem W.modTemps_die (w : W) (f : Temps → Temps) : (w.modTemps f).die = w.die := rfl
@[simp] theorem W.modTemps_was (w : W) (f : Temps → Temps) : (w.modTemps f).was = w.was := rfl
@[simp] theorem W.modTemps_skip (w : W) (f : Temps → Temps) : (w.modTemps f).skip = w.skip := rfl
@[simp] theorem W.modTemps_inst (w : W) (f : Temps → Temps) : (w.modTemps f).inst = w.inst := rfl
@[simp] theorem W.modTemps_rep (w : W) (f : Temps → Temps) : (w.modTemps f).rep = w.rep := rfl
@[simp] theorem W.modTemps_ecc (w : W) (f : Temps → Temps) : (w.modTemps f).ecc = w.ecc := rfl

@[simp] theorem W.modStage_now (w : W) (f : Stage → Stage) : (w.modStage f).dev.now = w.dev.now := rfl
@[simp] theorem W.modStage_free (w : W) (f : Stage → Stage) : (w.modStage f).dev.free = w.dev.free := rfl
@[simp] theorem W.modStage_outs (w : W) (f : Stage → Stage) : (w.modStage f).dev.outs = w.dev.outs := rfl
@[simp] theorem W.modStage_hub (w : W) (f : Stage → Stage) : (w.modStage f).dev.hub = w.dev.hub := rfl
@[simp] theorem W.modStage_cmp (w : W) (f : Stage → Stage) : (w.modStage f).dev.cmp = w.dev.cmp := rfl
@[simp] theorem W.modStage_pci (w : W) (f : Stage → Stage) : (w.modStage f).dev.pci = w.dev.pci := rfl
@[simp] theorem W.modStage_dma (w : W) (f : Stage → Stage) : (w.modStage f).dev.dma = w.dev.dma := rfl
@[simp] theorem W.modStage_con (w : W) (f : Stage → Stage) : (w.modStage f).dev.con = w.dev.con := rfl
@[simp] theorem W.modStage_ports (w : W) (f : Stage → Stage) : (w.modStage f).dev.ports = w.dev.ports := rfl
@[simp] theorem W.modStage_reprobe (w : W) (f : Stage → Stage) : (w.modStage f).dev.reprobe = w.dev.reprobe := rfl
@[simp] theorem W.modStage_fab (w : W) (f : Stage → Stage) : (w.modStage f).dev.fab = w.dev.fab := rfl
@[simp] theorem W.modStage_coll (w : W) (f : Stage → Stage) : (w.modStage f).dev.coll = w.dev.coll := rfl
@[simp] theorem W.modStage_pwr (w : W) (f : Stage → Stage) : (w.modStage f).dev.pwr = w.dev.pwr := rfl
@[simp] theorem W.modStage_sup (w : W) (f : Stage → Stage) : (w.modStage f).dev.sup = w.dev.sup := rfl
@[simp] theorem W.modStage_aon (w : W) (f : Stage → Stage) : (w.modStage f).dev.aon = w.dev.aon := rfl
@[simp] theorem W.modStage_start (w : W) (f : Stage → Stage) : (w.modStage f).dev.start = w.dev.start := rfl
@[simp] theorem W.modStage_log (w : W) (f : Stage → Stage) : (w.modStage f).dev.log = w.dev.log := rfl
@[simp] theorem W.modStage_temps (w : W) (f : Stage → Stage) : (w.modStage f).dev.temps = w.dev.temps := rfl
@[simp] theorem W.modStage_stage (w : W) (f : Stage → Stage) : (w.modStage f).dev.stage = f w.dev.stage := rfl
@[simp] theorem W.modStage_mem (w : W) (f : Stage → Stage) : (w.modStage f).mem = w.mem := rfl
@[simp] theorem W.modStage_ws (w : W) (f : Stage → Stage) : (w.modStage f).ws = w.ws := rfl
@[simp] theorem W.modStage_op (w : W) (f : Stage → Stage) : (w.modStage f).op = w.op := rfl
@[simp] theorem W.modStage_die (w : W) (f : Stage → Stage) : (w.modStage f).die = w.die := rfl
@[simp] theorem W.modStage_was (w : W) (f : Stage → Stage) : (w.modStage f).was = w.was := rfl
@[simp] theorem W.modStage_skip (w : W) (f : Stage → Stage) : (w.modStage f).skip = w.skip := rfl
@[simp] theorem W.modStage_inst (w : W) (f : Stage → Stage) : (w.modStage f).inst = w.inst := rfl
@[simp] theorem W.modStage_rep (w : W) (f : Stage → Stage) : (w.modStage f).rep = w.rep := rfl
@[simp] theorem W.modStage_ecc (w : W) (f : Stage → Stage) : (w.modStage f).ecc = w.ecc := rfl

@[simp] theorem W.out_now (w : W) (x : Out) : (w.out x).dev.now = w.dev.now := rfl
@[simp] theorem W.out_free (w : W) (x : Out) : (w.out x).dev.free = w.dev.free := rfl
@[simp] theorem W.out_outs (w : W) (x : Out) : (w.out x).dev.outs = x :: w.dev.outs := rfl
@[simp] theorem W.out_hub (w : W) (x : Out) : (w.out x).dev.hub = w.dev.hub := rfl
@[simp] theorem W.out_cmp (w : W) (x : Out) : (w.out x).dev.cmp = w.dev.cmp := rfl
@[simp] theorem W.out_pci (w : W) (x : Out) : (w.out x).dev.pci = w.dev.pci := rfl
@[simp] theorem W.out_dma (w : W) (x : Out) : (w.out x).dev.dma = w.dev.dma := rfl
@[simp] theorem W.out_con (w : W) (x : Out) : (w.out x).dev.con = w.dev.con := rfl
@[simp] theorem W.out_ports (w : W) (x : Out) : (w.out x).dev.ports = w.dev.ports := rfl
@[simp] theorem W.out_reprobe (w : W) (x : Out) : (w.out x).dev.reprobe = w.dev.reprobe := rfl
@[simp] theorem W.out_fab (w : W) (x : Out) : (w.out x).dev.fab = w.dev.fab := rfl
@[simp] theorem W.out_coll (w : W) (x : Out) : (w.out x).dev.coll = w.dev.coll := rfl
@[simp] theorem W.out_pwr (w : W) (x : Out) : (w.out x).dev.pwr = w.dev.pwr := rfl
@[simp] theorem W.out_sup (w : W) (x : Out) : (w.out x).dev.sup = w.dev.sup := rfl
@[simp] theorem W.out_aon (w : W) (x : Out) : (w.out x).dev.aon = w.dev.aon := rfl
@[simp] theorem W.out_start (w : W) (x : Out) : (w.out x).dev.start = w.dev.start := rfl
@[simp] theorem W.out_log (w : W) (x : Out) : (w.out x).dev.log = w.dev.log := rfl
@[simp] theorem W.out_temps (w : W) (x : Out) : (w.out x).dev.temps = w.dev.temps := rfl
@[simp] theorem W.out_stage (w : W) (x : Out) : (w.out x).dev.stage = w.dev.stage := rfl
@[simp] theorem W.out_mem (w : W) (x : Out) : (w.out x).mem = w.mem := rfl
@[simp] theorem W.out_ws (w : W) (x : Out) : (w.out x).ws = w.ws := rfl
@[simp] theorem W.out_op (w : W) (x : Out) : (w.out x).op = w.op := rfl
@[simp] theorem W.out_die (w : W) (x : Out) : (w.out x).die = w.die := rfl
@[simp] theorem W.out_was (w : W) (x : Out) : (w.out x).was = w.was := rfl
@[simp] theorem W.out_skip (w : W) (x : Out) : (w.out x).skip = w.skip := rfl
@[simp] theorem W.out_inst (w : W) (x : Out) : (w.out x).inst = w.inst := rfl
@[simp] theorem W.out_rep (w : W) (x : Out) : (w.out x).rep = w.rep := rfl
@[simp] theorem W.out_ecc (w : W) (x : Out) : (w.out x).ecc = w.ecc := rfl

@[simp] theorem W.draw_now (w : W) : (w.draw).2.dev.now = w.dev.now := rfl
@[simp] theorem W.draw_free (w : W) : (w.draw).2.dev.free = w.dev.free + 1 := rfl
@[simp] theorem W.draw_outs (w : W) : (w.draw).2.dev.outs = w.dev.outs := rfl
@[simp] theorem W.draw_hub (w : W) : (w.draw).2.dev.hub = w.dev.hub := rfl
@[simp] theorem W.draw_cmp (w : W) : (w.draw).2.dev.cmp = w.dev.cmp := rfl
@[simp] theorem W.draw_pci (w : W) : (w.draw).2.dev.pci = w.dev.pci := rfl
@[simp] theorem W.draw_dma (w : W) : (w.draw).2.dev.dma = w.dev.dma := rfl
@[simp] theorem W.draw_con (w : W) : (w.draw).2.dev.con = w.dev.con := rfl
@[simp] theorem W.draw_ports (w : W) : (w.draw).2.dev.ports = w.dev.ports := rfl
@[simp] theorem W.draw_reprobe (w : W) : (w.draw).2.dev.reprobe = w.dev.reprobe := rfl
@[simp] theorem W.draw_fab (w : W) : (w.draw).2.dev.fab = w.dev.fab := rfl
@[simp] theorem W.draw_coll (w : W) : (w.draw).2.dev.coll = w.dev.coll := rfl
@[simp] theorem W.draw_pwr (w : W) : (w.draw).2.dev.pwr = w.dev.pwr := rfl
@[simp] theorem W.draw_sup (w : W) : (w.draw).2.dev.sup = w.dev.sup := rfl
@[simp] theorem W.draw_aon (w : W) : (w.draw).2.dev.aon = w.dev.aon := rfl
@[simp] theorem W.draw_start (w : W) : (w.draw).2.dev.start = w.dev.start := rfl
@[simp] theorem W.draw_log (w : W) : (w.draw).2.dev.log = w.dev.log := rfl
@[simp] theorem W.draw_temps (w : W) : (w.draw).2.dev.temps = w.dev.temps := rfl
@[simp] theorem W.draw_stage (w : W) : (w.draw).2.dev.stage = w.dev.stage := rfl
@[simp] theorem W.draw_mem (w : W) : (w.draw).2.mem = w.mem := rfl
@[simp] theorem W.draw_ws (w : W) : (w.draw).2.ws = w.ws := rfl
@[simp] theorem W.draw_op (w : W) : (w.draw).2.op = w.op := rfl
@[simp] theorem W.draw_die (w : W) : (w.draw).2.die = w.die := rfl
@[simp] theorem W.draw_was (w : W) : (w.draw).2.was = w.was := rfl
@[simp] theorem W.draw_skip (w : W) : (w.draw).2.skip = w.skip := rfl
@[simp] theorem W.draw_inst (w : W) : (w.draw).2.inst = w.inst := rfl
@[simp] theorem W.draw_rep (w : W) : (w.draw).2.rep = w.rep := rfl
@[simp] theorem W.draw_ecc (w : W) : (w.draw).2.ecc = w.ecc := rfl

@[simp] theorem W.drawBool_now (w : W) : (w.drawBool).2.dev.now = w.dev.now := rfl
@[simp] theorem W.drawBool_free (w : W) : (w.drawBool).2.dev.free = w.dev.free + 1 := rfl
@[simp] theorem W.drawBool_outs (w : W) : (w.drawBool).2.dev.outs = w.dev.outs := rfl
@[simp] theorem W.drawBool_hub (w : W) : (w.drawBool).2.dev.hub = w.dev.hub := rfl
@[simp] theorem W.drawBool_cmp (w : W) : (w.drawBool).2.dev.cmp = w.dev.cmp := rfl
@[simp] theorem W.drawBool_pci (w : W) : (w.drawBool).2.dev.pci = w.dev.pci := rfl
@[simp] theorem W.drawBool_dma (w : W) : (w.drawBool).2.dev.dma = w.dev.dma := rfl
@[simp] theorem W.drawBool_con (w : W) : (w.drawBool).2.dev.con = w.dev.con := rfl
@[simp] theorem W.drawBool_ports (w : W) : (w.drawBool).2.dev.ports = w.dev.ports := rfl
@[simp] theorem W.drawBool_reprobe (w : W) : (w.drawBool).2.dev.reprobe = w.dev.reprobe := rfl
@[simp] theorem W.drawBool_fab (w : W) : (w.drawBool).2.dev.fab = w.dev.fab := rfl
@[simp] theorem W.drawBool_coll (w : W) : (w.drawBool).2.dev.coll = w.dev.coll := rfl
@[simp] theorem W.drawBool_pwr (w : W) : (w.drawBool).2.dev.pwr = w.dev.pwr := rfl
@[simp] theorem W.drawBool_sup (w : W) : (w.drawBool).2.dev.sup = w.dev.sup := rfl
@[simp] theorem W.drawBool_aon (w : W) : (w.drawBool).2.dev.aon = w.dev.aon := rfl
@[simp] theorem W.drawBool_start (w : W) : (w.drawBool).2.dev.start = w.dev.start := rfl
@[simp] theorem W.drawBool_log (w : W) : (w.drawBool).2.dev.log = w.dev.log := rfl
@[simp] theorem W.drawBool_temps (w : W) : (w.drawBool).2.dev.temps = w.dev.temps := rfl
@[simp] theorem W.drawBool_stage (w : W) : (w.drawBool).2.dev.stage = w.dev.stage := rfl
@[simp] theorem W.drawBool_mem (w : W) : (w.drawBool).2.mem = w.mem := rfl
@[simp] theorem W.drawBool_ws (w : W) : (w.drawBool).2.ws = w.ws := rfl
@[simp] theorem W.drawBool_op (w : W) : (w.drawBool).2.op = w.op := rfl
@[simp] theorem W.drawBool_die (w : W) : (w.drawBool).2.die = w.die := rfl
@[simp] theorem W.drawBool_was (w : W) : (w.drawBool).2.was = w.was := rfl
@[simp] theorem W.drawBool_skip (w : W) : (w.drawBool).2.skip = w.skip := rfl
@[simp] theorem W.drawBool_inst (w : W) : (w.drawBool).2.inst = w.inst := rfl
@[simp] theorem W.drawBool_rep (w : W) : (w.drawBool).2.rep = w.rep := rfl
@[simp] theorem W.drawBool_ecc (w : W) : (w.drawBool).2.ecc = w.ecc := rfl

@[simp] theorem W.drawBytes_now (w : W) (n : Nat) : (w.drawBytes n).2.dev.now = w.dev.now := rfl
@[simp] theorem W.drawBytes_free (w : W) (n : Nat) : (w.drawBytes n).2.dev.free = w.dev.free + n := rfl
@[simp] theorem W.drawBytes_outs (w : W) (n : Nat) : (w.drawBytes n).2.dev.outs = w.dev.outs := rfl
@[simp] theorem W.drawBytes_hub (w : W) (n : Nat) : (w.drawBytes n).2.dev.hub = w.dev.hub := rfl
@[simp] theorem W.drawBytes_cmp (w : W) (n : Nat) : (w.drawBytes n).2.dev.cmp = w.dev.cmp := rfl
@[simp] theorem W.drawBytes_pci (w : W) (n : Nat) : (w.drawBytes n).2.dev.pci = w.dev.pci := rfl
@[simp] theorem W.drawBytes_dma (w : W) (n : Nat) : (w.drawBytes n).2.dev.dma = w.dev.dma := rfl
@[simp] theorem W.drawBytes_con (w : W) (n : Nat) : (w.drawBytes n).2.dev.con = w.dev.con := rfl
@[simp] theorem W.drawBytes_ports (w : W) (n : Nat) : (w.drawBytes n).2.dev.ports = w.dev.ports := rfl
@[simp] theorem W.drawBytes_reprobe (w : W) (n : Nat) : (w.drawBytes n).2.dev.reprobe = w.dev.reprobe := rfl
@[simp] theorem W.drawBytes_fab (w : W) (n : Nat) : (w.drawBytes n).2.dev.fab = w.dev.fab := rfl
@[simp] theorem W.drawBytes_coll (w : W) (n : Nat) : (w.drawBytes n).2.dev.coll = w.dev.coll := rfl
@[simp] theorem W.drawBytes_pwr (w : W) (n : Nat) : (w.drawBytes n).2.dev.pwr = w.dev.pwr := rfl
@[simp] theorem W.drawBytes_sup (w : W) (n : Nat) : (w.drawBytes n).2.dev.sup = w.dev.sup := rfl
@[simp] theorem W.drawBytes_aon (w : W) (n : Nat) : (w.drawBytes n).2.dev.aon = w.dev.aon := rfl
@[simp] theorem W.drawBytes_start (w : W) (n : Nat) : (w.drawBytes n).2.dev.start = w.dev.start := rfl
@[simp] theorem W.drawBytes_log (w : W) (n : Nat) : (w.drawBytes n).2.dev.log = w.dev.log := rfl
@[simp] theorem W.drawBytes_temps (w : W) (n : Nat) : (w.drawBytes n).2.dev.temps = w.dev.temps := rfl
@[simp] theorem W.drawBytes_stage (w : W) (n : Nat) : (w.drawBytes n).2.dev.stage = w.dev.stage := rfl
@[simp] theorem W.drawBytes_mem (w : W) (n : Nat) : (w.drawBytes n).2.mem = w.mem := rfl
@[simp] theorem W.drawBytes_ws (w : W) (n : Nat) : (w.drawBytes n).2.ws = w.ws := rfl
@[simp] theorem W.drawBytes_op (w : W) (n : Nat) : (w.drawBytes n).2.op = w.op := rfl
@[simp] theorem W.drawBytes_die (w : W) (n : Nat) : (w.drawBytes n).2.die = w.die := rfl
@[simp] theorem W.drawBytes_was (w : W) (n : Nat) : (w.drawBytes n).2.was = w.was := rfl
@[simp] theorem W.drawBytes_skip (w : W) (n : Nat) : (w.drawBytes n).2.skip = w.skip := rfl
@[simp] theorem W.drawBytes_inst (w : W) (n : Nat) : (w.drawBytes n).2.inst = w.inst := rfl
@[simp] theorem W.drawBytes_rep (w : W) (n : Nat) : (w.drawBytes n).2.rep = w.rep := rfl
@[simp] theorem W.drawBytes_ecc (w : W) (n : Nat) : (w.drawBytes n).2.ecc = w.ecc := rfl

@[simp] theorem W.drawRandom_now (w : W) (n : Nat) : (w.drawRandom n).2.dev.now = w.dev.now := rfl
@[simp] theorem W.drawRandom_free (w : W) (n : Nat) : (w.drawRandom n).2.dev.free = w.dev.free + n := rfl
@[simp] theorem W.drawRandom_outs (w : W) (n : Nat) : (w.drawRandom n).2.dev.outs = w.dev.outs := rfl
@[simp] theorem W.drawRandom_hub (w : W) (n : Nat) : (w.drawRandom n).2.dev.hub = w.dev.hub := rfl
@[simp] theorem W.drawRandom_cmp (w : W) (n : Nat) : (w.drawRandom n).2.dev.cmp = w.dev.cmp := rfl
@[simp] theorem W.drawRandom_pci (w : W) (n : Nat) : (w.drawRandom n).2.dev.pci = w.dev.pci := rfl
@[simp] theorem W.drawRandom_dma (w : W) (n : Nat) : (w.drawRandom n).2.dev.dma = w.dev.dma := rfl
@[simp] theorem W.drawRandom_con (w : W) (n : Nat) : (w.drawRandom n).2.dev.con = w.dev.con := rfl
@[simp] theorem W.drawRandom_ports (w : W) (n : Nat) : (w.drawRandom n).2.dev.ports = w.dev.ports := rfl
@[simp] theorem W.drawRandom_reprobe (w : W) (n : Nat) : (w.drawRandom n).2.dev.reprobe = w.dev.reprobe := rfl
@[simp] theorem W.drawRandom_fab (w : W) (n : Nat) : (w.drawRandom n).2.dev.fab = w.dev.fab := rfl
@[simp] theorem W.drawRandom_coll (w : W) (n : Nat) : (w.drawRandom n).2.dev.coll = w.dev.coll := rfl
@[simp] theorem W.drawRandom_pwr (w : W) (n : Nat) : (w.drawRandom n).2.dev.pwr = w.dev.pwr := rfl
@[simp] theorem W.drawRandom_sup (w : W) (n : Nat) : (w.drawRandom n).2.dev.sup = w.dev.sup := rfl
@[simp] theorem W.drawRandom_aon (w : W) (n : Nat) : (w.drawRandom n).2.dev.aon = w.dev.aon := rfl
@[simp] theorem W.drawRandom_start (w : W) (n : Nat) : (w.drawRandom n).2.dev.start = w.dev.start := rfl
@[simp] theorem W.drawRandom_log (w : W) (n : Nat) : (w.drawRandom n).2.dev.log = w.dev.log := rfl
@[simp] theorem W.drawRandom_temps (w : W) (n : Nat) : (w.drawRandom n).2.dev.temps = w.dev.temps := rfl
@[simp] theorem W.drawRandom_stage (w : W) (n : Nat) : (w.drawRandom n).2.dev.stage = w.dev.stage := rfl
@[simp] theorem W.drawRandom_mem (w : W) (n : Nat) : (w.drawRandom n).2.mem = w.mem := rfl
@[simp] theorem W.drawRandom_ws (w : W) (n : Nat) : (w.drawRandom n).2.ws = w.ws := rfl
@[simp] theorem W.drawRandom_op (w : W) (n : Nat) : (w.drawRandom n).2.op = w.op := rfl
@[simp] theorem W.drawRandom_die (w : W) (n : Nat) : (w.drawRandom n).2.die = w.die := rfl
@[simp] theorem W.drawRandom_was (w : W) (n : Nat) : (w.drawRandom n).2.was = w.was := rfl
@[simp] theorem W.drawRandom_skip (w : W) (n : Nat) : (w.drawRandom n).2.skip = w.skip := rfl
@[simp] theorem W.drawRandom_inst (w : W) (n : Nat) : (w.drawRandom n).2.inst = w.inst := rfl
@[simp] theorem W.drawRandom_rep (w : W) (n : Nat) : (w.drawRandom n).2.rep = w.rep := rfl
@[simp] theorem W.drawRandom_ecc (w : W) (n : Nat) : (w.drawRandom n).2.ecc = w.ecc := rfl

@[simp] theorem W.put_dev (w : W) (x : MemWrite) : (w.put x).dev = w.dev := rfl
@[simp] theorem W.put_mem (w : W) (x : MemWrite) : (w.put x).mem = w.mem.apply1 x := rfl
@[simp] theorem W.put_ws (w : W) (x : MemWrite) : (w.put x).ws = x :: w.ws := rfl
@[simp] theorem W.put_was (w : W) (x : MemWrite) : (w.put x).was = w.was := rfl
@[simp] theorem W.put_skip (w : W) (x : MemWrite) : (w.put x).skip = w.skip := rfl
@[simp] theorem W.put_inst (w : W) (x : MemWrite) : (w.put x).inst = w.inst := rfl
@[simp] theorem W.put_rep (w : W) (x : MemWrite) : (w.put x).rep = w.rep := rfl
@[simp] theorem W.put_ecc (w : W) (x : MemWrite) : (w.put x).ecc = w.ecc := rfl
@[simp] theorem W.store_dev (w : W) (sp : Space) (a : Nat) (l : List Byte) : (w.store sp a l).dev = w.dev := rfl

@[simp] theorem W.modCl_dev (w : W) (n : Nat) (f : Cluster → Cluster) : (w.modCl n f).dev = { w.dev with cmp := { w.dev.cmp with clusters := Tab.put w.dev.cmp.clusters n (f (w.dev.cl n)) } } := rfl
@[simp] theorem W.modCl_mem (w : W) (n : Nat) (f : Cluster → Cluster) : (w.modCl n f).mem = w.mem := rfl
@[simp] theorem W.modCl_ws (w : W) (n : Nat) (f : Cluster → Cluster) : (w.modCl n f).ws = w.ws := rfl
@[simp] theorem W.modCl_op (w : W) (n : Nat) (f : Cluster → Cluster) : (w.modCl n f).op = w.op := rfl
@[simp] theorem W.modCl_die (w : W) (n : Nat) (f : Cluster → Cluster) : (w.modCl n f).die = w.die := rfl
@[simp] theorem W.modCl_was (w : W) (n : Nat) (f : Cluster → Cluster) : (w.modCl n f).was = w.was := rfl
@[simp] theorem W.modCl_skip (w : W) (n : Nat) (f : Cluster → Cluster) : (w.modCl n f).skip = w.skip := rfl
@[simp] theorem W.modCl_inst (w : W) (n : Nat) (f : Cluster → Cluster) : (w.modCl n f).inst = w.inst := rfl
@[simp] theorem W.modCl_rep (w : W) (n : Nat) (f : Cluster → Cluster) : (w.modCl n f).rep = w.rep := rfl
@[simp] theorem W.modCl_ecc (w : W) (n : Nat) (f : Cluster → Cluster) : (w.modCl n f).ecc = w.ecc := rfl
@[simp] theorem W.modVu_dev (w : W) (cl vu : Nat) (f : Vu → Vu) : (w.modVu cl vu f).dev = { w.dev with cmp := { w.dev.cmp with vus := Tab.put w.dev.cmp.vus (4 * cl + vu) (f (w.dev.vu cl vu)) } } := rfl
@[simp] theorem W.modVu_mem (w : W) (cl vu : Nat) (f : Vu → Vu) : (w.modVu cl vu f).mem = w.mem := rfl
@[simp] theorem W.modVu_ws (w : W) (cl vu : Nat) (f : Vu → Vu) : (w.modVu cl vu f).ws = w.ws := rfl
@[simp] theorem W.modVu_op (w : W) (cl vu : Nat) (f : Vu → Vu) : (w.modVu cl vu f).op = w.op := rfl
@[simp] theorem W.modVu_die (w : W) (cl vu : Nat) (f : Vu → Vu) : (w.modVu cl vu f).die = w.die := rfl
@[simp] theorem W.modVu_was (w : W) (cl vu : Nat) (f : Vu → Vu) : (w.modVu cl vu f).was = w.was := rfl
@[simp] theorem W.modVu_skip (w : W) (cl vu : Nat) (f : Vu → Vu) : (w.modVu cl vu f).skip = w.skip := rfl
@[simp] theorem W.modVu_inst (w : W) (cl vu : Nat) (f : Vu → Vu) : (w.modVu cl vu f).inst = w.inst := rfl
@[simp] theorem W.modVu_rep (w : W) (cl vu : Nat) (f : Vu → Vu) : (w.modVu cl vu f).rep = w.rep := rfl
@[simp] theorem W.modVu_ecc (w : W) (cl vu : Nat) (f : Vu → Vu) : (w.modVu cl vu f).ecc = w.ecc := rfl
@[simp] theorem W.modSag_dev (w : W) (s : Nat) (f : Sag → Sag) : (w.modSag s f).dev = { w.dev with cmp := { w.dev.cmp with sags := Tab.put w.dev.cmp.sags s (f (w.dev.sag s)) } } := rfl
@[simp] theorem W.modSag_mem (w : W) (s : Nat) (f : Sag → Sag) : (w.modSag s f).mem = w.mem := rfl
@[simp] theorem W.modSag_ws (w : W) (s : Nat) (f : Sag → Sag) : (w.modSag s f).ws = w.ws := rfl
@[simp] theorem W.modSag_op (w : W) (s : Nat) (f : Sag → Sag) : (w.modSag s f).op = w.op := rfl
@[simp] theorem W.modSag_die (w : W) (s : Nat) (f : Sag → Sag) : (w.modSag s f).die = w.die := rfl
@[simp] theorem W.modSag_was (w : W) (s : Nat) (f : Sag → Sag) : (w.modSag s f).was = w.was := rfl
@[simp] theorem W.modSag_skip (w : W) (s : Nat) (f : Sag → Sag) : (w.modSag s f).skip = w.skip := rfl
@[simp] theorem W.modSag_inst (w : W) (s : Nat) (f : Sag → Sag) : (w.modSag s f).inst = w.inst := rfl
@[simp] theorem W.modSag_rep (w : W) (s : Nat) (f : Sag → Sag) : (w.modSag s f).rep = w.rep := rfl
@[simp] theorem W.modSag_ecc (w : W) (s : Nat) (f : Sag → Sag) : (w.modSag s f).ecc = w.ecc := rfl
@[simp] theorem W.modThr_dev (w : W) (s : Nat) (f : Thr → Thr) : (w.modThr s f).dev = { w.dev with cmp := { w.dev.cmp with thr := Tab.put w.dev.cmp.thr s (f (w.dev.thr s)) } } := rfl
@[simp] theorem W.modThr_mem (w : W) (s : Nat) (f : Thr → Thr) : (w.modThr s f).mem = w.mem := rfl
@[simp] theorem W.modThr_ws (w : W) (s : Nat) (f : Thr → Thr) : (w.modThr s f).ws = w.ws := rfl
@[simp] theorem W.modThr_op (w : W) (s : Nat) (f : Thr → Thr) : (w.modThr s f).op = w.op := rfl
@[simp] theorem W.modThr_die (w : W) (s : Nat) (f : Thr → Thr) : (w.modThr s f).die = w.die := rfl
@[simp] theorem W.modThr_was (w : W) (s : Nat) (f : Thr → Thr) : (w.modThr s f).was = w.was := rfl
@[simp] theorem W.modThr_skip (w : W) (s : Nat) (f : Thr → Thr) : (w.modThr s f).skip = w.skip := rfl
@[simp] theorem W.modThr_inst (w : W) (s : Nat) (f : Thr → Thr) : (w.modThr s f).inst = w.inst := rfl
@[simp] theorem W.modThr_rep (w : W) (s : Nat) (f : Thr → Thr) : (w.modThr s f).rep = w.rep := rfl
@[simp] theorem W.modThr_ecc (w : W) (s : Nat) (f : Thr → Thr) : (w.modThr s f).ecc = w.ecc := rfl
@[simp] theorem W.modNum_dev (w : W) (s : Nat) (f : Num → Num) : (w.modNum s f).dev = { w.dev with cmp := { w.dev.cmp with num := Tab.put w.dev.cmp.num s (f (w.dev.num s)) } } := rfl
@[simp] theorem W.modNum_mem (w : W) (s : Nat) (f : Num → Num) : (w.modNum s f).mem = w.mem := rfl
@[simp] theorem W.modNum_ws (w : W) (s : Nat) (f : Num → Num) : (w.modNum s f).ws = w.ws := rfl
@[simp] theorem W.modNum_op (w : W) (s : Nat) (f : Num → Num) : (w.modNum s f).op = w.op := rfl
@[simp] theorem W.modNum_die (w : W) (s : Nat) (f : Num → Num) : (w.modNum s f).die = w.die := rfl
@[simp] theorem W.modNum_was (w : W) (s : Nat) (f : Num → Num) : (w.modNum s f).was = w.was := rfl
@[simp] theorem W.modNum_skip (w : W) (s : Nat) (f : Num → Num) : (w.modNum s f).skip = w.skip := rfl
@[simp] theorem W.modNum_inst (w : W) (s : Nat) (f : Num → Num) : (w.modNum s f).inst = w.inst := rfl
@[simp] theorem W.modNum_rep (w : W) (s : Nat) (f : Num → Num) : (w.modNum s f).rep = w.rep := rfl
@[simp] theorem W.modNum_ecc (w : W) (s : Nat) (f : Num → Num) : (w.modNum s f).ecc = w.ecc := rfl
@[simp] theorem W.modMem_dev (w : W) (s : Nat) (f : MemPage → MemPage) : (w.modMem s f).dev = { w.dev with cmp := { w.dev.cmp with mem := Tab.put w.dev.cmp.mem s (f (w.dev.mpage s)) } } := rfl
@[simp] theorem W.modMem_mem (w : W) (s : Nat) (f : MemPage → MemPage) : (w.modMem s f).mem = w.mem := rfl
@[simp] theorem W.modMem_ws (w : W) (s : Nat) (f : MemPage → MemPage) : (w.modMem s f).ws = w.ws := rfl
@[simp] theorem W.modMem_op (w : W) (s : Nat) (f : MemPage → MemPage) : (w.modMem s f).op = w.op := rfl
@[simp] theorem W.modMem_die (w : W) (s : Nat) (f : MemPage → MemPage) : (w.modMem s f).die = w.die := rfl
@[simp] theorem W.modMem_was (w : W) (s : Nat) (f : MemPage → MemPage) : (w.modMem s f).was = w.was := rfl
@[simp] theorem W.modMem_skip (w : W) (s : Nat) (f : MemPage → MemPage) : (w.modMem s f).skip = w.skip := rfl
@[simp] theorem W.modMem_inst (w : W) (s : Nat) (f : MemPage → MemPage) : (w.modMem s f).inst = w.inst := rfl
@[simp] theorem W.modMem_rep (w : W) (s : Nat) (f : MemPage → MemPage) : (w.modMem s f).rep = w.rep := rfl
@[simp] theorem W.modMem_ecc (w : W) (s : Nat) (f : MemPage → MemPage) : (w.modMem s f).ecc = w.ecc := rfl
@[simp] theorem W.modCrv_dev (w : W) (f : Crv → Crv) : (w.modCrv f).dev = { w.dev with cmp := { w.dev.cmp with crv := f w.dev.cmp.crv } } := rfl
@[simp] theorem W.modCrv_mem (w : W) (f : Crv → Crv) : (w.modCrv f).mem = w.mem := rfl
@[simp] theorem W.modCrv_ws (w : W) (f : Crv → Crv) : (w.modCrv f).ws = w.ws := rfl
@[simp] theorem W.modCrv_op (w : W) (f : Crv → Crv) : (w.modCrv f).op = w.op := rfl
@[simp] theorem W.modCrv_die (w : W) (f : Crv → Crv) : (w.modCrv f).die = w.die := rfl
@[simp] theorem W.modCrv_was (w : W) (f : Crv → Crv) : (w.modCrv f).was = w.was := rfl
@[simp] theorem W.modCrv_skip (w : W) (f : Crv → Crv) : (w.modCrv f).skip = w.skip := rfl
@[simp] theorem W.modCrv_inst (w : W) (f : Crv → Crv) : (w.modCrv f).inst = w.inst := rfl
@[simp] theorem W.modCrv_rep (w : W) (f : Crv → Crv) : (w.modCrv f).rep = w.rep := rfl
@[simp] theorem W.modCrv_ecc (w : W) (f : Crv → Crv) : (w.modCrv f).ecc = w.ecc := rfl
@[simp] theorem W.modCpage_dev (w : W) (s : Nat) (f : CrvPage → CrvPage) : (w.modCpage s f).dev = { w.dev with cmp := { w.dev.cmp with crv := { w.dev.cmp.crv with pages := Tab.put w.dev.cmp.crv.pages s (f (w.dev.cpage s)) } } } := rfl
@[simp] theorem W.modCpage_mem (w : W) (s : Nat) (f : CrvPage → CrvPage) : (w.modCpage s f).mem = w.mem := rfl
@[simp] theorem W.modCpage_ws (w : W) (s : Nat) (f : CrvPage → CrvPage) : (w.modCpage s f).ws = w.ws := rfl
@[simp] theorem W.modCpage_op (w : W) (s : Nat) (f : CrvPage → CrvPage) : (w.modCpage s f).op = w.op := rfl
@[simp] theorem W.modCpage_die (w : W) (s : Nat) (f : CrvPage → CrvPage) : (w.modCpage s f).die = w.die := rfl
@[simp] theorem W.modCpage_was (w : W) (s : Nat) (f : CrvPage → CrvPage) : (w.modCpage s f).was = w.was := rfl
@[simp] theorem W.modCpage_skip (w : W) (s : Nat) (f : CrvPage → CrvPage) : (w.modCpage s f).skip = w.skip := rfl
@[simp] theorem W.modCpage_inst (w : W) (s : Nat) (f : CrvPage → CrvPage) : (w.modCpage s f).inst = w.inst := rfl
@[simp] theorem W.modCpage_rep (w : W) (s : Nat) (f : CrvPage → CrvPage) : (w.modCpage s f).rep = w.rep := rfl
@[simp] theorem W.modCpage_ecc (w : W) (s : Nat) (f : CrvPage → CrvPage) : (w.modCpage s f).ecc = w.ecc := rfl
@[simp] theorem W.modQ_dev (w : W) (q : Nat) (f : DmaQ → DmaQ) : (w.modQ q f).dev = { w.dev with dma := { w.dev.dma with qs := Tab.put w.dev.dma.qs q (f (w.dev.q q)) } } := rfl
@[simp] theorem W.modQ_mem (w : W) (q : Nat) (f : DmaQ → DmaQ) : (w.modQ q f).mem = w.mem := rfl
@[simp] theorem W.modQ_ws (w : W) (q : Nat) (f : DmaQ → DmaQ) : (w.modQ q f).ws = w.ws := rfl
@[simp] theorem W.modQ_op (w : W) (q : Nat) (f : DmaQ → DmaQ) : (w.modQ q f).op = w.op := rfl
@[simp] theorem W.modQ_die (w : W) (q : Nat) (f : DmaQ → DmaQ) : (w.modQ q f).die = w.die := rfl
@[simp] theorem W.modQ_was (w : W) (q : Nat) (f : DmaQ → DmaQ) : (w.modQ q f).was = w.was := rfl
@[simp] theorem W.modQ_skip (w : W) (q : Nat) (f : DmaQ → DmaQ) : (w.modQ q f).skip = w.skip := rfl
@[simp] theorem W.modQ_inst (w : W) (q : Nat) (f : DmaQ → DmaQ) : (w.modQ q f).inst = w.inst := rfl
@[simp] theorem W.modQ_rep (w : W) (q : Nat) (f : DmaQ → DmaQ) : (w.modQ q f).rep = w.rep := rfl
@[simp] theorem W.modQ_ecc (w : W) (q : Nat) (f : DmaQ → DmaQ) : (w.modQ q f).ecc = w.ecc := rfl
@[simp] theorem W.modPort_dev (w : W) (p : Nat) (f : Port → Port) : (w.modPort p f).dev = { w.dev with ports := Tab.put w.dev.ports p (f (w.dev.port p)) } := rfl
@[simp] theorem W.modPort_mem (w : W) (p : Nat) (f : Port → Port) : (w.modPort p f).mem = w.mem := rfl
@[simp] theorem W.modPort_ws (w : W) (p : Nat) (f : Port → Port) : (w.modPort p f).ws = w.ws := rfl
@[simp] theorem W.modPort_op (w : W) (p : Nat) (f : Port → Port) : (w.modPort p f).op = w.op := rfl
@[simp] theorem W.modPort_die (w : W) (p : Nat) (f : Port → Port) : (w.modPort p f).die = w.die := rfl
@[simp] theorem W.modPort_was (w : W) (p : Nat) (f : Port → Port) : (w.modPort p f).was = w.was := rfl
@[simp] theorem W.modPort_skip (w : W) (p : Nat) (f : Port → Port) : (w.modPort p f).skip = w.skip := rfl
@[simp] theorem W.modPort_inst (w : W) (p : Nat) (f : Port → Port) : (w.modPort p f).inst = w.inst := rfl
@[simp] theorem W.modPort_rep (w : W) (p : Nat) (f : Port → Port) : (w.modPort p f).rep = w.rep := rfl
@[simp] theorem W.modPort_ecc (w : W) (p : Nat) (f : Port → Port) : (w.modPort p f).ecc = w.ecc := rfl
@[simp] theorem W.modQuire_dev (w : W) (i : Nat) (f : Quire → Quire) : (w.modQuire i f).dev = { w.dev with coll := { w.dev.coll with quires := Tab.put w.dev.coll.quires i (f (w.dev.quire i)) } } := rfl
@[simp] theorem W.modQuire_mem (w : W) (i : Nat) (f : Quire → Quire) : (w.modQuire i f).mem = w.mem := rfl
@[simp] theorem W.modQuire_ws (w : W) (i : Nat) (f : Quire → Quire) : (w.modQuire i f).ws = w.ws := rfl
@[simp] theorem W.modQuire_op (w : W) (i : Nat) (f : Quire → Quire) : (w.modQuire i f).op = w.op := rfl
@[simp] theorem W.modQuire_die (w : W) (i : Nat) (f : Quire → Quire) : (w.modQuire i f).die = w.die := rfl
@[simp] theorem W.modQuire_was (w : W) (i : Nat) (f : Quire → Quire) : (w.modQuire i f).was = w.was := rfl
@[simp] theorem W.modQuire_skip (w : W) (i : Nat) (f : Quire → Quire) : (w.modQuire i f).skip = w.skip := rfl
@[simp] theorem W.modQuire_inst (w : W) (i : Nat) (f : Quire → Quire) : (w.modQuire i f).inst = w.inst := rfl
@[simp] theorem W.modQuire_rep (w : W) (i : Nat) (f : Quire → Quire) : (w.modQuire i f).rep = w.rep := rfl
@[simp] theorem W.modQuire_ecc (w : W) (i : Nat) (f : Quire → Quire) : (w.modQuire i f).ecc = w.ecc := rfl
@[simp] theorem W.modDom_dev (w : W) (n : Nat) (f : Dom → Dom) : (w.modDom n f).dev = { w.dev with pwr := { w.dev.pwr with doms := Tab.put w.dev.pwr.doms n (f (w.dev.dom n)) } } := rfl
@[simp] theorem W.modDom_mem (w : W) (n : Nat) (f : Dom → Dom) : (w.modDom n f).mem = w.mem := rfl
@[simp] theorem W.modDom_ws (w : W) (n : Nat) (f : Dom → Dom) : (w.modDom n f).ws = w.ws := rfl
@[simp] theorem W.modDom_op (w : W) (n : Nat) (f : Dom → Dom) : (w.modDom n f).op = w.op := rfl
@[simp] theorem W.modDom_die (w : W) (n : Nat) (f : Dom → Dom) : (w.modDom n f).die = w.die := rfl
@[simp] theorem W.modDom_was (w : W) (n : Nat) (f : Dom → Dom) : (w.modDom n f).was = w.was := rfl
@[simp] theorem W.modDom_skip (w : W) (n : Nat) (f : Dom → Dom) : (w.modDom n f).skip = w.skip := rfl
@[simp] theorem W.modDom_inst (w : W) (n : Nat) (f : Dom → Dom) : (w.modDom n f).inst = w.inst := rfl
@[simp] theorem W.modDom_rep (w : W) (n : Nat) (f : Dom → Dom) : (w.modDom n f).rep = w.rep := rfl
@[simp] theorem W.modDom_ecc (w : W) (n : Nat) (f : Dom → Dom) : (w.modDom n f).ecc = w.ecc := rfl
@[simp] theorem W.modDev_dev (w : W) (f : Dev → Dev) : (w.modDev f).dev = f w.dev := rfl
@[simp] theorem W.modDev_mem (w : W) (f : Dev → Dev) : (w.modDev f).mem = w.mem := rfl
@[simp] theorem W.modDev_ws (w : W) (f : Dev → Dev) : (w.modDev f).ws = w.ws := rfl
@[simp] theorem W.modDev_op (w : W) (f : Dev → Dev) : (w.modDev f).op = w.op := rfl
@[simp] theorem W.modDev_die (w : W) (f : Dev → Dev) : (w.modDev f).die = w.die := rfl
@[simp] theorem W.modDev_was (w : W) (f : Dev → Dev) : (w.modDev f).was = w.was := rfl
@[simp] theorem W.modDev_skip (w : W) (f : Dev → Dev) : (w.modDev f).skip = w.skip := rfl
@[simp] theorem W.modDev_inst (w : W) (f : Dev → Dev) : (w.modDev f).inst = w.inst := rfl
@[simp] theorem W.modDev_rep (w : W) (f : Dev → Dev) : (w.modDev f).rep = w.rep := rfl
@[simp] theorem W.modDev_ecc (w : W) (f : Dev → Dev) : (w.modDev f).ecc = w.ecc := rfl

end Sys2Proof.Machine
end

