-- ==== Sys2Proof/Laws/Tab.lean ====
section
/-!
SUPPORT. Sparse tables: reading back what was put, and everything else.
-/
namespace Sys2Proof

@[simp] theorem Tab.look_nil {α : Type} (d : α) (k : Nat) : Tab.look d [] k = d := rfl

@[simp] theorem Tab.look_put_same {α : Type} (d : α) (t : Tab α) (k : Nat) (v : α) : Tab.look d (Tab.put t k v) k = v := by
  induction t with
  | nil => simp [Tab.put, Tab.look]
  | cons p t ih =>
    obtain ⟨j, w⟩ := p
    unfold Tab.put
    split
    · simp [Tab.look]
    · split
      · simp [Tab.look]
      · rename_i h _
        simp [Tab.look, h, ih]

theorem Tab.look_put_ne {α : Type} (d : α) (t : Tab α) {k n : Nat} (h : n ≠ k) (v : α) :
    Tab.look d (Tab.put t k v) n = Tab.look d t n := by
  induction t with
  | nil => simp [Tab.put, Tab.look, Ne.symm h]
  | cons p t ih =>
    obtain ⟨j, w⟩ := p
    unfold Tab.put
    split
    · rename_i e
      subst e
      simp [Tab.look, Ne.symm h]
    · split
      · simp [Tab.look, Ne.symm h]
      · simp only [Tab.look, ih]

theorem Tab.look_put {α : Type} (d : α) (t : Tab α) (k n : Nat) (v : α) :
    Tab.look d (Tab.put t k v) n = if n = k then v else Tab.look d t n := by
  by_cases h : n = k
  · subst h; simp
  · simp [h, Tab.look_put_ne d t h v]

theorem Tab.look_mapV {α β : Type} (d : α) (f : Nat → α → β) (t : Tab α) (k : Nat) :
    (Tab.look (f k d) (Tab.mapV f t) k) = f k (Tab.look d t k) := by
  induction t with
  | nil => rfl
  | cons p t ih =>
    obtain ⟨j, w⟩ := p
    simp only [Tab.mapV, List.map_cons, Tab.look]
    by_cases h : j = k
    · simp [h]
    · simp only [h, if_false]; exact ih

end Sys2Proof
end

