-- ==== Sys2Proof/Laws/Events.lean ====
section
/-!
SUPPORT. What raising an event, firing a vector, raising a wake and a register access can do.
-/
namespace Sys2Proof.Machine

/-- What the always-on domain receives changes the log and nothing else. -/
theorem W.received_eq (w : W) (e : LogEvent) : w.received e = { w with dev := { w.dev with log := (w.received e).dev.log } } := by
  unfold W.received; dsimp only; repeat' split
  all_goals rfl

/-- An event changes the log and nothing else. -/
theorem W.event_eq (w : W) (c src : Nat) (g : Option Nat) (l : List (Nat × Nat)) :
    w.event c src g l = { w with dev := { w.dev with log := (w.event c src g l).dev.log } } := by
  unfold W.event; dsimp only; split
  · exact W.received_eq ..
  · rfl

theorem W.eventBytes_eq (w : W) (c src : Nat) (l : List Byte) :
    w.eventBytes c src l = { w with dev := { w.dev with log := (w.eventBytes c src l).dev.log } } := rfl

/-- Firing a vector leaves it pending or sends its message (R228). -/
theorem W.fire_eq (w : W) (fn vec : Nat) :
    w.fire fn vec = { w with dev := { w.dev with pci := (w.fire fn vec).dev.pci, outs := (w.fire fn vec).dev.outs } } := by
  unfold W.fire; dsimp only; split <;> rfl

/-- A vector of a fault waits behind a queued event, or fires (R466): the log, the vectors and what is put out change. -/
theorem W.fireBehind_eq (w : W) (mine : LogEvent → Bool) (x : Nat × Nat) :
    w.fireBehind mine x =
      { w with dev := { w.dev with pci := (w.fireBehind mine x).dev.pci, outs := (w.fireBehind mine x).dev.outs
                                   log := (w.fireBehind mine x).dev.log } } := by
  unfold W.fireBehind
  split
  · rfl
  · rfl
  · rfl
  · rw [W.fire_eq]

theorem W.fireSag_eq (w : W) (s : Nat) :
    w.fireSag s = { w with dev := { w.dev with pci := (w.fireSag s).dev.pci, outs := (w.fireSag s).dev.outs
                                               log := (w.fireSag s).dev.log } } := by
  unfold W.fireSag
  dsimp only
  split
  · rw [W.fireBehind_eq (w.fireBehind _ (0, 258)), W.fireBehind_eq w]
  · rw [W.fireBehind_eq w]

theorem W.fireQueue_eq (w : W) (q : Nat) :
    w.fireQueue q = { w with dev := { w.dev with pci := (w.fireQueue q).dev.pci, outs := (w.fireQueue q).dev.outs
                                                 log := (w.fireQueue q).dev.log } } := by
  unfold W.fireQueue
  exact W.fireBehind_eq w _ _

/-- An access that is served runs. -/
theorem W.regAccess_served (w : W) (ag : Agent) (p : RegPlace) (op : RegOp) (k : W → W)
    (h : (w.dev.linkServes ag && w.dev.sees ag p && (if p = .aon then w.dev.aon.powered else w.dev.hubServes && w.dev.hubOpen)) = true) :
    w.regAccess ag p op k = k w := by
  simp only [Bool.and_eq_true] at h
  unfold W.regAccess
  by_cases hp : p = .aon
  · simp_all
  · simp_all

end Sys2Proof.Machine
end

