-- ==== Sys2Proof/Laws/Memory.lean ====
section
/-!
SUPPORT. The memories: every change keeps the canonical form; a byte reads back as it was written, and every other byte as before.
-/
namespace Sys2Proof.Machine

variable {fill : Byte}

/-- A bound that lies below the first address may be lowered. -/
theorem cellsWf_mono {l : List Host.Cell} {lo : Option Nat} (h : cellsWf fill lo l = true) : cellsWf fill none l = true := by
  cases l with
  | nil => rfl
  | cons p t =>
    obtain ⟨a, v⟩ := p
    simp only [cellsWf, Bool.and_eq_true] at h ⊢
    exact ⟨⟨trivial, h.1.2⟩, h.2⟩

theorem cellsWf_lower {l : List Host.Cell} {b c : Nat} (h : cellsWf fill (some b) l = true) (hc : c ≤ b) :
    cellsWf fill (some c) l = true := by
  cases l with
  | nil => rfl
  | cons p t =>
    obtain ⟨a, v⟩ := p
    simp only [cellsWf, Bool.and_eq_true, decide_eq_true_eq] at h ⊢
    exact ⟨⟨by omega, h.1.2⟩, h.2⟩

/-- Raising the bound to a number below every address. -/
theorem cellsWf_raise {l : List Host.Cell} {lo : Option Nat} {b : Nat} (h : cellsWf fill lo l = true)
    (hb : ∀ c ∈ l, b < c.1) : cellsWf fill (some b) l = true := by
  cases l with
  | nil => rfl
  | cons p t =>
    obtain ⟨a, v⟩ := p
    simp only [cellsWf, Bool.and_eq_true, decide_eq_true_eq] at h ⊢
    exact ⟨⟨hb _ (List.mem_cons_self ..), h.1.2⟩, h.2⟩

/-- Every address stands above the bound. -/
theorem cellsWf_above {l : List Host.Cell} {b : Nat} (h : cellsWf fill (some b) l = true) : ∀ c ∈ l, b < c.1 := by
  induction l generalizing b with
  | nil => simp
  | cons p t ih =>
    obtain ⟨a, v⟩ := p
    simp only [cellsWf, Bool.and_eq_true, decide_eq_true_eq] at h
    intro c hc
    rcases List.mem_cons.mp hc with rfl | hc
    · exact h.1.1
    · have := ih h.2 c hc
      omega

/-- Below the bound nothing is listed. -/
theorem cellGet_below {l : List Host.Cell} {b a : Nat} (h : cellsWf fill (some b) l = true) (ha : a ≤ b) : cellGet fill l a = fill := by
  cases l with
  | nil => rfl
  | cons p t =>
    obtain ⟨c, v⟩ := p
    simp only [cellsWf, Bool.and_eq_true, decide_eq_true_eq] at h
    have h1 : c ≠ a := by omega
    have h2 : a < c := by omega
    simp [cellGet, h1, h2]

theorem cellDel_wf {l : List Host.Cell} {lo : Option Nat} (a : Nat) (h : cellsWf fill lo l = true) : cellsWf fill lo (cellDel l a) = true := by
  induction l generalizing lo with
  | nil => exact h
  | cons p t ih =>
    obtain ⟨b, v⟩ := p
    simp only [cellsWf, Bool.and_eq_true, decide_eq_true_eq] at h
    unfold cellDel
    split
    · cases lo with
      | none => exact cellsWf_mono h.2
      | some c => exact cellsWf_lower h.2 (by simpa using Nat.le_of_lt (by simpa using h.1.1))
    · split
      · simp only [cellsWf, Bool.and_eq_true, decide_eq_true_eq]; exact h
      · simp only [cellsWf, Bool.and_eq_true, decide_eq_true_eq]; exact ⟨h.1, ih h.2⟩

theorem cellIns_wf {l : List Host.Cell} {lo : Option Nat} {a : Nat} {v : Byte} (h : cellsWf fill lo l = true) (hv : v ≠ fill)
    (hlo : ∀ b, lo = some b → b < a) : cellsWf fill lo (cellIns l a v) = true := by
  induction l generalizing lo with
  | nil =>
    cases lo with
    | none => simp [cellIns, cellsWf, hv]
    | some b => simp [cellIns, cellsWf, hv, hlo b rfl]
  | cons p t ih =>
    obtain ⟨b, w⟩ := p
    simp only [cellsWf, Bool.and_eq_true, decide_eq_true_eq] at h
    unfold cellIns
    split
    · rename_i e
      subst e
      simp only [cellsWf, Bool.and_eq_true, decide_eq_true_eq]; exact ⟨⟨h.1.1, hv⟩, h.2⟩
    · split
      · rename_i hab
        simp only [cellsWf, Bool.and_eq_true, decide_eq_true_eq]
        refine ⟨⟨?_, hv⟩, ⟨hab, h.1.2⟩, h.2⟩
        cases lo with
        | none => rfl
        | some c => simpa using hlo c rfl
      · rename_i h1 h2
        simp only [cellsWf, Bool.and_eq_true, decide_eq_true_eq]
        exact ⟨h.1, ih h.2 (fun c hc => by cases hc; omega)⟩

theorem cellPut_wf {l : List Host.Cell} (a : Nat) (v : Byte) (h : cellsWf fill none l = true) : cellsWf fill none (cellPut fill l a v) = true := by
  unfold cellPut
  split
  · exact cellDel_wf a h
  · rename_i hv; exact cellIns_wf h hv (by simp)

theorem cellPuts_wf {l : List Host.Cell} (a : Nat) (vs : List Byte) (h : cellsWf fill none l = true) :
    cellsWf fill none (cellPuts fill l a vs) = true := by
  induction vs generalizing l a with
  | nil => exact h
  | cons v vs ih => exact ih (a + 1) (cellPut_wf a v h)

theorem cellPutAll_wf {l : List Host.Cell} (cs : List Host.Cell) (h : cellsWf fill none l = true) :
    cellsWf fill none (cellPutAll fill l cs) = true := by
  induction cs generalizing l with
  | nil => exact h
  | cons c cs ih => exact ih (cellPut_wf c.1 c.2 h)

theorem filter_wf {l : List Host.Cell} {lo : Option Nat} (p : Host.Cell → Bool) (h : cellsWf fill lo l = true) :
    cellsWf fill lo (l.filter p) = true := by
  induction l generalizing lo with
  | nil => exact h
  | cons c t ih =>
    obtain ⟨a, v⟩ := c
    simp only [cellsWf, Bool.and_eq_true, decide_eq_true_eq] at h
    simp only [List.filter_cons]
    split
    · simp only [cellsWf, Bool.and_eq_true, decide_eq_true_eq]; exact ⟨h.1, ih h.2⟩
    · have := ih h.2
      cases lo with
      | none => exact cellsWf_mono this
      | some b => exact cellsWf_lower this (by simpa using Nat.le_of_lt (by simpa using h.1.1))

theorem clearCells_wf {l : List Host.Cell} (a len : Nat) (h : cellsWf fill none l = true) : cellsWf fill none (clearCells l a len) = true :=
  filter_wf _ h

/-- Reading what was put, in the canonical form. -/
theorem cellGet_ins_same (l : List Host.Cell) (a : Nat) (v : Byte) : cellGet fill (cellIns l a v) a = v := by
  induction l with
  | nil => simp [cellIns, cellGet]
  | cons p t ih =>
    obtain ⟨b, w⟩ := p
    unfold cellIns
    split
    · simp [cellGet]
    · split
      · simp [cellGet]
      · rename_i h1 h2; simp [cellGet, h1, h2, ih]

theorem cellGet_ins_ne (l : List Host.Cell) {a n : Nat} (v : Byte) (h : n ≠ a) : cellGet fill (cellIns l a v) n = cellGet fill l n := by
  induction l with
  | nil => simp [cellIns, cellGet, Ne.symm h]
  | cons p t ih =>
    obtain ⟨b, w⟩ := p
    unfold cellIns
    split
    · rename_i e; subst e; simp [cellGet, Ne.symm h]
    · split
      · rename_i h1 h2
        by_cases hn : n < a
        · have hb : b ≠ n := by omega
          have hb2 : n < b := by omega
          simp [cellGet, Ne.symm h, hn, hb, hb2]
        · simp [cellGet, Ne.symm h, hn]
      · simp only [cellGet, ih]

theorem cellGet_del_same {l : List Host.Cell} {lo : Option Nat} (a : Nat) (h : cellsWf fill lo l = true) : cellGet fill (cellDel l a) a = fill := by
  induction l generalizing lo with
  | nil => rfl
  | cons p t ih =>
    obtain ⟨b, w⟩ := p
    simp only [cellsWf, Bool.and_eq_true, decide_eq_true_eq] at h
    unfold cellDel
    split
    · rename_i e; subst e; exact cellGet_below h.2 (Nat.le_refl _)
    · split
      · rename_i h1 h2; simp [cellGet, h1, h2]
      · rename_i h1 h2; simp [cellGet, h1, h2, ih h.2]

theorem cellGet_del_ne {l : List Host.Cell} {lo : Option Nat} {a n : Nat} (h : cellsWf fill lo l = true) (hn : n ≠ a) :
    cellGet fill (cellDel l a) n = cellGet fill l n := by
  induction l generalizing lo with
  | nil => rfl
  | cons p t ih =>
    obtain ⟨b, w⟩ := p
    simp only [cellsWf, Bool.and_eq_true, decide_eq_true_eq] at h
    unfold cellDel
    split
    · rename_i e
      subst e
      by_cases hlt : n < b
      · simp [cellGet, Ne.symm hn, hlt, cellGet_below h.2 (Nat.le_of_lt hlt)]
      · simp [cellGet, Ne.symm hn, hlt]
    · split
      · rfl
      · simp only [cellGet, ih h.2]

theorem cellGet_put_same {l : List Host.Cell} (a : Nat) (v : Byte) (h : cellsWf fill none l = true) : cellGet fill (cellPut fill l a v) a = v := by
  unfold cellPut
  split
  · rename_i e; rw [cellGet_del_same a h, e]
  · exact cellGet_ins_same l a v

theorem cellGet_put_ne {l : List Host.Cell} {a n : Nat} (v : Byte) (h : cellsWf fill none l = true) (hn : n ≠ a) :
    cellGet fill (cellPut fill l a v) n = cellGet fill l n := by
  unfold cellPut
  split
  · exact cellGet_del_ne h hn
  · exact cellGet_ins_ne l v hn

/-- Outside the stored bytes everything reads as before. -/
theorem cellGet_puts_outside {l : List Host.Cell} (a : Nat) (vs : List Byte) {n : Nat} (h : cellsWf fill none l = true)
    (hn : n < a ∨ a + vs.length ≤ n) : cellGet fill (cellPuts fill l a vs) n = cellGet fill l n := by
  induction vs generalizing l a with
  | nil => rfl
  | cons v vs ih =>
    simp only [List.length_cons] at hn
    show cellGet fill (cellPuts fill (cellPut fill l a v) (a + 1) vs) n = _
    rw [ih (a + 1) (cellPut_wf a v h) (by omega), cellGet_put_ne v h (by omega)]

/-- The stored bytes read back. -/
theorem cellGet_puts_inside {l : List Host.Cell} (a : Nat) (vs : List Byte) {i : Nat} (h : cellsWf fill none l = true)
    (hi : i < vs.length) : cellGet fill (cellPuts fill l a vs) (a + i) = vs.getD i 0 := by
  induction vs generalizing l a i with
  | nil => simp at hi
  | cons v vs ih =>
    show cellGet fill (cellPuts fill (cellPut fill l a v) (a + 1) vs) (a + i) = _
    cases i with
    | zero =>
      rw [cellGet_puts_outside (a + 1) vs (cellPut_wf a v h) (by omega)]
      simpa using cellGet_put_same a v h
    | succ i =>
      have := ih (a + 1) (i := i) (cellPut_wf a v h) (by simpa using hi)
      rw [show a + (i + 1) = a + 1 + i by omega, this]
      simp

/-- A memory in canonical form has each of its lists in canonical form. -/
theorem Mem.wf_cells {m : Mem} (h : m.wf = true) (sp : Space) : cellsWf sp.fill none (m.cells sp) = true := by
  simp only [Mem.wf, Bool.and_eq_true] at h
  cases sp
  · exact h.1.1.1
  · exact h.1.1.2
  · exact h.1.2
  · exact h.2

theorem Mem.setCells_wf {m : Mem} (h : m.wf = true) (sp : Space) {l : List Host.Cell} (hl : cellsWf sp.fill none l = true) :
    (m.setCells sp l).wf = true := by
  simp only [Mem.wf, Bool.and_eq_true] at h ⊢
  cases sp
  · exact ⟨⟨⟨hl, h.1.1.2⟩, h.1.2⟩, h.2⟩
  · exact ⟨⟨⟨h.1.1.1, hl⟩, h.1.2⟩, h.2⟩
  · exact ⟨⟨h.1.1, hl⟩, h.2⟩
  · exact ⟨h.1, hl⟩

@[simp] theorem setBadLines_cells (m : Mem) (sp sp' : Space) (l : List Nat) : (setBadLines m sp l).cells sp' = m.cells sp' := by
  cases sp <;> cases sp' <;> rfl

theorem wf_of_cells {m m' : Mem} (h : m.wf = true) (e : ∀ sp, m'.cells sp = m.cells sp) : m'.wf = true := by
  have h1 := e .hbm
  have h2 := e .near
  have h3 := e .host
  have h4 := e .flash
  simp only [Mem.cells] at h1 h2 h3 h4
  simpa only [Mem.wf, h1, h2, h3, h4] using h

@[simp] theorem setCells_cells_same (m : Mem) (sp : Space) (l : List Host.Cell) : (m.setCells sp l).cells sp = l := by cases sp <;> rfl

theorem setCells_cells_ne (m : Mem) {sp sp' : Space} (l : List Host.Cell) (h : sp' ≠ sp) : (m.setCells sp l).cells sp' = m.cells sp' := by
  cases sp <;> cases sp' <;> first | rfl | exact absurd rfl h

@[simp] theorem healLines_cells (m : Mem) (sp sp' : Space) (a len : Nat) : (healLines m sp a len).cells sp' = m.cells sp' := by
  simp [healLines]

/-- Every change of a memory keeps the canonical form. -/
theorem Mem.apply1_wf {m : Mem} (h : m.wf = true) (x : MemWrite) : (m.apply1 x).wf = true := by
  have heal (m : Mem) (sp : Space) (a len : Nat) (h : m.wf = true) : (healLines m sp a len).wf = true :=
    wf_of_cells h (fun sp' => healLines_cells m sp sp' a len)
  have bad (m : Mem) (sp : Space) (l : List Nat) (h : m.wf = true) : (setBadLines m sp l).wf = true :=
    wf_of_cells h (fun sp' => setBadLines_cells m sp sp' l)
  cases x with
  | bytes sp a l => exact heal _ _ _ _ (Mem.setCells_wf h sp (cellPuts_wf a l (Mem.wf_cells h sp)))
  | copy f a t b len => exact heal _ _ _ _ (Mem.setCells_wf h t (cellPutAll_wf _ (clearCells_wf b len (Mem.wf_cells h t))))
  | clear sp => exact bad _ _ _ (Mem.setCells_wf h sp rfl)
  | clearRange sp a len => exact heal _ _ _ _ (Mem.setCells_wf h sp (clearCells_wf a len (Mem.wf_cells h sp)))
  | bad sp n => exact bad _ _ _ h

/-- So does any number of them. -/
theorem Mem.applyAll_wf {m : Mem} (h : m.wf = true) (l : List MemWrite) : (m.applyAll l).wf = true := by
  induction l generalizing m with
  | nil => exact h
  | cons x t ih => exact ih (Mem.apply1_wf h x)

/-- A store writes its own memory only, and its own bytes only. -/
theorem Mem.byte_store_outside {m : Mem} (h : m.wf = true) (sp sp' : Space) (a n : Nat) (l : List Byte)
    (hn : sp' ≠ sp ∨ n < a ∨ a + l.length ≤ n) : (m.apply1 (.bytes sp a l)).byte sp' n = m.byte sp' n := by
  simp only [Mem.byte, Mem.apply1, healLines_cells]
  by_cases e : sp' = sp
  · subst e
    rw [setCells_cells_same, cellGet_puts_outside a l (Mem.wf_cells h sp') (by rcases hn with h | h; exact absurd rfl h; exact h)]
  · rw [setCells_cells_ne m _ e]

theorem Mem.byte_store_inside {m : Mem} (h : m.wf = true) (sp : Space) (a i : Nat) (l : List Byte) (hi : i < l.length) :
    (m.apply1 (.bytes sp a l)).byte sp (a + i) = l.getD i 0 := by
  simp only [Mem.byte, Mem.apply1, healLines_cells, setCells_cells_same]
  exact cellGet_puts_inside a l (Mem.wf_cells h sp) hi

/-- Changes made one list after the other. -/
theorem Mem.applyAll_append (m : Mem) (l r : List MemWrite) : m.applyAll (l ++ r) = (m.applyAll l).applyAll r := by
  induction l generalizing m with
  | nil => rfl
  | cons x t ih => exact ih (m.apply1 x)

end Sys2Proof.Machine
end

