-- ==== Sys2Proof/Laws/Step.lean ====
section
/-!
SUPPORT. How a command runs: from its work to the state it leaves.
-/
namespace Sys2Proof.Machine

@[simp] theorem State.work_dev (s : State) : s.work.dev = s.dev := rfl
@[simp] theorem State.work_mem (s : State) : s.work.mem = s.mem := rfl
@[simp] theorem State.work_ws (s : State) : s.work.ws = [] := rfl
@[simp] theorem State.after_dev (s : State) (w : W) : (s.after w).dev = w.dev := rfl
@[simp] theorem State.after_pending (s : State) (w : W) : (s.after w).pending = s.pending := rfl
theorem State.after_mem (s : State) (w : W) : (s.after w).mem = s.mem.applyAll w.ws.reverse := rfl

/-- Work that changes no memory. -/
theorem State.after_of_ws {s : State} {w : W} (h : w.ws = []) : s.after w = { s with dev := w.dev } := by
  simp only [State.after, h]; rfl

@[simp] theorem State.after_work (s : State) : s.after s.work = s := rfl

/-- What a command leaves has the memories in canonical form. -/
theorem State.after_safe {s : State} (h : s.safe) (w : W) : (s.after w).safe := Mem.applyAll_wf h _

/-- A command that runs its work completes. -/
theorem completes_act {i : Instr} {s : State} {f : W → W} {P : State → Prop} (h : exec i s = act f s)
    (hp : P (s.after (f s.work))) : Completes i s P := ⟨_, h, hp⟩

/-- A register command that is served completes with its effect. -/
theorem completes_served {i : Instr} {s : State} {ag : Agent} {p : RegPlace} {op : RegOp} {k : W → W} {P : State → Prop}
    (h : exec i s = act (fun w => w.regAccess ag p op k) s) (hs : s.dev.serves ag p = true) (hp : P (s.after (k s.work))) :
    Completes i s P := by
  refine completes_act h ?_
  rw [W.regAccess_served]
  · exact hp
  · simpa [Dev.serves] using hs

/-- The frame holds of work that changes no memory and, of the block, what the frame allows. -/
theorem only_after {keep : Dev → Dev → Dev} {s : State} {w : W} (h : w.ws = []) (hd : w.dev = keep s.dev w.dev) :
    Only keep s (s.after w) := by
  rw [State.after_of_ws h]; show _ = _; congr 1

end Sys2Proof.Machine
end

