-- ==== Sys2Proof/Laws/Access.lean ====
section
/-!
SUPPORT. What the checks on one access, and issuing a thread instruction, can change: idle timers, cached translations, the free
counter and the log.
-/
namespace Sys2Proof.Machine

/-- What is still to be found brings no uncorrectable error. -/
def W.sound (w : W) : Prop := ∀ e ∈ w.ecc, e ≠ .bad

/-- One state of work differs from an earlier one only in idle timers, cached translations, the free counter, corrected errors and the
log, and in the findings that it has used. -/
def Quiet (w w' : W) : Prop :=
  w'.ecc <:+ w.ecc ∧
  w' = { w with ecc := w'.ecc, dev := { w.dev with pwr := w'.dev.pwr, free := w'.dev.free, log := w'.dev.log
                                                   cmp := { w.dev.cmp with mem := w'.dev.cmp.mem, cecc := w'.dev.cmp.cecc } } }

theorem Quiet.refl (w : W) : Quiet w w := ⟨List.suffix_refl _, rfl⟩

theorem Quiet.trans {a b c : W} (h1 : Quiet a b) (h2 : Quiet b c) : Quiet a c := by
  refine ⟨h2.1.trans h1.1, ?_⟩
  obtain ⟨_, h1⟩ := h1
  obtain ⟨_, h2⟩ := h2
  rw [h2, h1]

theorem Quiet.sound {a b : W} (h : Quiet a b) (ha : a.sound) : b.sound := fun e he => ha e (h.1.mem he)

/-- Findings that a state of work does not have change nothing. -/
theorem Quiet.same {w w' : W} (he : w'.ecc = w.ecc)
    (h : w' = { w with dev := { w.dev with pwr := w'.dev.pwr, free := w'.dev.free, log := w'.dev.log
                                           cmp := { w.dev.cmp with mem := w'.dev.cmp.mem, cecc := w'.dev.cmp.cecc } } }) : Quiet w w' :=
  ⟨he ▸ List.suffix_refl _, by rw [he]; exact h⟩

theorem quiet_touch (w : W) (n : Nat) : Quiet w (w.touch n) := .same rfl rfl
theorem quiet_modMem (w : W) (s : Nat) (f : MemPage → MemPage) : Quiet w (w.modMem s f) := .same rfl rfl
theorem quiet_drawBool (w : W) : Quiet w w.drawBool.2 := .same rfl rfl

theorem quiet_event (w : W) (c src : Nat) (g : Option Nat) (l : List (Nat × Nat)) : Quiet w (w.event c src g l) :=
  .same (by rw [W.event_eq w]) (by rw [W.event_eq w])

theorem quiet_corrected (w : W) (src n : Nat) : Quiet w (w.corrected src n) := by
  unfold W.corrected
  dsimp only
  repeat' split
  · exact .refl _
  · exact Quiet.trans (.same rfl rfl) (quiet_event ..)
  · exact .same rfl rfl

/-- A finding that is no uncorrectable error changes counts and the log alone. -/
theorem quiet_finds {w : W} (hw : w.sound) (sp : Space) (a : Nat) : Quiet w (w.finds sp a) := by
  have used {e : Ecc} {t : List Ecc} (h : w.ecc = e :: t) : Quiet w { w with ecc := t } :=
    ⟨h ▸ List.suffix_cons e t, rfl⟩
  unfold W.finds
  split
  · exact .refl _
  · rename_i e t h
    dsimp only
    split
    · exact (used h).trans (quiet_corrected ..)
    · exact absurd rfl (hw .bad (by rw [h]; exact List.mem_cons_self))
    · exact used h

theorem Quiet.finds {a w : W} (h : Quiet a w) (ha : a.sound) (sp : Space) (b : Nat) : Quiet a (w.finds sp b) :=
  h.trans (quiet_finds (h.sound ha) sp b)

theorem quiet_uncorrectable (w : W) (s : Nat) (sp : Space) (a n : Nat) : Quiet w (w.uncorrectable s sp a n) := by
  unfold W.uncorrectable; dsimp only; split <;> exact quiet_event ..

theorem quiet_pteAt (w : W) (s level va pa : Nat) : Quiet w (w.pteAt s level va pa).2 := by
  unfold W.pteAt
  dsimp only
  repeat' split
  all_goals exact Quiet.refl _

theorem Quiet.touch {a w : W} (h : Quiet a w) (n : Nat) : Quiet a (w.touch n) := h.trans (quiet_touch w n)

theorem Quiet.uncorrectable {a w : W} (h : Quiet a w) (s : Nat) (sp : Space) (b n : Nat) : Quiet a (w.uncorrectable s sp b n) :=
  h.trans (quiet_uncorrectable w s sp b n)

theorem Quiet.pteAt {a w : W} (h : Quiet a w) (s level va pa : Nat) : Quiet a (w.pteAt s level va pa).2 :=
  h.trans (quiet_pteAt w s level va pa)

theorem quiet_walkFrom (n : Nat) {w : W} (hw : w.sound) (s va level table : Nat) : Quiet w (W.walkFrom n w s va level table).2 := by
  induction n generalizing w level table with
  | zero => exact Quiet.refl _
  | succ n ih =>
    have found := ((Quiet.refl w).touch (hbmDom (hbmStack (table + 8 * (va / 2 ^ levelShift level % 512))))).finds hw .hbm
      (table + 8 * (va / 2 ^ levelShift level % 512))
    unfold W.walkFrom
    dsimp only
    split
    · exact Quiet.refl _
    split
    · exact found.uncorrectable ..
    have read := found.pteAt s level va (table + 8 * (va / 2 ^ levelShift level % 512))
    split
    · exact read
    split
    · exact read
    split
    · split <;> exact read
    split
    · exact read
    · exact read.trans (ih (read.sound hw) ..)

theorem quiet_walk {w : W} (hw : w.sound) (s va : Nat) : Quiet w (w.walk s va).2 := by
  unfold W.walk
  dsimp only
  repeat' split
  all_goals first | exact Quiet.refl _ | exact quiet_walkFrom _ hw ..

theorem quiet_localAcc {w : W} (hw : w.sound) (s va size : Nat) (u : Use) (g r : Bool) : Quiet w (w.localAcc s va size u g r).2 := by
  unfold W.localAcc
  have h := quiet_walk hw s va
  split
  · exact Quiet.refl _
  · split
    all_goals rename_i e; rw [e] at h; simp only at h
    · exact h
    · exact h
    · dsimp only
      repeat' split
      all_goals try dsimp only
      all_goals with_reducible first
        | exact h
        | exact h.touch _
        | exact h.finds hw _ _
        | exact h.uncorrectable _ _ _ _
        | exact (h.touch _).finds hw _ _
        | exact (h.touch _).uncorrectable _ _ _ _
        | exact (h.finds hw _ _).uncorrectable _ _ _ _
        | exact ((h.touch _).finds hw _ _).uncorrectable _ _ _ _

theorem quiet_loopAcc {w : W} (hw : w.sound) (s vc off size : Nat) (u : Use) : Quiet w (w.loopAcc s vc off size u).2 := by
  unfold W.loopAcc
  have h := quiet_localAcc hw (w.dev.viewTsag s) off size u true true
  split
  · exact Quiet.refl _
  · split
    · rename_i e; rw [e] at h; exact h
    · exact h

/-- The checks on an access change nothing but idle timers, cached translations, the free counter, corrected errors and the log (R211,
R514), where they find no uncorrectable error. -/
theorem quiet_access {w : W} (hw : w.sound) (s va size : Nat) (u : Use) : Quiet w (w.access s va size u).2 := by
  unfold W.access
  have h := quiet_localAcc hw s va size u false false
  dsimp only
  split
  · exact Quiet.refl _
  · split
    · split
      · exact Quiet.refl _
      · split
        · rename_i e
          rw [e] at h
          split
          · exact h.trans (quiet_loopAcc (h.sound hw) ..)
          · exact h
        · exact h
    · repeat' split
      all_goals first | exact Quiet.refl _ | exact quiet_loopAcc hw ..

end Sys2Proof.Machine
end

