-- ==== Sys2Proof/Laws/Instr.lean ====
section
/-!
SUPPORT. Issuing a thread instruction: the work in which a fetched instruction acts.
-/
namespace Sys2Proof.Machine

@[simp] theorem Dev.vu_put (d : Dev) (cl vu c v : Nat) (x : Vu) :
    Dev.vu { d with cmp := { d.cmp with vus := Tab.put d.cmp.vus (4 * cl + vu) x } } c v =
      if 4 * c + v = 4 * cl + vu then x else d.vu c v := by
  simp [Dev.vu, Tab.look_put]

/-- An instruction that is fetched acts on the bundle with its program counter set; nothing else but what the checks of the fetch
touch has changed. -/
theorem W.instr_fetches {s : State} {x : At} {b : Bundle} (h : Fetches s x b) (f : W → Bundle → BitVec 16 → W) :
    ∃ w : W, s.work.instr x f = f w b (x.act &&& b.live) ∧ w.ws = [] ∧ w.mem = s.mem ∧ w.die = some (dieOf x.cl) ∧
      w.dev = { s.dev with
        pwr := w.dev.pwr, free := w.dev.free, log := w.dev.log
        cmp := { s.dev.cmp with
          mem := w.dev.cmp.mem
          cecc := w.dev.cmp.cecc
          vus := Tab.put s.dev.cmp.vus (4 * x.cl + x.vu) { s.dev.vu x.cl x.vu with bundle := some { b with pc := x.pc } } } } := by
  obtain ⟨hc, he, p, w, ha⟩ := h
  refine ⟨w, ?_, ?_⟩
  · have : s.work.dev.canIssue x = some b := hc
    simp only [W.instr, this, W.fetched, ha]
  · have q := quiet_access
      (w := { ((s.work.bring x.ecc).touch x.cl).modBundle x.cl x.vu (fun b => { b with pc := x.pc }) with die := some (dieOf x.cl) })
      he b.sag x.pc.toNat 8 .fetch
    rw [ha] at q
    have hb : s.dev.bundle x.cl x.vu = some b := by
      unfold Dev.canIssue at hc
      split at hc
      · split at hc
        · rename_i e _; cases hc; exact e
        · cases hc
      · cases hc
    have hb' : (s.dev.vu x.cl x.vu).bundle = some b := hb
    have q := q.2
    simp only at q
    rw [q]
    refine ⟨rfl, rfl, rfl, ?_⟩
    simp [W.modBundle, W.touch, W.bring, W.modVu, W.modCmp, W.modDom, W.modDev, Dev.vu] at *
    simp [hb']

/-- The same for an instruction that names registers which no earlier operation will write. -/
theorem W.instrR_free {s : State} {x : At} {regs : List Nat} (hr : regs.any (s.dev.regBusy x.cl x.vu) = false) (f : W → Bundle → BitVec 16 → W) :
    s.work.instrR x regs f = s.work.instr x f := by
  unfold W.instrR
  simp only [State.work_dev, hr]
  rfl

end Sys2Proof.Machine
end

