-- ==== Sys2Proof/Laws/Waits.lean ====
section
/-!
SUPPORT. What the test of the waits at the end of a command does: to memory and every other unit nothing, and where no thread waits
on a word nothing at all.
-/
namespace Sys2Proof.Machine

@[simp] theorem W.settleWaits_mem (w : W) : w.settleWaits.mem = w.mem := rfl
@[simp] theorem W.settleWaits_ws (w : W) : w.settleWaits.ws = w.ws := rfl
@[simp] theorem W.settleWaits_was (w : W) : w.settleWaits.was = w.was := rfl
theorem W.settleWaits_dev (w : W) : w.settleWaits.dev =
    { w.dev with cmp := { w.dev.cmp with vus := w.settleWaits.dev.cmp.vus, sags := w.settleWaits.dev.cmp.sags } } := rfl

/-- A bundle that waits on no word is left as it is. -/
theorem settled_noWord {b : Bundle} (h : b.noWord = true) (now : Nat) (ms : List Mem) : settled now ms b = b := by
  unfold settled
  unfold Bundle.noWord at h
  split <;> simp_all

/-- A table whose entries a change leaves alone is left alone. -/
theorem mapV_fixed {α : Type} {f : Nat → α → α} {t : Tab α} (h : ∀ x ∈ t, f x.1 x.2 = x.2) : Tab.mapV f t = t :=
  (List.map_congr_left fun x hx => by rw [h x hx]).trans (List.map_id' t)

/-- Where no thread waits on a word, the test of the waits changes nothing. -/
theorem W.settleWaits_noWaits {w : W} (h : w.dev.noWaits = true) : w.settleWaits = w := by
  simp only [Dev.noWaits, Bool.and_eq_true, List.all_eq_true] at h
  have hv : w.settleWaits.dev.cmp.vus = w.dev.cmp.vus := by
    show Tab.mapV (fun _ v => { v with bundle := v.bundle.map (settled w.dev.now (memTrail w.was (w.ws.reverse.drop w.skip))) }) w.dev.cmp.vus = _
    refine mapV_fixed fun x hx => ?_
    have hm : x.2.bundle.map (settled w.dev.now (memTrail w.was (w.ws.reverse.drop w.skip))) = x.2.bundle := by
      have hb := h.1 x hx
      cases hx' : x.2.bundle with
      | none => rfl
      | some b => exact congrArg some (settled_noWord (by simpa [hx'] using hb) _ _)
    simp only [hm]
  have hs : w.settleWaits.dev.cmp.sags = w.dev.cmp.sags := by
    show Tab.mapV (fun _ (g : Sag) =>
      { g with saved := g.saved.map fun (y : Saved) => { y with bundle := settled w.dev.now (memTrail w.was (w.ws.reverse.drop w.skip)) y.bundle } })
      w.dev.cmp.sags = _
    refine mapV_fixed fun x hx => ?_
    have hm : x.2.saved.map (fun (y : Saved) => { y with bundle := settled w.dev.now (memTrail w.was (w.ws.reverse.drop w.skip)) y.bundle }) = x.2.saved :=
      (List.map_congr_left fun y hy => by rw [settled_noWord (h.2 x hx y hy)]).trans (List.map_id' _)
    simp only [hm]
  have hd := W.settleWaits_dev w
  rw [hv, hs] at hd
  calc w.settleWaits = { w with dev := w.settleWaits.dev } := rfl
    _ = w := by rw [hd]

/-- A command that may end waits completes, with its work's effect where no thread waits after it. -/
theorem completes_actMem {i : Instr} {s : State} {f : W → W} {P : State → Prop} (h : exec i s = actMem f s)
    (hw : (f s.work).dev.noWaits = true) (hp : P (s.after (f s.work))) : Completes i s P :=
  ⟨_, h, by simpa only [W.settleWaits_noWaits hw] using hp⟩

/-- What a command that may end waits leaves in memory is what its work leaves. -/
theorem after_settled_mem (s : State) (w : W) : (s.after w.settleWaits).mem = (s.after w).mem := rfl

end Sys2Proof.Machine
end

