-- ==== Sys2Proof/Tests/Slice0.lean ====
section
/-!
SUPPORT. Tests of one step each, an ill-formed term for every check of a command's form, and for every statement that has
hypotheses a state and operands that meet them.
-/
namespace Sys2Proof.Tests
open Sys2Proof Sys2Proof.Machine

/- One theorem is elaborated and checked at a time: a thread per waiting kernel check would exhaust the memory. -/
set_option Elab.async false

/-- A pair from its first part. -/
theorem pair_of_fst {α β : Type} {p : α × β} {a : α} (h : p.1 = a) : p = (a, p.2) := Prod.ext h rfl

theorem ok_of {ε α β : Type} {p : Except ε α × β} (h : p.1.toOption.isSome = true) : ∃ a b, p = (.ok a, b) := by
  obtain ⟨_ | a, b⟩ := p
  · cases h
  · exact ⟨a, b, rfl⟩
theorem ok_is {ε α β : Type} {p : Except ε α × β} {a : α} (h : p.1.toOption = some a) : p = (.ok a, p.2) := by
  obtain ⟨_ | x, b⟩ := p
  · cases h
  · cases h; rfl
theorem ok_unit {ε β : Type} {p : Except ε Unit × β} (h : p.1.toOption.isSome = true) : ∃ b, p = (.ok (), b) :=
  let ⟨_, b, e⟩ := ok_of h
  ⟨b, e⟩

/-- Every domain a test uses ACTIVE: clusters 0 and 1, the hub, the ports, the stacks. -/
def doms : Tab Dom := [0, 1, 256, 257, 258, 259, 260, 261, 262, 263, 264, 265, 266, 267, 268, 269, 270, 271, 272, 273, 274, 275, 276].map
  fun n => (n, Dom.at .active)

/-- A chip in READY: rails on, host link up, clusters 0 and 1 online and owned by saggar 0, which runs. -/
def ready : State :=
  { State.reset with dev := { State.reset.dev with
      now := 1000000000
      aon := { Aon.reset with powered := true, vaux := 3300 }, start := { Start.reset with state := .ready, strap := 4 }
      sup := { Sup.reset with pwron := true, seq := .on, good := 0x3C }
      pci := { Pci.reset with up := true, perst := false, fns := [(0, PciFn.reset)] }
      pwr := { Pwr.reset with doms := doms }
      cmp := { Compute.reset with
        clusters := [(0, { Cluster.reset with online := true, owner := some 0 }), (1, { Cluster.reset with online := true })]
        sags := [(0, { Sag.reset with st := .running, en := true })]
        nsec := [(0, 0x80)] } } }

/-- Memory with the tables of saggar 0: its first GiB is HBM3E from 0 on, readable, writable, executable, for atomics and other chips too;
the first page
of the second GiB is the register view, its second page the HBM3E page at 0x5000. -/
def tables : Mem := { Mem.reset with hbm := [(0x1001, 0x20), (0x1007, 0x80), (0x2000, 0xC0), (0x2001, 0x0F), (0x2007, 0x80),
  (0x2009, 0x30), (0x200F, 0x80), (0x3001, 0x40), (0x3007, 0x80), (0x4001, 0x0E), (0x4007, 0xB0),
  (0x4008, 0x80), (0x4009, 0x5F), (0x400F, 0x80)] }

def bundle : Bundle :=
  { sag := 0, launch := 0, bix := 0, pc := 0, live := 0xFFFF, vr := [(0, 5), (64, 7)], mr := [], fflags := [(1, 0x11)], waiting := .no
    faulted := false, trap := .no, storePoison := false, owes := [], memOut := 0, asyncOut := 0, term := false, seed := 0 }

def at0 : At := ⟨0, 0, 0x40, 0xFFFF, []⟩

/-- A chip on which a bundle of saggar 0 runs on cluster 0. -/
def threads : State :=
  { ready with
    mem := tables
    dev := { ready.dev with cmp := { ready.dev.cmp with
      mem := [(0, { MemPage.reset with cur := { MemSet.reset with root := 0x1001, lim := 0x40000000 } })]
      vus := [(0, { Vu.reset with bundle := some bundle })]
      thr := [(0, { Thr.reset with launches := [⟨0, 0, false, none, false, 16, 0, 0, 0, 0, 1, 1, 0, 0, false, false, false⟩] })] } } }

theorem wit_threads_safe : threads.safe := by unfold State.safe; decide +kernel

/-- A bundle of saggar 0 issues at 0x40. -/
def fetchOk (s : State) (b : Bundle) : Bool := decide (s.dev.canIssue at0 = some b) &&
  decide ((W.access { ((s.work.bring at0.ecc).touch at0.cl).modBundle at0.cl at0.vu (fun b => { b with pc := at0.pc }) with die := some (dieOf at0.cl) }
    b.sag at0.pc.toNat 8 .fetch).1 = .ok (.hbm 0x40))
theorem fetches_of {s : State} {b : Bundle} (h : fetchOk s b = true) : Fetches s at0 b := by
  rw [fetchOk, Bool.and_eq_true, decide_eq_true_iff, decide_eq_true_iff] at h
  exact ⟨h.1, fun _ m => (List.not_mem_nil m).elim, .hbm 0x40, _, pair_of_fst h.2⟩
/-- It reads its command at 0x10000. -/
def readOk (s : State) (l : List Byte) : Bool := fetchOk s bundle && !s.dev.memWaits at0 &&
  decide (((s.fetched at0 bundle).fetchVa bundle.sag 0x10000 64 (.operand false)).1 = .bytes l)
theorem reads_of {s : State} {l : List Byte} (h : readOk s l = true) : ReadsCommand s at0 bundle 0x10000 64 l
    ((s.fetched at0 bundle).fetchVa bundle.sag 0x10000 64 (.operand false)).2 := by
  simp only [readOk, Bool.and_eq_true, Bool.not_eq_true', decide_eq_true_iff] at h
  exact ⟨fetches_of h.1.1, h.1.2, rfl, pair_of_fst h.2⟩
theorem none_of {α : Type} {o : Option α} (h : o.isNone = true) : o = none := Option.isNone_iff_eq_none.mp h

theorem wit_fetches : Fetches threads at0 bundle := fetches_of (by decide +kernel)
theorem wit_serves : ready.dev.serves .pf .glob = true ∧ ready.dev.serves .con .aon = true ∧ ready.dev.serves .con (.view 127 true) = true ∧
    ready.dev.serves .pf (.view 0 false) = true ∧ ready.dev.noWaits = true ∧ ready.dev.nothingHeld = true := by decide +kernel


/-- A command completes with a check of the state it leaves. -/
def done (i : Instr) (s : State) (p : State → Bool) : Bool := match exec i s with | .next t => p t | _ => false
theorem completes_of_done {i : Instr} {s : State} {p : State → Bool} (h : done i s p = true) : Completes i s fun t => p t = true := by
  unfold done at h
  split at h
  · exact ⟨_, ‹_›, h⟩
  · cases h

/-! Forms that are refused. -/

def memOps (w : MemWidth) (n : Nat) : MemArgs := ⟨w, 1, 0, List.replicate n 0x10000⟩
def amoOps (n : Nat) (size64 : Bool := false) (scope : Fin 3 := 0) : AmoArgs := ⟨size64, 0, scope, 2, 1, 3, List.replicate n 0x10000⟩
def refused (i : Instr) : Bool := match exec i ready with | .refused .illFormed => true | _ => false

theorem test_refused_registers : [.registerWrite .pf 0x4000000 (.word 0), .registerWrite (.vf 1) 0x10000 (.word 0),
    .registerReadClear .con ⟨0x4000000, false⟩, .registerReadClear (.vf 63) ⟨0x10000, true⟩, .registerWrite (.reg 0) 0x500 (.pair 0),
    .registerReadClear (.reg 127) ⟨0x500, true⟩, .badRegisterAccess .pf 0x4000001 4 false, .badRegisterAccess .pf 0x20 4 false,
    .badRegisterAccess .con 0x28 8 true].map refused = List.replicate 9 true := by decide +kernel
theorem test_refused_loads : [.load at0 (memOps .w4 15) .ok, .load at0 (memOps .w64 16) .ok, .store at0 (memOps .w8 1),
    .store at0 (memOps .w64 0)].map refused = List.replicate 4 true := by decide +kernel
theorem test_refused_amos : [AmoOp.load, .store, .swap, .cas, .add, .fadd, .smin, .smax, .umin, .umax, .and, .or, .xor].map
    (fun op => refused (amoInstr op at0 (amoOps 15))) = List.replicate 13 true := by decide +kernel
theorem test_refused_flits : let f : List Byte := List.replicate 255 0
    [Instr.ident 0 f, .auth 0 f, .arm 0 f, .resume 0 f, .data 0 f, .nullFlit 0 f, .nak 0 f, .train 0 f, .down 0 f].map refused =
      List.replicate 9 true := by decide +kernel
theorem test_refused_misc : [Instr.msixUnmask 1 4, .tableStoreError false 64 true none, .throttleRelease ⟨[(1, 0), (2, 0)], 0, 0⟩,
    .join 0 0 0 ⟨5, true, 0, 0, 0, [none]⟩, .update 0 0 0 ⟨5, [none], 0⟩, .handover 0 0 0 ⟨5, [⟨5, none, 0, true, [none]⟩], [], 0⟩,
    .sliceCommitMsg 0 0 0 1 2 [⟨5, none, 0, true, [none]⟩]].map refused = List.replicate 7 true := by decide +kernel

/-! For every statement with hypotheses, a state and operands that meet them. -/

theorem wit_queue : ({ ready with pending := [.dvfsTransitionDone] } : State).pending = .dvfsTransitionDone :: [] ∧ State.reset.pending = [] := by decide +kernel
theorem wit_well_formed : Instr.dvfsTransitionDone.wf = true ∧ (Instr.registerWrite .pf 0x4000000 (.word 0)).wf = false := by decide +kernel
theorem wit_exec_next : ∃ t, exec (.aonPowerOn 4 true) State.reset = .next t :=
  let ⟨t, h, _⟩ := completes_of_done (i := .aonPowerOn 4 true) (s := State.reset) (p := fun t => t.dev.aon.powered) (by decide +kernel)
  ⟨t, h⟩
theorem wit_step_safe : ∃ t, State.reset.safe ∧ step State.reset = .next t := ⟨_, by unfold State.safe; decide +kernel, rfl⟩
theorem wit_bad_access : [(1, 4), (2, 8), (0x3FFFFFC, 2), (4, 8), (0x3FFFFFF, 4)].all (fun x => decide (x.1 < agentSpace .pf) && badAccess x.1 x.2 &&
    ready.dev.serves .pf (ready.dev.refPlace .pf (ready.dev.regRef .pf x.1) false)) = true := by decide +kernel
/-- Function 1 of saggar 0 writes its read-only counters in the wrong size. -/
def mapped : State := { ready with dev := { ready.dev with pci := { ready.dev.pci with vfEnable := true, vfmap := [(0, 0x80)] } } }
theorem wit_bad_access_vf : [(0x400, 2), (0x42E, 4), (0x404, 8), (0xFFFF, 4)].all (fun x => decide (x.1 < agentSpace (.vf 0)) && badAccess x.1 x.2 &&
    mapped.dev.serves (.vf 0) (mapped.dev.refPlace (.vf 0) (mapped.dev.regRef (.vf 0) x.1) false)) = true := by decide +kernel
/-- Accesses of 8 bytes: MEM.INVA, and the pair of counters of a saggar. -/
theorem wit_wide_access : ready.dev.serves .pf (.view 127 false) = true ∧ (0x38000 + 0x80 * 127 + 0x18) % 8 = 0 ∧ (0x8000 + 0x10 * 127) % 8 = 0 := by decide +kernel
theorem test_wide_write : done (.registerWrite .pf 0x38018 (.pair 0x123456789ABCDEF0)) ready (fun t => (t.dev.mpage 0).inva == 0x123456789ABCDEF0) = true := by
  decide +kernel

/-- The hub's clock at half rate, towards full rate. -/
def dvfs : State := { ready with dev := { ready.dev with hub := { ready.dev.hub with cur := 3, tgt := 5, dvfs := some 5 } } }
theorem wit_clock_target : ready.dev.serves .pf .glob = true ∧ (5 : BitVec 4) ≤ 8 ∧ 5 ≠ ready.dev.hub.cur ∧ 5 ≠ ready.dev.hub.tgt ∧
    ready.dev.hub.dvfs = none ∧ ready.dev.dvfsOpen 5 = true ∧ (9 : BitVec 4) > 8 ∧ dvfs.dev.serves .con .glob = true ∧
    dvfs.dev.hub.dvfs = some dvfs.dev.hub.tgt ∧ dvfs.dev.dvfsOpen dvfs.dev.hub.tgt = true ∧ dvfs.dev.hub.dvfs ≠ some 3 ∧
    dvfs.dev.hub.again = false := by decide +kernel
/-- A raise given up while the throttle held it back: the point in force is set again. -/
def givenUp : State := { ready with dev := { ready.dev with hub := { ready.dev.hub with cur := 3, tgt := 7, again := true }, sup := { ready.dev.sup with vset := vcoreSet 5 } } }
theorem wit_clock_again : givenUp.dev.serves .pf .glob = true ∧ givenUp.dev.hub.dvfs = none ∧ givenUp.dev.hub.again = true ∧ givenUp.dev.hub.tgt ≠ 3 ∧
    givenUp.dev.hub.cur = 3 ∧ givenUp.dev.dvfsOpen 3 = true := by decide +kernel

theorem wit_flags : Fetches threads at0 bundle ∧ threads.dev.sfxOut at0.cl at0.vu = false ∧ threads.dev.regBusy at0.cl at0.vu 63 = false ∧
    bundle.sag < 128 ∧ (threads.dev.sag bundle.sag).ffull = false ∧ bundle.storePoison = false :=
  ⟨wit_fetches, by decide +kernel⟩

/-- `threads` with the registers of saggar 0 changed. -/
def withSag (s : State) (f : Sag → Sag) : State := { s with dev := { s.dev with cmp := { s.dev.cmp with sags := [(0, f (s.dev.sag 0))] } } }
def withThr (s : State) (f : Thr → Thr) : State := { s with dev := { s.dev with cmp := { s.dev.cmp with thr := [(0, f (s.dev.thr 0))] } } }
def withBundle (s : State) (b : Bundle) : State :=
  { s with dev := { s.dev with cmp := { s.dev.cmp with vus := [(0, { Vu.reset with bundle := some b })] } } }

theorem wit_fault_full : Fetches (withSag threads fun g => { g with ffull := true }) at0 bundle ∧
    ((withSag threads fun g => { g with ffull := true }).dev.sag 0).ffull = true :=
  ⟨fetches_of (by decide +kernel), by decide +kernel⟩

/-- Barrier 15 of saggar 0 one arrival short of two. -/
def arriving : State := withThr threads fun h => { h with bars := [(15, ⟨2, 1, 0⟩)] }
theorem wit_barrier : Fetches arriving at0 bundle ∧ (Tab.look ⟨0, 0, 0⟩ (arriving.dev.thr 0).bars 15).arrived + 1 = (2 : BitVec 16).toNat ∧
    (Tab.look ⟨0, 0, 0⟩ (arriving.dev.thr 0).bars 15).n = (2 : BitVec 16).toNat ∧
    (Tab.look ⟨0, 0, 0⟩ (arriving.dev.thr 0).bars 0).arrived = 0 ∧ arriving.dev.fenceOpen at0 false = true ∧
    (Tab.look ⟨0, 0, 0⟩ (arriving.dev.thr 0).bars 15).n ≠ (3 : BitVec 16).toNat ∧ bundle.storePoison = false ∧ (arriving.dev.sag bundle.sag).ffull = false :=
  ⟨fetches_of (by decide +kernel), by decide +kernel⟩

/-- The bundle of vector unit 1 is of the same launch. -/
def twoBundles : State :=
  { threads with dev := { threads.dev with cmp := { threads.dev.cmp with
      vus := [(0, { Vu.reset with bundle := some bundle }), (1, { Vu.reset with bundle := some { bundle with bix := 1 } })] } } }
theorem wit_cbar : Fetches twoBundles at0 bundle ∧ twoBundles.dev.noWaits = true ∧ twoBundles.dev.fenceOpen at0 false = true ∧
    twoBundles.dev.bundle at0.cl 1 = some { bundle with bix := 1 } :=
  ⟨fetches_of (by decide +kernel), by decide +kernel⟩
/-- The other bundle waits at the cluster barrier: this one's arrival, or the end of its lanes, releases it. -/
def lastArrives : State :=
  { threads with dev := { threads.dev with cmp := { threads.dev.cmp with
      vus := [(0, { Vu.reset with bundle := some bundle }), (1, { Vu.reset with bundle := some { bundle with bix := 1, waiting := .cbar } })] } } }
theorem wit_cbar_release : Fetches lastArrives at0 bundle ∧ lastArrives.dev.noWaits = true ∧ lastArrives.dev.fenceOpen at0 false = true ∧
    lastArrives.dev.bundle at0.cl 1 = some { bundle with bix := 1, waiting := .cbar } ∧ bundle.storePoison = false ∧ bundle.live &&& ~~~(at0.act &&& bundle.live) = 0 :=
  ⟨fetches_of (by decide +kernel), by decide +kernel⟩

def poisoned : Bundle := { bundle with storePoison := true }
theorem wit_fence : Fetches threads at0 bundle ∧ threads.dev.fenceOpen at0 false = true ∧ threads.dev.fenceOpen at0 true = true ∧
    Fetches (withBundle threads poisoned) at0 poisoned ∧ (withBundle threads poisoned).dev.fenceOpen at0 true = true :=
  ⟨wit_fetches, by decide +kernel, by decide +kernel, fetches_of (by decide +kernel), by decide +kernel⟩
/-- It arrives at a barrier, or ends, before the failure is reported. -/
theorem wit_poisoned_arrives : let s := withBundle threads poisoned
    Fetches s at0 poisoned ∧ s.dev.noWaits = true ∧ s.dev.fenceOpen at0 false = true ∧ poisoned.storePoison = true ∧ (s.dev.sag poisoned.sag).ffull = false :=
  ⟨fetches_of (by decide +kernel), by decide +kernel⟩
theorem wit_issue_reports : let s := withBundle threads poisoned
    poisoned.storePoison = true ∧ s.dev.noWaits = true ∧ s.dev.memWaits at0 = false ∧ s.dev.regBusy at0.cl at0.vu 1 = false ∧
    (sfxOf (0x3A01_0000_0204_0000 : DWord).toNat).ok = true ∧
    [(sfxOf (0x3A01_0000_0204_0000 : DWord).toNat).dst, (sfxOf (0x3A01_0000_0204_0000 : DWord).toNat).src,
      (sfxOf (0x3A01_0000_0204_0000 : DWord).toNat).gsrc].any (fun r => s.dev.regBusy at0.cl at0.vu r) = false ∧
    (s.dev.sag poisoned.sag).ffull = false := by decide +kernel

theorem wit_wait : Fetches threads at0 bundle ∧ threads.dev.noWaits = true ∧ threads.dev.memWaits at0 = false ∧ threads.dev.regBusy at0.cl at0.vu 2 = false ∧
    ∃ w, (threads.fetched at0 bundle).access bundle.sag (0x10000 : DWord).toNat 4 .wait = (.ok (.hbm 0x10000), w) :=
  ⟨wit_fetches, by decide +kernel, by decide +kernel, by decide +kernel, _, pair_of_fst (by decide +kernel)⟩

def waiter : Bundle := { bundle with waiting := .word false 0x10000 0x10000 .uge 1 1000000000 2 0xFFFF }
theorem wit_wait_timeout : (withBundle threads waiter).dev.bundle 0 0 = some waiter ∧
    waiter.waiting = .word false 0x10000 0x10000 .uge 1 1000000000 2 0xFFFF ∧ waiter.trap = .no ∧
    1000000000 ≤ (withBundle threads waiter).dev.now := by decide +kernel
/-- The wait of a bundle saved from vector unit 3 is over too. -/
theorem wit_wait_saved : let s := withSag (withBundle threads waiter) fun g => { g with saved := [⟨0, 3, waiter, [], 0⟩] }
    s.dev.bundle 0 0 = some waiter ∧ (s.dev.sag 0).saved = [⟨0, 3, waiter, [], 0⟩] ∧ 1000000000 ≤ s.dev.now := by decide +kernel

def vecArgs : VecArgs := ⟨.fadd, 0, 0, 2, 1, 0, 1, 0⟩
def cvtArgs : CvtArgs := ⟨2, 0, 0, 0, 0, 3, 0, false, 0, false, 3, false, 0, 0⟩
theorem wit_vector : Fetches threads at0 bundle ∧ [vecArgs.dst, vecArgs.a, vecArgs.b, vecArgs.c].any
      (fun r => threads.dev.regBusy at0.cl at0.vu r) = false ∧
    vecFmtOk .fadd .b32 = true ∧ vecFmtOk .fadd .i32 = false ∧ cvtInts cvtArgs.i1 cvtArgs.i2 = some [] ∧ pathValid [] .e4m3 = true ∧
    Fmt.ofCode vecArgs.fmt = some .b32 ∧ Fmt.ofCode (15 : Fin 16) = none ∧ [cvtArgs.dst, cvtArgs.src, cvtArgs.sdst].any (fun r => threads.dev.regBusy at0.cl at0.vu r) = false :=
  ⟨wit_fetches, by decide +kernel⟩

/-- Runs at one place. -/
def runsAt (p : Place) (l : List Piece) : List (Piece × Place) := l.map fun x => (x, p)
/-- The runs of a memory instruction pass their checks at these places. -/
def reachOk (s : State) (regs : List Nat) (u : Use) (ps : List Piece) (q : List (Piece × Place)) : Bool :=
  fetchOk s bundle && s.dev.noWaits && !s.dev.memWaits at0 && !(regs.any fun r => s.dev.regBusy at0.cl at0.vu r) &&
  decide ((W.resolve (s.fetched at0 bundle) bundle.sag u ps []).1 = .all (q.map fun p => (p.1, some p.2)))
theorem reaches_of {s : State} {regs : List Nat} {u : Use} {ps : List Piece} {q : List (Piece × Place)} (h : reachOk s regs u ps q = true) :
    Reaches s at0 bundle regs u ps q := by
  simp only [reachOk, Bool.and_eq_true, Bool.not_eq_true', decide_eq_true_iff] at h
  exact ⟨fetches_of h.1.1.1.1, h.1.1.1.2, h.1.1.2, h.1.2, _, pair_of_fst h.2⟩
def piecesFor (a : MemArgs) : List Piece := memPieces a (at0.act &&& bundle.live)
theorem reaches_load : Reaches threads at0 bundle [(memOps .w4 16).reg] (.load (memBytes .w4)) (piecesFor (memOps .w4 16))
    (runsAt (.hbm 0x10000) (piecesFor (memOps .w4 16))) := reaches_of (by decide +kernel)
theorem reaches_load64 : Reaches threads at0 bundle [(memOps .w64 1).reg] (.load (memBytes .w64)) (piecesFor (memOps .w64 1))
    (runsAt (.hbm 0x10000) [⟨0, 0, 0x10000, 64⟩]) := reaches_of (by decide +kernel)
theorem wit_load : (memOps .w4 16).wf = true ∧ (memOps .w64 1).wf = true ∧ threads.dev.tagsFree 0 = true ∧ bundle.sag < 128 ∧ threads.mem.wf = true ∧
    (runsAt (.hbm 0x10000) (piecesFor (memOps .w4 16))).all (fun p => threads.dev.performs bundle.sag p.2) = true := by decide +kernel
theorem reaches_store : Reaches threads at0 bundle [(memOps .w1 16).reg] (.store (memBytes .w1)) (piecesFor (memOps .w1 16))
    (runsAt (.hbm 0x10000) (piecesFor (memOps .w1 16))) := reaches_of (by decide +kernel)
def amoPieces (n : Nat) (a : AmoArgs) : List Piece := (lanesOf (at0.act &&& bundle.live)).map fun k => ⟨k, 0, (a.addrs.getD k 0).toNat, n⟩
theorem reaches_amo : Reaches threads at0 bundle [(amoOps 16).dst, (amoOps 16).src, (amoOps 16).cmp] (.amo 4 (amoReads .fadd) (amoWrites .fadd))
    (amoPieces 4 (amoOps 16)) (runsAt (.hbm 0x10000) (amoPieces 4 (amoOps 16))) := reaches_of (by decide +kernel)
theorem reaches_amo64 : Reaches threads at0 bundle [2, 1, 3] (.amo 8 (amoReads .cas) (amoWrites .cas))
    (amoPieces 8 (amoOps 16 true)) (runsAt (.hbm 0x10000) (amoPieces 8 (amoOps 16 true))) := reaches_of (by decide +kernel)
/-- Besides, the page of the tables at 0x40003000 is the host's at 0x7000, and the one at 0x40004000 lies at chip 6, on channel 1. -/
def wideTables : Mem := (tables.apply1 (.bytes .hbm 0x4018 (leBytes 8 0xA000000000007F00))).apply1 (.bytes .hbm 0x4020 (leBytes 8 0xC006000000008F88))
/-- Saggar 0 reaches chip 6, which this chip, number 5, knows as a member. -/
def wide : State := { threads with
  mem := wideTables
  dev := { threads.dev with fab := { Fab.reset with state := .admitted, chip := some 5, sliceid := 3, masterChip := some 6, memberChips := [5, 6] } } }
def ops (w : MemWidth) (a : DWord) : MemArgs := ⟨w, 1, 0, List.replicate (if w = .w64 then 1 else 16) a⟩
def hostOps : MemArgs := ops .w8 0x40003000
def remOps : MemArgs := ops .w8 0x40004000
theorem reaches_host : Reaches wide at0 bundle [1] (.load 8) (piecesFor hostOps) (runsAt (.host 0 0x7000) (piecesFor hostOps)) ∧
    Reaches wide at0 bundle [1] (.store 8) (piecesFor hostOps) (runsAt (.host 0 0x7000) (piecesFor hostOps)) :=
  ⟨reaches_of (by decide +kernel), reaches_of (by decide +kernel)⟩
theorem reaches_remote : Reaches wide at0 bundle [1] (.load 8) (piecesFor remOps) (runsAt (.remote 6 1 0x8000) (piecesFor remOps)) ∧
    Reaches wide at0 bundle [1] (.store 8) (piecesFor remOps) (runsAt (.remote 6 1 0x8000) (piecesFor remOps)) :=
  ⟨reaches_of (by decide +kernel), reaches_of (by decide +kernel)⟩
theorem reaches_remote_amo : Reaches wide at0 bundle [2, 1, 3] (.amo 4 (amoReads .cas) (amoWrites .cas)) (amoPieces 4 ⟨false, 0, 0, 2, 1, 3, List.replicate 16 0x40004000⟩)
    (runsAt (.remote 6 1 0x8000) (amoPieces 4 ⟨false, 0, 0, 2, 1, 3, List.replicate 16 0x40004000⟩)) := reaches_of (by decide +kernel)
theorem wit_elsewhere : wide.mem.wf = true ∧ hostOps.wf = true ∧ remOps.wf = true ∧ wide.dev.performs 0 (.host 0 0x7000) = true ∧
    wide.dev.performs 0 (.remote 6 1 0x8000) = true ∧ (hostRuns (runsAt (.host 0 0x7000) (piecesFor hostOps))).length = 16 ∧ wide.dev.tagsFree 16 = true ∧
    (remoteRuns (runsAt (.remote 6 1 0x8000) (piecesFor remOps))).length = 16 := by decide +kernel
/-- A READ goes to the other chip for each lane, and a WRITE. -/
theorem test_remote_load : done (.load at0 remOps .ok) wide (fun t => decide (t.dev.fab.ops.length = 16) &&
    (t.dev.bundle 0 0).any fun b => b.memOut == 16) = true := by decide +kernel
theorem test_remote_store : done (.store at0 remOps) wide (fun t => decide (t.dev.fab.ops.length = 16) &&
    t.dev.fab.ops.all fun o => o.chip == 6 && o.vc == 1 && o.addr == 0x40004000) = true := by decide +kernel
/-- A bundle with a failed store posts to THR.L0PROD through the register page. -/
def postOps : MemArgs := ops .w4 0x4000030C
theorem wit_post_reports : let s := withBundle threads poisoned
    postOps.wf = true ∧ poisoned.memOut = 0 ∧ s.dev.posts (some (.reg 0 0x30C)) = true ∧
    Reaches s at0 poisoned [1] (.store 4) (memPieces postOps (at0.act &&& poisoned.live)) (runsAt (.reg 0 0x30C) (memPieces postOps (at0.act &&& poisoned.live))) :=
  ⟨by decide +kernel, by decide +kernel, by decide +kernel, fetches_of (by decide +kernel), by decide +kernel, by decide +kernel, by decide +kernel, _,
    pair_of_fst (by decide +kernel)⟩
theorem wit_amo : (amoOps 16).wf = true ∧ (amoOps 16).size64 = false ∧ amoRelease ⟨true, 2, 2, 2, 1, 3, []⟩ = true ∧
    threads.dev.fenceOpen at0 true = true ∧ bundle.storePoison = false := by decide +kernel

/-- One address for a load: misaligned in the register view, or not mapped. -/
def badOps (a : DWord) : MemArgs := ⟨.w4, 1, 0, List.replicate 16 a⟩
theorem wit_align_fault : Fetches threads at0 bundle ∧ threads.dev.memWaits at0 = false ∧ threads.dev.regBusy at0.cl at0.vu 1 = false ∧ ∃ w,
    W.resolve (threads.fetched at0 bundle) bundle.sag (.load (memBytes .w4)) (memPieces (badOps 0x40000002) (at0.act &&& bundle.live)) [] =
      (.fault .align 0x40000002, w) :=
  ⟨wit_fetches, by decide +kernel, by decide +kernel, _, pair_of_fst (by decide +kernel)⟩
theorem wit_reach_free : threads.dev.noWaits = true ∧ threads.dev.memWaits at0 = false := by decide +kernel
theorem wit_mem_fault : ∃ w, W.resolve (threads.fetched at0 bundle) bundle.sag (.store (memBytes .w4))
    (memPieces (badOps 0x40200000) (at0.act &&& bundle.live)) [] = (.fault (.mem 1) 0x40200000, w) := ⟨_, pair_of_fst (by decide +kernel)⟩

theorem wit_saggar : [Agent.pf, .con].all (fun ag => ready.dev.serves ag (.view 0 true) && ready.dev.serves ag (.view 127 true)) = true ∧
    (ready.dev.sag 0).st = .running ∧ (ready.dev.sag 127).st = .off ∧
    ((withSag ready fun g => { g with st := .draining }).dev.sag 0).st = .draining ∧
    ready.dev.serves (.vf 127) (.view 127 true) = false := by decide +kernel

def killing : State := withSag ready fun g => { g with st := .killing }
theorem wit_kill_done : (killing.dev.sag 0).st = .killing ∧ killing.dev.sagQuiet 0 = true ∧ (killing.dev.thr 0).launches = [] ∧
    killing.dev.launchReading 0 = false ∧ (killing.dev.thr 0).r0.ready = false ∧ (killing.dev.thr 0).r1.ready = false := by decide +kernel

/-- A fault record and a trap record of saggar 0 are full; the bundle is halted by the one or the other. -/
def recorded (b : Bundle) : State :=
  withSag (withBundle threads b) fun g => { g with ffull := true, fmore := 3, tfull := true, twho := some ⟨0, 0, 0, 0, 0, 0, 0x40⟩ }
def faultedB : Bundle := { bundle with faulted := true }
def trapped : Bundle := { bundle with trap := .halted }
theorem wit_acks : (recorded faultedB).dev.serves .pf (.view 0 false) = true ∧ ((recorded faultedB).dev.sag 0).ffull = true ∧
    (recorded faultedB).dev.bundle 0 0 = some faultedB ∧ faultedB.faulted = true ∧ faultedB.trap = .no ∧
    ((recorded trapped).dev.sag 0).tfull = true ∧ ((recorded trapped).dev.sag 0).twho = some ⟨0, 0, 0, 0, 0, 0, 0x40⟩ ∧
    (recorded trapped).dev.bundle 0 0 = some trapped ∧ Issuer.owns ⟨0, 0, 0, 0, 0, 0, 0x40⟩ trapped = true ∧ trapped.trap = .halted ∧
    trapped.term = false ∧ trapped.faulted = false := by decide +kernel

/-- Two poison entries of saggar 0: a store's channel to chip 5, and DMA queue 1. -/
def poisons : State := withSag ready fun g => { g with poison := [⟨0, 3, 5, 0, 2⟩, ⟨1, 0, 0, 1, 1⟩] }
theorem wit_poison : poisons.dev.serves .pf (.view 0 false) = true ∧
    (poisons.dev.sag 0).poison = [⟨0, 3, 5, 0, 2⟩] ++ (⟨1, 0, 0, 1, 1⟩ : Poison) :: [] ∧
    (⟨1, 0, 0, 1, 1⟩ : Poison).word = (BitVec.ofNat 32 (⟨1, 0, 0, 1, 1⟩ : Poison).word).toNat ∧
    (⟨0, 3, 5, 0, 2⟩ : Poison).word ≠ (BitVec.ofNat 32 (⟨1, 0, 0, 1, 1⟩ : Poison).word).toNat ∧
    (poisons.dev.sag 0).poison.all (fun p => decide (p.word ≠ (0 : Word).toNat)) = true := by decide +kernel

theorem wit_lnch : (threads.dev.thr bundle.sag).r1.held < (threads.dev.thr bundle.sag).r1.entries ∧
    threads.dev.regBusy at0.cl at0.vu 1 = false ∧
    ∃ w, W.access { threads.fetched at0 bundle with dev := { (threads.fetched at0 bundle).dev with free := (threads.fetched at0 bundle).dev.free + 16 } } bundle.sag
      ((threads.dev.thr bundle.sag).r1.entryAddr (threads.dev.thr bundle.sag).r1.prod.toNat) 64 .post = (.ok (.hbm 0), w) :=
  ⟨by decide +kernel, by decide +kernel, _, pair_of_fst (by decide +kernel)⟩
def ringFull : State := withThr threads fun h => { h with r1 := { h.r1 with prod := 16 } }
theorem wit_lnch_full : Fetches ringFull at0 bundle ∧ (ringFull.dev.thr bundle.sag).r1.held ≥ (ringFull.dev.thr bundle.sag).r1.entries ∧
    ringFull.dev.noWaits = true :=
  ⟨fetches_of (by decide +kernel), by decide +kernel⟩

/-- A descriptor at the start of ring 0: 17 threads at 0x40, record at 0x100. -/
def descriptor : List Byte := leBytes 4 0x1000000 ++ leBytes 4 17 ++ leBytes 8 0x40 ++ List.replicate 32 0 ++ leBytes 8 0x100 ++ List.replicate 8 0
def posted : State := withThr { threads with mem := tables.apply1 (.bytes .hbm 0 descriptor) } fun h => { h with r0 := { h.r0 with prod := 1 } }
theorem wit_launch_take : posted.dev.noStall = true ∧ (posted.dev.sag 0).st = .running ∧ posted.dev.launchReading 0 = false ∧
    (posted.dev.thr 0).pick = some 0 ∧ leAt (posted.mem.bytes .hbm 0 64) 0x30 8 % 16 = 0 ∧ descBad (posted.mem.bytes .hbm 0 64) = false := by
  decide +kernel
theorem wit_launch_read : ∃ w, (posted.work.bring []).access 0 (((posted.dev.thr 0).ring 0).entryAddr ((posted.dev.thr 0).ring 0).cons.toNat) 64 .ring =
    (.ok (.hbm 0), w) := ⟨_, pair_of_fst (by decide +kernel)⟩

/-- A launch of 17 threads with one bundle dispatched. -/
def launch17 : Launch := ⟨0, 0, false, none, false, 17, 0x40, 0, 0, 0, 1, 1, 0, 0, false, false, false⟩
def launched : State := withThr threads fun h => { h with launches := [launch17] }
theorem wit_dispatch : (launched.dev.sag 0).st = .running ∧ launched.dev.toResume 0 = none ∧ (launched.dev.thr 0).current = some launch17 ∧
    launched.dev.placeFor 0 false = some (0, 1) := by decide +kernel
def exited : Bundle := { bundle with live := 0 }
def exiting : State := withThr (withBundle threads exited) fun h => { h with launches := [launch17] }
theorem wit_bundle_exit : exiting.dev.bundle 0 0 = some exited ∧ exited.live = 0 ∧ exited.memOut = 0 ∧ exited.asyncOut = 0 ∧
    exited.storePoison = false ∧ exited.owes = [] ∧ exited.trap = .no ∧ exited.faulted = false ∧ exiting.dev.noStall = true ∧
    exiting.dev.launchOf 0 0 = some launch17 ∧ (exiting.dev.cl 0).switching = none ∧
    exiting.dev.admits 0 = true ∧ ({ launch17 with running := 0 } : Launch).ended = false := by decide +kernel
def atBarrier : Bundle := { bundle with waiting := .sbar 15 0xFFFF }
def late : State := withThr (withBundle threads atBarrier) fun h => { h with bars := [(15, ⟨2, 1, 990000000⟩)] }
theorem wit_barrier_timeout : (late.dev.thr 0).barto ≠ 0 ∧ (Tab.look ⟨0, 0, 0⟩ (late.dev.thr 0).bars 15).arrived ≠ 0 ∧
    (Tab.look ⟨0, 0, 0⟩ (late.dev.thr 0).bars 15).since + 1000 * (late.dev.thr 0).barto.toNat ≤ late.dev.now ∧
    late.dev.bundle 0 0 = some atBarrier ∧ late.dev.noStall = true := by decide +kernel

/-! Tensor, special-function and row work. -/

/-- A tensor command: first word, second word, addresses of A, B or epilogue, record. -/
def tcmd (w0 w1 : Nat) : List Byte :=
  leBytes 4 w0 ++ leBytes 4 w1 ++ leBytes 8 0x20000 ++ leBytes 8 0 ++ leBytes 8 0x30000 ++ List.replicate 16 0 ++ leBytes 8 0x100 ++ List.replicate 8 0
def b16mac : List Byte := tcmd 0x01100000 0x01000001
def clear3 : List Byte := tcmd 0x03000300 0
def rawRead : List Byte := tcmd 0x02000080 0
def plainRead : List Byte := tcmd 0x02000000 0
/-- A live slot; of its pairs only the first row is written out, which keeps the tests quick. -/
def tile : Slot := ⟨true, .pair, 1, List.replicate 32 (0x3F800000, 0), false⟩

/-- A command stands at 0x10000; saggar 0 may use 4 slots; slot 0 of cluster 0 is live. -/
def commanded (l : List Byte) : State :=
  let s := withSag { threads with mem := tables.apply1 (.bytes .hbm 0x10000 l) } fun g => { g with tq := 4 }
  { s with dev := { s.dev with cmp := { s.dev.cmp with
      clusters := [(0, { Cluster.reset with online := true, owner := some 0, slots := [(0, tile)] })] } } }
theorem reads_mac : ∃ w, ReadsCommand (commanded b16mac) at0 bundle 0x10000 64 b16mac w ∧
    w.unblocked bundle.sag [(.record, (tcmdOf b16mac).recA, 16)] ∧ (commanded b16mac).dev.noWaits = true ∧
    (tcmdOf b16mac).op = 1 ∧ tmmaStatus (tcmdOf b16mac) ((commanded b16mac).dev.sag 0).tq.toNat
      (((commanded b16mac).dev.cl 0).slotThen (tcmdOf b16mac).slot) = 0 ∧ tmmaStatus (tcmdOf b16mac) 0 none = 0x0A :=
  ⟨_, reads_of (by decide +kernel),
    none_of (by decide +kernel), by decide +kernel⟩
theorem reads_clear : ∃ w, ReadsCommand (commanded clear3) at0 bundle 0x10000 64 clear3 w ∧ (tcmdOf clear3).op = 3 ∧
    (tcmdOf clear3).slot = 3 ∧ (0x10000 : DWord).toNat % 64 = 0 :=
  ⟨_, reads_of (by decide +kernel), by decide +kernel⟩
theorem reads_raw : ∃ w, ReadsCommand (commanded rawRead) at0 bundle 0x10000 64 rawRead w ∧ (tcmdOf rawRead).op = 2 ∧
    (tcmdOf rawRead).raw = true ∧ (((commanded rawRead).dev.cl 0).slotThen 0).isSome = true :=
  ⟨_, reads_of (by decide +kernel), by decide +kernel⟩
theorem reads_read : ∃ w e w', ReadsCommand (commanded plainRead) at0 bundle 0x10000 64 plainRead w ∧
    w.unblocked bundle.sag [(.operand false, (tcmdOf plainRead).a18, 64), (.record, (tcmdOf plainRead).recA, 16)] ∧
    w.fetchVa bundle.sag (tcmdOf plainRead).a18 64 (.operand false) = (.bytes e, w') ∧
    epiStatus w'.dev ((commanded plainRead).dev.cl 0) ((commanded plainRead).dev.modeOf 0) (tcmdOf plainRead) (epiOf e) .pair = 0 ∧
    ((commanded plainRead).dev.cl 0).slotThen (tcmdOf plainRead).slot = some .pair ∧ (tcmdOf plainRead).op = 2 ∧
    (tcmdOf plainRead).raw = false ∧ (tcmdOf plainRead).a18 % 64 = 0 :=
  ⟨_, List.replicate 64 0, _, reads_of (by decide +kernel),
    none_of (by decide +kernel), pair_of_fst (by decide +kernel), by decide +kernel⟩
/-- A tread whose descriptor stands at `a`. -/
def readAt (a : Nat) : List Byte := plainRead.take 24 ++ leBytes 8 a ++ plainRead.drop 32
/-- A page of die C1 after those of `tables`, at 0x40002000. -/
def farTables : Mem := (((tables.apply1 (.bytes .hbm 0x4010 [0x80, 0x0F])).apply1 (.bytes .hbm 0x4014 [0x18])).apply1 (.bytes .hbm 0x4017 [0x80]))
/-- The descriptor lies where nothing is mapped; on the other die, the link to it failed; or where no descriptor may. -/
def unmapped : State := commanded (readAt 0x40200000)
def farRead : State :=
  let s := commanded (readAt 0x40002000)
  { s with mem := farTables.apply1 (.bytes .hbm 0x10000 (readAt 0x40002000)), dev := { s.dev with
      hub := { s.dev.hub with d2dDead := 4 }
      cmp := { s.dev.cmp with mem := [(0, { s.dev.mpage 0 with cur := { (s.dev.mpage 0).cur with lim := 0x3000000000 } })] } } }
theorem reads_unmapped : ∃ w c v w', ReadsCommand unmapped at0 bundle 0x10000 64 (readAt 0x40200000) w ∧
    w.unblocked 0 [(.operand false, (tcmdOf (readAt 0x40200000)).a18, 64)] ∧
    w.fetchVa 0 (tcmdOf (readAt 0x40200000)).a18 64 (.operand false) = (.fail c v, w') ∧ (tcmdOf (readAt 0x40200000)).op = 2 ∧
    (tcmdOf (readAt 0x40200000)).raw = false ∧ (tcmdOf (readAt 0x40200000)).a18 % 64 = 0 ∧ ((unmapped.dev.cl 0).slotThen 0).isSome = true :=
  ⟨_, 1, 0x40200000, _, reads_of (by decide +kernel), none_of (by decide +kernel), pair_of_fst (by decide +kernel), by decide +kernel⟩
theorem reads_far : ∃ w w', ReadsCommand farRead at0 bundle 0x10000 64 (readAt 0x40002000) w ∧
    w.unblocked 0 [(.operand false, (tcmdOf (readAt 0x40002000)).a18, 64)] ∧
    w.fetchVa 0 (tcmdOf (readAt 0x40002000)).a18 64 (.operand false) = (.cut, w') ∧ ((farRead.dev.cl 0).slotThen 0).isSome = true :=
  ⟨_, _, reads_of (by decide +kernel), none_of (by decide +kernel), pair_of_fst (by decide +kernel), by decide +kernel⟩
theorem wit_tread_turned_away : ((commanded plainRead).dev.cl 0).slotThen 5 = none ∧ (tcmdOf (readAt 0x30010)).a18 % 64 ≠ 0 ∧
    (tcmdOf (readAt 0x30010)).op = 2 ∧ (tcmdOf (readAt 0x30010)).raw = false ∧ (0x10020 : DWord).toNat % 64 ≠ 0 := by decide +kernel
/-- An operation code that no row has is answered with a record. -/
theorem reads_other : ∃ w, ReadsCommand (commanded (List.replicate 64 0)) at0 bundle 0x10000 64 (List.replicate 64 0) w ∧
    (tcmdOf (List.replicate 64 0)).op = 0 ∧ w.unblocked bundle.sag [(.record, 0, 16)] :=
  ⟨_, reads_of (by decide +kernel), by decide +kernel,
    none_of (by decide +kernel)⟩

/-- The command at the head of cluster 0's tensor queue. -/
def tqEntry (l : List Byte) : TqEntry := ⟨0, ⟨0, 0, 0, 0, 0, 0, 0x40⟩, l, ⟨false, false, false⟩, none, none⟩
def queued (l : List Byte) : State :=
  { threads with dev := { threads.dev with cmp := { threads.dev.cmp with
      clusters := [(0, { Cluster.reset with online := true, owner := some 0, slots := [(0, tile)], tq := [tqEntry l] })] } } }
theorem wit_tmma_done : (queued b16mac).dev.tqHead 0 1 = some (tqEntry b16mac, tcmdOf b16mac) ∧
    Fmt.ofCode (tcmdOf b16mac).fmt = some .b16 ∧ (tcmdOf b16mac).acc = false ∧
    ((queued b16mac).opWork 1 0 [.record (.tensor 0)]).unblocked 0 ((.record, (tcmdOf b16mac).recA, 16) ::
      (operandRows .b16 1 0x20000 0 0 0 32 ++ operandRows .b16 1 0x30000 0 0 0 32).map fun r => (.operand false, r.1, r.2)) ∧
    ∃ ls w, ((queued b16mac).opWork 1 0 [.record (.tensor 0)]).fetchMany 0 (.operand false)
      (operandRows .b16 1 0x20000 0 0 0 32 ++ operandRows .b16 1 0x30000 0 0 0 32) [] = (.ok ls, w) :=
  ⟨by decide +kernel, by decide +kernel, by decide +kernel, none_of (by decide +kernel),
    ok_of (by decide +kernel)⟩
theorem wit_raw_done : (queued rawRead).dev.tqHead 0 2 = some (tqEntry rawRead, tcmdOf rawRead) ∧
    (queued rawRead).dev.batchesLeft 0 true 0 = false ∧ tile.bad = false ∧
    ((queued rawRead).opWork 2 0 [.record (.tensor 0)]).unblocked 0 ((.record, (tcmdOf rawRead).recA, 16) ::
      (treadRanges (tcmdOf rawRead) 256 0).map fun r => (.operand true, r.1, r.2)) ∧
    ∃ w, ((queued rawRead).opWork 2 0 [.record (.tensor 0)]).storeMany 0 (.operand true) ((List.range 32).map fun r => ((tcmdOf rawRead).a08 + r * (tcmdOf rawRead).rowStride,
      ((tile.pairs.drop (32 * r)).take 32).flatMap fun p => leBytes 4 p.1.toNat ++ leBytes 4 p.2.toNat)) = (.ok (), w) :=
  ⟨by decide +kernel, by decide +kernel, by decide +kernel, none_of (by decide +kernel),
    ok_unit (by decide +kernel)⟩
/-- At the head a plain tread with its descriptor, or one whose descriptor could not be read. -/
def readHead : State := queued (plainRead ++ List.replicate 64 0)
def failHead : State := { readHead with dev := { readHead.dev with cmp := { readHead.dev.cmp with
  clusters := [(0, { Cluster.reset with online := true, owner := some 0, slots := [(0, tile)], tq := [{ tqEntry plainRead with fail := some 0x11 }] })] } } }
theorem wit_read_done : readHead.dev.tqHead 0 2 = some (tqEntry (plainRead ++ List.replicate 64 0), tcmdOf plainRead) ∧
    readHead.dev.batchesLeft 0 true 0 = false ∧ (tcmdOf plainRead).raw = false ∧ (epiOf (List.replicate 64 0)).gate = false ∧
    (epiOf (List.replicate 64 0)).act = false ∧ (epiVectors (epiOf (List.replicate 64 0))).filterMap id = [] ∧
    Fmt.ofCode (epiOf (List.replicate 64 0)).dfmt = some .b32 := by decide +kernel
theorem wit_read_failed : failHead.dev.tqHead 0 2 = some ({ tqEntry plainRead with fail := some 0x11 }, tcmdOf plainRead) ∧
    (failHead.opWork 2 0 [.record (.tensor 0)]).unblocked 0 [(.record, (tcmdOf plainRead).recA, 16)] := ⟨by decide +kernel, none_of (by decide +kernel)⟩
theorem test_failed_read_answers : done (.treadDone 0 .ok) failHead (fun t => decide ((t.dev.cl 0).tq = []) &&
    t.mem.bytes .hbm 0x100 4 == [0, 0, 2, 0x11]) = true := by decide +kernel
theorem wit_clear_done : (queued clear3).dev.tqHead 0 3 = some (tqEntry clear3, tcmdOf clear3) ∧
    ((queued clear3).opWork 3 0 []).unblocked 0 [(.record, (tcmdOf clear3).recA, 16)] :=
  ⟨by decide +kernel, none_of (by decide +kernel)⟩

def sfxWord : DWord := 0x3A01_0000_0204_0000   -- exp, b32 in and out, dst 2, src 1
theorem wit_sfx : Fetches threads at0 bundle ∧ (sfxOf sfxWord.toNat).ok = true ∧
    sfxStatus threads.dev (threads.dev.cl 0).bank (threads.dev.modeOf 0) (sfxOf sfxWord.toNat) = 0 ∧
    (sfxOf 0x3A01_0000_0204_0001).ok = false ∧ sfxStatus threads.dev (threads.dev.cl 0).bank (threads.dev.modeOf 0) (sfxOf 0x3AFF_0000_0204_0000) ≠ 0 ∧
    [(sfxOf sfxWord.toNat).dst, (sfxOf sfxWord.toNat).src, (sfxOf sfxWord.toNat).gsrc].any (fun r => threads.dev.regBusy 0 0 r) = false :=
  ⟨wit_fetches, by decide +kernel⟩
def sfuReq : SfuReq := ⟨.sfx sfxWord 0xFFFF [] [], ⟨0, 0, 0, 0, 0, 0, 0x40⟩, ⟨false, false, false⟩, .none, 0⟩
def sfuWaits : State :=
  { threads with dev := { threads.dev with cmp := { threads.dev.cmp with vus := [(0, { Vu.reset with bundle := some bundle, sfuQ := [sfuReq] })] } } }
def sfuRuns : State :=
  { threads with dev := { threads.dev with cmp := { threads.dev.cmp with
      clusters := [(0, { Cluster.reset with online := true, owner := some 0, sfu1 := ⟨some (0, sfuReq, .none), 0⟩ })] } } }
/-- Saggar 0 has a bundle saved whose request waits; its cluster is online. -/
def savedWork : State := withSag ready fun g => { g with saved := [⟨0, 3, bundle, [sfuReq], 0⟩] }
theorem wit_kill_saved : (savedWork.dev.sag 0).saved = [⟨0, 3, bundle, [sfuReq], 0⟩] ∧ (⟨0, 3, bundle, [sfuReq], 0⟩ : Saved).sfuQ ≠ [] ∧
    (savedWork.dev.cl 0).online = true ∧ (savedWork.dev.sag 0).st ≠ .killing ∧ savedWork.dev.serves .pf (.view 0 true) = true := by decide +kernel
theorem test_kill_keeps_requests : done (.saggarKill .pf 0) savedWork (fun t =>
    (t.dev.sag 0).saved.all (fun x => x.sfuQ == []) && (t.dev.vu 0 3).sfuQ == [sfuReq]) = true := by decide +kernel
theorem wit_sfu_grant : sfuWaits.dev.mayGrant 0 0 = true ∧ sfuWaits.dev.mayGrant 0 1 = false ∧ sfuRuns.dev.mayGrant 0 1 = false ∧
    sfuWaits.dev.grantee 0 0 = some (0, false) ∧ (sfuWaits.dev.vu 0 0).sfuQ = sfuReq :: [] := by decide +kernel
theorem wit_sfx_done : ((sfuRuns.dev.cl 0).sfu 1).job = some (0, sfuReq, .none) ∧ sfuReq.job = .sfx sfxWord 0xFFFF [] [] ∧
    sfuRuns.dev.tablesFail 0 .none = false ∧ FnSel.ofCode (sfxOf sfxWord.toNat).func = some (.base .exp) ∧
    sfuRuns.dev.bundle 0 0 = some bundle ∧ sfuReq.who.owns bundle = true := by decide +kernel
def switching : State :=
  { ready with dev := { ready.dev with cmp := { ready.dev.cmp with
      clusters := [(0, { Cluster.reset with online := true, owner := some 0, bankPend := true })] } } }
theorem wit_bank_switch : (switching.dev.cl 0).bankPend = true ∧ (switching.dev.cl 0).owner = some 0 ∧ (switching.dev.cl 1).bankPend = false := by
  decide +kernel

/-- The curve store with a load from flash into table slot 63 in progress. -/
def crvBusy : State := { ready with dev := { ready.dev with cmp := { ready.dev.cmp with
  crv := { ready.dev.cmp.crv with tables := [(63, { TSlot.empty with state := 1 })], busy := some ⟨false, true, 63, 0x2000, false, 64, none, none⟩ } } } }
theorem wit_crv : [Agent.pf, .con].all (fun ag => ready.dev.serves ag .glob) = true ∧ ready.dev.cmp.crv.busy = none ∧
    bits 0x6000003F 31 30 = 1 ∧ bit 0x6000003F 29 = true ∧ bits 0x6000003F 6 0 = 63 ∧ bits 0x60000040 6 0 = 64 ∧
    inImageArea 0x2000 64 = true ∧ inImageArea 0x1FC0 64 = false ∧ inImageArea 0x7FFFC1 64 = false ∧
    (crvBusy.dev.storeSlot false 63).state = 1 ∧ crvBusy.dev.cmp.crv.busy.isSome = true := by decide +kernel
theorem wit_crv_done : crvBusy.dev.cmp.crv.busy = some ⟨false, true, 63, 0x2000, false, 64, none, none⟩ ∧ crvBusy.dev.log.ops = [] ∧
    imageLen (crvBusy.mem.bytes .flash 0x2000 64) = 64 ∧ inImageArea 0x2000 64 = true := by decide +kernel

/-- Saggar 0's staged bindings: pending, or naming a table that is not loaded. -/
def crvPage (f : CrvPage → CrvPage) : State := { ready with dev := { ready.dev with cmp := { ready.dev.cmp with
  crv := { ready.dev.cmp.crv with pages := [(0, f .reset)] } } } }
theorem wit_commit : (ready.dev.cpage 0).pend = false ∧ ready.dev.bankLoaded (ready.dev.cpage 0).stagedBank = true ∧
    ((crvPage fun p => { p with pend := true }).dev.cpage 0).pend = true ∧
    (crvPage fun p => { p with pend := true }).dev.bankPending 0 = false ∧
    (crvPage fun p => { p with rperm := 1 }).dev.bankLoaded ((crvPage fun p => { p with rperm := 1 }).dev.cpage 0).stagedBank = false := by
  decide +kernel

/-- A row command: first word, n and k, rows; from 0x20000 to 0x30000, parameters at 0x40000. -/
def rcmd (w0 w1 : Nat) : List Byte :=
  leBytes 4 w0 ++ leBytes 4 w1 ++ leBytes 4 1 ++ leBytes 4 0 ++ leBytes 8 0x20000 ++ leBytes 8 0x30000 ++ leBytes 8 0x40000 ++
  List.replicate 8 0 ++ leBytes 8 0x100 ++ List.replicate 8 0
def topOne : List Byte := rcmd 0x26000000 0x01000010
def normGain : List Byte := rcmd 0x23000010 0x10
theorem reads_row : ∃ w, ReadsCommand (commanded topOne) at0 bundle 0x10000 64 topOne w ∧ (rcmdOf topOne).op = 0x26 ∧
    (rcmdOf topOne).usePar = false ∧ rowStatus w.dev 0 0 0x10000 (rcmdOf topOne) ⟨0, 0, 0, 0, 64⟩ = 0 ∧
    rowStatus w.dev 0 1 0x10000 (rcmdOf topOne) ⟨0, 0, 0, 0, 64⟩ = 0x41 ∧ w.unblocked 0 [(.record, (rcmdOf topOne).recA, 16)] :=
  ⟨_, reads_of (by decide +kernel), by decide +kernel, by decide +kernel,
    by decide +kernel, by decide +kernel, none_of (by decide +kernel)⟩
theorem reads_row_par : ∃ w d w', ReadsCommand (commanded normGain) at0 bundle 0x10000 64 normGain w ∧ (rcmdOf normGain).op = 0x23 ∧
    (rcmdOf normGain).usePar = true ∧ (rcmdOf normGain).par % 64 = 0 ∧
    w.unblocked 0 [(.operand false, (rcmdOf normGain).par, 64), (.record, (rcmdOf normGain).recA, 16)] ∧
    w.fetchVa 0 (rcmdOf normGain).par 64 (.operand false) = (.bytes d, w') ∧
    rowStatus w'.dev 0 0 0x10000 (rcmdOf normGain) (rparOf d) = 0 :=
  ⟨_, List.replicate 64 0, _, reads_of (by decide +kernel),
    by decide +kernel, by decide +kernel, by decide +kernel, none_of (by decide +kernel),
    pair_of_fst (by decide +kernel), by decide +kernel⟩
def rowOp : RowOp := ⟨0, ⟨0, 0, 0, 0, 0, 0, 0x40⟩, topOne, ⟨false, false, false⟩, false⟩
def rowWaits : State := { threads with dev := { threads.dev with cmp := { threads.dev.cmp with rowOps := [rowOp] } } }
def rowRuns : State := { threads with dev := { threads.dev with cmp := { threads.dev.cmp with rowOps := [{ rowOp with started := true }] } } }
/-- A row command whose parameters lie where nothing is mapped. -/
def lostPar : List Byte := normGain.take 32 ++ leBytes 8 0x40200000 ++ normGain.drop 40
theorem reads_row_lost : ∃ w c v w', ReadsCommand (commanded lostPar) at0 bundle 0x10000 64 lostPar w ∧ (rcmdOf lostPar).op = 0x23 ∧
    (rcmdOf lostPar).usePar = true ∧ (rcmdOf lostPar).par % 64 = 0 ∧
    w.unblocked 0 [(.operand false, (rcmdOf lostPar).par, 64), (.record, (rcmdOf lostPar).recA, 16)] ∧
    w.fetchVa 0 (rcmdOf lostPar).par 64 (.operand false) = (.fail c v, w') ∧
    rowStatus w'.dev 0 0 0x10000 (rcmdOf lostPar) ⟨0, 0, 0, 0, 64⟩ = 0 :=
  ⟨_, 1, 0x40200000, _, reads_of (by decide +kernel), by decide +kernel, by decide +kernel, by decide +kernel, none_of (by decide +kernel),
    pair_of_fst (by decide +kernel), by decide +kernel⟩
/-- The cluster of the waiting operation sleeps. -/
def rowAsleep : State := { rowWaits with dev := { rowWaits.dev with pwr := { rowWaits.dev.pwr with doms := Tab.put doms 0 (Dom.at .idle) } } }
theorem wit_row_asleep : rowAsleep.dev.cmp.rowOps.filter rowAsleep.dev.rowReady = [] ++ rowOp :: [] ∧
    rowAsleep.dev.cmp.rowOps.all (fun o => decide (rowAsleep.dev.rowAsleep o ≠ [])) = true := by decide +kernel
theorem wit_row_start : rowWaits.dev.cmp.rowOps.filter (fun o => rowWaits.dev.rowReady o && rowWaits.dev.rowAsleep o == []) = [] ++ rowOp :: [] ∧
    spanGroup 0 (rcmdOf rowOp.cmd).span = [0] ∧ rowOp.who.vu < 4 ∧ ready.dev.cmp.rowOps.filter ready.dev.rowReady = [] := by decide +kernel
theorem wit_row_done : rowRuns.dev.cmp.rowOps.find? (fun o => o.started && o.who.cl == 0 && o.who.vu == 0) = some { rowOp with started := true } ∧
    (spanGroup 0 (rcmdOf topOne).span).any (fun n => rowRuns.dev.batchesLeft n false 0) = false ∧ rowRuns.dev.recWaits (some rowOp.who.rows) = false ∧
    (rowRuns.opWork 0x26 0 [.record rowOp.who.rows]).unblocked 0 ((.record, (rcmdOf topOne).recA, 16) ::
      ((rowReads (rcmdOf topOne) (rparOf [])).map fun r => (.operand false, r.1, r.2)) ++
      (rowWrites (rcmdOf topOne) (rparOf [])).map fun r => (.operand true, r.1, r.2)) ∧
    ∃ w w', (rowRuns.opWork 0x26 0 [.record rowOp.who.rows]).fetchMany 0 (.operand false) (rowReads (rcmdOf topOne) (rparOf [])) [] = (.ok [List.replicate 64 0], w) ∧
      w.storeMany 0 (.operand true) (rowStores (rcmdOf topOne) (rparOf []) (rowResults false (rcmdOf topOne) [List.replicate 64 0])) = (.ok (), w') := by
  obtain ⟨w', h⟩ := ok_unit (p := ((rowRuns.opWork 0x26 0 [.record rowOp.who.rows]).fetchMany 0 (.operand false) (rowReads (rcmdOf topOne) (rparOf [])) []).2.storeMany 0
    (.operand true) (rowStores (rcmdOf topOne) (rparOf []) (rowResults false (rcmdOf topOne) [List.replicate 64 0]))) (by decide +kernel)
  exact ⟨by decide +kernel, by decide +kernel, by decide +kernel, none_of (by decide +kernel), _, w',
    ok_is (by decide +kernel), h⟩

/-! Clusters, translation, the host link and DMA. -/

/-- Saggar 0 has a launch of 65 threads to dispatch and may take cluster 1; cluster 0 is free, or saggar 1's since long. -/
def taking (f : Cluster → Cluster) : State :=
  let s := withThr (withSag threads fun g => { g with cmax := 2, cmask := 3 }) fun h => { h with launches := [{ launch17 with nthr := 65, next := 0, running := 0 }] }
  { s with dev := { s.dev with cmp := { s.dev.cmp with vus := [], clusters := [(1, f { Cluster.reset with online := true })]
                                                       mem := [(0, { s.dev.mpage 0 with cur := { (s.dev.mpage 0).cur with hi := 255 } })] } } }
theorem wit_take : (taking id).dev.taker 1 = some 0 ∧ ((taking id).dev.cl 1).owner = none ∧ ((taking id).dev.cl 1).switching = none ∧
    ((taking id).dev.sag 0).savedAt 1 = false ∧
    let s := taking fun c => { c with owner := some 1 }
    s.dev.taker 1 = some 0 ∧ (s.dev.cl 1).owner = some 1 ∧ (s.dev.freeVus 1).length = 4 ∧ s.dev.waitingBundles 1 = 0 ∧
    (s.dev.sag 1).slice ≠ 0 ∧ (s.dev.cl 1).since + 1000 * (s.dev.sag 1).slice.toNat ≤ s.dev.now ∧ s.dev.mustYield 1 1 = true ∧
    ready.dev.taker 0 = none := by decide +kernel

/-- Cluster 0 is free too and stands before cluster 1. -/
def twoFree : State :=
  let s := taking id
  { s with dev := { s.dev with cmp := { s.dev.cmp with clusters := [(0, { Cluster.reset with online := true }), (1, { Cluster.reset with online := true })] } } }
theorem wit_take_order : twoFree.dev.taker 1 = some 0 ∧ (List.range 1).any twoFree.dev.takeable = true ∧ (List.range 0).any twoFree.dev.takeable = false ∧
    (List.range 1).any (taking id).dev.takeable = false := by decide +kernel
/-- A switch of cluster 0 under way: out of saggar 0, or into saggar 0, which has a bundle saved. -/
def outgoing : State := { threads with dev := { threads.dev with cmp := { threads.dev.cmp with
  clusters := [(0, { Cluster.reset with online := true, owner := some 0, switching := some ⟨none⟩, slots := [(0, tile)] })] } } }
def incoming : State :=
  let s := withSag { threads with dev := { threads.dev with cmp := { threads.dev.cmp with vus := [] } } } fun g => { g with cmask := 1, saved := [⟨0, 3, bundle, [], 0⟩] }
  { s with dev := { s.dev with cmp := { s.dev.cmp with clusters := [(0, { Cluster.reset with online := true, switching := some ⟨some 0⟩ })] } } }
theorem wit_switch_out : (outgoing.dev.cl 0).switching = some ⟨none⟩ ∧ outgoing.dev.switchReady 0 = true ∧ outgoing.dev.admits 0 = true ∧
    (List.range 8).all (fun k => outgoing.dev.admits (hbmDom k)) = true ∧ outgoing.dev.noStall = true ∧ outgoing.mem.wf = true ∧
    outgoing.dev.bundle 0 0 = some bundle ∧ (outgoing.dev.cl 0).liveSlots ≠ [] := by decide +kernel
/-- The save area lies on the other die and the link to it has failed. -/
def cutOff_ : State :=
  { outgoing with dev := { outgoing.dev with
      hub := { outgoing.dev.hub with d2dDead := 4 }
      cmp := { outgoing.dev.cmp with mem := [(0, { outgoing.dev.mpage 0 with cur := { (outgoing.dev.mpage 0).cur with save := 0x1800000000 } })] } } }
theorem wit_image_cut : cutOff_.dev.imageCut 0 0 (bundleImageAt (cutOff_.dev.saveBase 0 0) 0) 16640 = true ∧ cutOff_.dev.bundle 0 0 = some bundle ∧
    bundle.faulted = false ∧ (cutOff_.dev.cl 0).switching = some ⟨none⟩ ∧ cutOff_.dev.switchReady 0 = true ∧ cutOff_.mem.wf = true ∧
    outgoing.dev.hub.d2dDead.getLsbD 2 = false ∧ (outgoing.dev.sag 0).poisoned 2 0 0 2 = false := by decide +kernel
theorem wit_switch_in : (incoming.dev.cl 0).switching = some ⟨some 0⟩ ∧ (incoming.dev.cl 0).owner = none ∧ incoming.dev.switchReady 0 = true ∧
    incoming.dev.mayOwn 0 0 = true ∧ incoming.dev.noStall = true ∧ incoming.mem.wf = true ∧ (incoming.dev.sag 0).saved = [⟨0, 3, bundle, [], 0⟩] ∧ bundle.waiting = .no ∧
    incoming.mem.inError .hbm (bundleImageAt (incoming.dev.saveBase 0 0) 3) 16640 = false := by decide +kernel

def page (f : MemPage → MemPage) : State :=
  { threads with dev := { threads.dev with cmp := { threads.dev.cmp with mem := [(0, f (threads.dev.mpage 0))] } } }
theorem wit_invalidation : threads.dev.serves .pf (.view 0 false) = true ∧ (threads.dev.mpage 0).inv = none ∧
    ((page fun p => { p with inv := some ⟨3, 0⟩ }).dev.mpage 0).inv = some ⟨3, 0⟩ ∧
    ((page fun p => { p with inv := some ⟨3, 0⟩ }).dev.mpage 0).mv = none := by decide +kernel

/-- A thread waits on a word of the range that an invalidation ends; the page holds its word at 0x10000, where it was and is. -/
def invalidating : State :=
  { page (fun p => { p with inv := some ⟨3, 0⟩ }) with dev := { (page fun p => { p with inv := some ⟨3, 0⟩ }).dev with cmp :=
    { (page fun p => { p with inv := some ⟨3, 0⟩ }).dev.cmp with vus := [(0, { Vu.reset with bundle := some waiter })] } } }
theorem wit_wait_follows : (invalidating.dev.mpage 0).inv = some ⟨3, 0⟩ ∧ (invalidating.dev.mpage 0).mv = none ∧
    invalidating.dev.cmp.vus.countP (fun x => x.1 == 4 * (0 : Fin 256).val + (0 : Fin 4).val) = 1 ∧ invalidating.dev.bundle 0 0 = some waiter ∧
    (0x10000 % 2 ^ 48 / 2 ^ invBits 3 = 0 % 2 ^ 48 / 2 ^ invBits 3) ∧ waitHolds .uge (leVal (invalidating.mem.bytes .hbm 0x10000 4)) (1 : Word).toNat = false ∧
    ∃ w, W.access { ((invalidating.work.invalidate 0 0 (invBits 3)).modMem 0 fun p => { p with inv := none }).redoDoms 0 with die := some (dieOf 0) }
      0 0x10000 4 .wait = (.ok (.hbm 0x10000), w) :=
  ⟨by decide +kernel, by decide +kernel, by decide +kernel, by decide +kernel, by decide +kernel, by decide +kernel, _, pair_of_fst (by decide +kernel)⟩
theorem wit_wait_follows_alone : ∀ n u y, u < 4 → invalidating.dev.bundle n u = some y → ¬(n = 0 ∧ u = 0) → y.noWord = true := by
  intro n u y h e ne
  have : 0 ≠ 4 * n + u := by omega
  simp [invalidating, Dev.bundle, Dev.vu, Tab.look, this, Vu.reset] at e

/-- The page at 0x40001000 is to move to 0x6000, or is moving there. -/
def moveFrom : State := page fun p => { p with mvsrc := 0x40001000, mvpte := 0x8000000000006F80 }
def move : Move := ⟨0, 0x40001000, 4, 0x8000000000005F80, 0x8000000000006F80, 0x4008, 0, 0, none⟩
def moving : State := page fun p => { p with mv := some move }
theorem wit_move : moveFrom.dev.serves .con (.view 0 false) = true ∧ (moveFrom.dev.mpage 0).mv = none ∧ (moveFrom.dev.mpage 0).mvWait = false ∧ bits 0x40001000 63 48 = 0 ∧
    leafSlot moveFrom.mem 4 0x40001000 1 (bits 0x1001 47 12 * 4096) = some 0x4008 ∧
    ∃ w, moveFrom.work.walk 0 0x40001000 = (.leaf 4 0x8000000000005F80, w) ∧ pteTgt 0x8000000000005F80 ≠ 3 ∧
      w.dev.moveDestOk 0 4 0x8000000000006F80 = true ∧ w.dev.moveDestOk 0 4 0x8000000000006F81 = false :=
  ⟨by decide +kernel, by decide +kernel, by decide +kernel, by decide +kernel, by decide +kernel, _, pair_of_fst (by decide +kernel), by decide +kernel⟩
theorem wit_move_done : moving.mem.wf = true ∧ (moving.dev.mpage 0).mv = some move ∧ moving.dev.nothingHeld = true ∧ moving.dev.moveWaits 0 move = false ∧
    move.doms.filter (fun n => (moving.dev.dom n).cur ≠ .offline && !moving.dev.admits n) = [] ∧
    leafSpace move.old.toNat = some (.hbm, 0x5000) ∧ leafSpace move.new.toNat = some (.hbm, 0x6000) ∧
    moving.dev.noWaits = true ∧ ∃ w1 w2, (moving.work.bring []).moveAcc 0 move.old.toNat 0 128 true = (.ok (.hbm 0x5000), w1) ∧
      w1.moveAcc 0 move.new.toNat 0 128 false = (.ok (.hbm 0x6000), w2) :=
  ⟨by decide +kernel, by decide +kernel, by decide +kernel, by decide +kernel, by decide +kernel, by decide +kernel, by decide +kernel, by decide +kernel,
    _, _, pair_of_fst (by decide +kernel), pair_of_fst (by decide +kernel)⟩
/-- The page that moves is a host page at 0x7000, its first 128 bytes not yet asked for. -/
def hostMove : Move := { move with old := 0xA000000000007F80 }
def movingHost : State := page fun p => { p with mv := some hostMove }
theorem wit_move_host : movingHost.mem.wf = true ∧ (movingHost.dev.mpage 0).mv = some hostMove ∧ movingHost.dev.moveWaits 0 hostMove = false ∧
    (∃ a, leafSpace hostMove.old.toNat = some (.host, a)) ∧ hostMove.asked + 128 ≤ 2 ^ pageBits hostMove.level ∧ movingHost.dev.tagFree = true ∧
    movingHost.dev.noWaits = true ∧ hostMove.bad = none ∧ move.bad = none ∧ move.out = 0 ∧
    ∃ w1 w2, (movingHost.work.bring []).moveAcc 0 hostMove.old.toNat 0 128 true = (.ok (.host 0 0x7000), w1) ∧
      w1.moveAcc 0 hostMove.new.toNat 0 128 false = (.ok (.hbm 0x6000), w2) :=
  ⟨by decide +kernel, by decide +kernel, by decide +kernel, ⟨0x7000, by decide +kernel⟩, by decide +kernel, by decide +kernel, by decide +kernel,
    by decide +kernel, by decide +kernel, by decide +kernel, _, _, pair_of_fst (by decide +kernel), pair_of_fst (by decide +kernel)⟩
theorem wit_mem_commit : ready.dev.memRefused 0 = true ∧
    (page fun p => { p with staged := { p.staged with save := 0x1000000, hi := 255 } }).dev.memRefused 0 = false ∧ ((page fun p => { p with pend := true }).dev.memRefused 0) = true ∧
    ((page fun p => { p with pend := true }).dev.mpage 0).pend = true ∧
    ((page fun p => { p with pend := true }).dev.cmp.clusters.any fun c => c.2.owner == some 0 &&
      !(((page fun p => { p with pend := true }).dev.mpage 0).next.lo.toNat ≤ c.1 && c.1 ≤ ((page fun p => { p with pend := true }).dev.mpage 0).next.hi.toNat)) = false := by
  decide +kernel

theorem wit_link : ready.dev.linkMayTrain = true ∧ State.reset.dev.linkMayTrain = false ∧ ready.dev.pci.up = true ∧ ready.dev.pci.perst = false := by
  decide +kernel
def withPci (s : State) (f : Pci → Pci) : State := { s with dev := { s.dev with pci := f s.dev.pci } }
def vfs (s : State) : State := withPci s fun p => { p with vfEnable := true, vfmap := [(63, 0x80)] }
theorem wit_functions : (vfs ready).dev.pci.vfEnable = true ∧ (Tab.look 0 (vfs ready).dev.pci.vfmap 63).getLsbD 7 = true ∧
    ready.dev.pci.vfEnable = false ∧ (vfs ready).dev.pci.up = true ∧ ready.dev.pci.perst = false ∧
    ({ ready with dev := { ready.dev with start := { ready.dev.start with state := .test, step := 9 } } } : State).dev.start.state ≠ .ready := by decide +kernel
def flrOn : State := withPci (vfs ready) fun p => { p with fns := [(64, { PciFn.reset with flr := true })] }
theorem wit_flr_done : (flrOn.dev.fn 64).flr = true ∧ flrOn.dev.flrSags 64 = [0] ∧ flrOn.dev.flrReady 0 = false ∧
    let s := withSag flrOn fun g => { g with st := .off }
    (s.dev.fn 64).flr = true ∧ (s.dev.flrSags 64).all s.dev.flrReady = true ∧ s.dev.pci.reads = [] ∧
    s.dev.pci.atsReqs = [] := by decide +kernel

/-- A host read of a load, and one of a DMA queue. -/
def reading (u : HostUse) : State :=
  let s := withPci threads fun p => { p with reads := [⟨7, 0, 0x1000, 4, u, 900000000, false⟩] }
  { s with dev := { s.dev with dma := { s.dev.dma with qs := [(0, { DmaQ.reset with en := true, descs := [⟨3, List.replicate 64 0, true, 0, 1, [], [], false, false, none⟩] })] } } }
def loadUse : HostUse := .load at0 (memOps .w4 16) 15 0
def dmaUse : HostUse := .dma 0 3 0x10000 4
theorem wit_host_load : (reading loadUse).dev.hostReadOf 7 = some ⟨7, 0, 0x1000, 4, loadUse, 900000000, false⟩ ∧ (reading loadUse).dev.noWaits = true ∧
    (reading loadUse).dev.bundle at0.cl at0.vu = some bundle ∧ (reading loadUse).dev.cmp.held = [] := by decide +kernel
theorem wit_host_dma : (reading dmaUse).dev.hostReadOf 7 = some ⟨7, 0, 0x1000, 4, dmaUse, 900000000, false⟩ ∧ ((reading dmaUse).dev.q 0).takes 3 = true ∧
    ((reading dmaUse).descWork 0 3).blocked 0 (.dma true) [(0x10000, 4)] = none ∧ (reading dmaUse).dev.pci.up = true ∧ (reading dmaUse).dev.cmp.held = [] ∧
    900000000 + ((reading dmaUse).dev.fn 0).timeout ≤ (reading dmaUse).dev.now ∧
    ∃ w, ((reading dmaUse).descWork 0 3).access 0 0x10000 4 (.dma true) = (.ok (.hbm 0x10000), w) :=
  ⟨by decide +kernel, by decide +kernel, none_of (by decide +kernel), by decide +kernel, by decide +kernel, by decide +kernel, _,
    pair_of_fst (by decide +kernel)⟩
/-- The descriptor that a transport error names has ended and is still listed, or has gone. -/
theorem wit_host_error : ((reading dmaUse).dev.q 0).descs = [] ++ ⟨3, List.replicate 64 0, true, 0, 1, [], [], false, false, none⟩ :: [] ∧
    ((reading (.dma 0 4 0x10000 4)).dev.q 0).descs.all (fun y => decide (y.index ≠ 4)) = true ∧ ((reading dmaUse).dev.q 0).fail = false := by decide +kernel
theorem wit_ats : (withPci ready fun p => { p with atsReqs := [(0, 5)] }).dev.pci.atsReqs.contains (0, 5) = true := by decide +kernel

/-- DMA queue 1 of saggar 0. -/
def queue (f : DmaQ → DmaQ) : State := { threads with dev := { threads.dev with dma := { threads.dev.dma with qs := [(1, f { DmaQ.reset with en := true })] } } }
def copyDesc : List Byte := leBytes 4 0x01000000 ++ leBytes 4 64 ++ leBytes 8 0x20000 ++ leBytes 8 0x30000 ++ List.replicate 24 0 ++ leBytes 8 0x100 ++ List.replicate 8 0
def fillDesc : List Byte := leBytes 4 0x02000000 ++ leBytes 4 64 ++ leBytes 8 5 ++ leBytes 8 0x30000 ++ List.replicate 24 0 ++ leBytes 8 0x100 ++ List.replicate 8 0
def desc (l : List Byte) : Desc := ⟨0, l, true, 0, 0, [], [], false, false, none⟩
theorem wit_dma_fetch : let s := queue fun x => { x with prod := 2, burst := 1 }
    s.dev.serves .pf (.view 0 false) = true ∧ (s.dev.q 1).en = true ∧ (s.dev.q 1).halted = false ∧ (s.dev.q 1).fetchFail = false ∧ s.dev.flrOn 0 = false ∧
    s.dev.pci.slow = false ∧ s.dev.hubServes = true ∧ s.dev.admits hubDom = true ∧
    min (min ((s.dev.q 1).prod - (s.dev.q 1).nextFetch).toNat (2 ^ min 3 (s.dev.q 1).burst.toNat)) 16 = 2 ∧
    fetchParts (s.dev.q 1) 2 (s.dev.q 1).nextFetch 2 = [((s.dev.q 1).nextFetch, 2)] := by decide +kernel
theorem wit_dma_fetch_read : let s := queue fun x => { x with prod := 2, burst := 1 }
    ∃ w, (s.work.bring []).access 0 ((s.dev.q 1).entryAddr (s.dev.q 1).nextFetch.toNat) 128 .ring = (.ok (.hbm 0), w) :=
  ⟨_, pair_of_fst (by decide +kernel)⟩
/-- The ring lies in host memory: entries are asked for in requests of at most the maximum read size. -/
def hostRing : State :=
  let s := queue fun x => { x with prod := 2, burst := 1, base := 0x40003000 }
  { s with mem := wideTables, dev := { s.dev with pci := { s.dev.pci with maxRead := 128 } } }
theorem wit_dma_fetch_host : hostRing.dev.pci.up = true ∧ 64 ≤ hostRing.dev.pci.maxRead ∧ hostRing.dev.tagsFree 1 = true ∧ hostRing.mem.wf = true ∧
    fetchParts (hostRing.dev.q 1) 2 (hostRing.dev.q 1).nextFetch 2 = [((hostRing.dev.q 1).nextFetch, 2)] ∧
    ∃ w, (hostRing.work.bring []).access 0 ((hostRing.dev.q 1).entryAddr (hostRing.dev.q 1).nextFetch.toNat) 128 .ring = (.ok (.host 0 0x7000), w) :=
  ⟨by decide +kernel, by decide +kernel, by decide +kernel, by decide +kernel, by decide +kernel, _, pair_of_fst (by decide +kernel)⟩
def returning : State := queue fun x => { x with reads := [⟨0, 1, false, none⟩] }
theorem wit_dma_return : ((returning.dev.q 1).reads = [⟨0, 1, false, none⟩] ∧ returning.dev.pci.slow = false) ∧ (returning.work.bring []).blocked 0 .ring [((returning.dev.q 1).entryAddr 0, 64)] = none ∧
    ∃ w, ((returning.work.bring []).modQ 1 fun y => { y with reads := [] }).access 0 ((returning.dev.q 1).entryAddr (returning.dev.q 1).fetch.toNat) 64 .ring = (.ok (.hbm 0), w) :=
  ⟨by decide +kernel, none_of (by decide +kernel), _, pair_of_fst (by decide +kernel)⟩
theorem wit_dma_start : ((queue fun x => { x with descs := [{ desc copyDesc with started := false }] }).dev.startable 1).isSome = true ∧
    (dmaCmdOf copyDesc).op = 1 ∧ dmaBad copyDesc = false ∧ dmaBad fillDesc = false := by decide +kernel
def chunks (l : List Byte) : State := queue fun x => { x with descs := [desc l] }
theorem wit_host_write_error : (chunks copyDesc).dev.pci.up = true ∧ ((chunks copyDesc).dev.q 1).descs = [] ++ desc copyDesc :: [] ∧
    (desc copyDesc).started = true ∧ (desc copyDesc).index = BitVec.ofNat 16 0x10000 ∧ (reading dmaUse).work.queueOnHost 0 = true ∧
    (queue fun x => { x with reads := [⟨0, 2, true, none⟩] }).dev.pci.slow = false := by decide +kernel
theorem wit_dma_copy : (List.range 256).map (fun k => ((chunks copyDesc).dev.dma.last + 1 + k) % 256) =
      [0] ++ 1 :: ((List.range 256).map (fun k => ((chunks copyDesc).dev.dma.last + 1 + k) % 256)).drop 2 ∧ ((chunks copyDesc).dev.q 0).ready = none ∧
    ((chunks copyDesc).dev.q 1).ready = some (desc copyDesc) ∧
    ((chunks copyDesc).descWork 1 0).blocked 0 (.dma false) [(0x20000, 64)] = none ∧ ((chunks copyDesc).descWork 1 0).blocked 0 (.dma true) [(0x30000, 64)] = none ∧
    ∃ w1 w2, ((chunks copyDesc).descWork 1 0).access 0 0x20000 64 (.dma false) = (.ok (.hbm 0x20000), w1) ∧ w1.access 0 0x30000 64 (.dma true) = (.ok (.hbm 0x30000), w2) :=
  ⟨by decide +kernel, by decide +kernel, by decide +kernel, none_of (by decide +kernel), none_of (by decide +kernel), _, _,
    pair_of_fst (by decide +kernel), pair_of_fst (by decide +kernel)⟩
theorem wit_dma_fill : ((chunks fillDesc).dev.q 1).ready = some (desc fillDesc) ∧ (dmaCmdOf fillDesc).op ≠ 1 ∧
    ((chunks fillDesc).descWork 1 0).blocked 0 (.dma true) [(0x30000, 64)] = none ∧
    ∃ w, ((chunks fillDesc).descWork 1 0).access 0 0x30000 64 (.dma true) = (.ok (.hbm 0x30000), w) :=
  ⟨by decide +kernel, by decide +kernel, none_of (by decide +kernel), _, pair_of_fst (by decide +kernel)⟩
/-- A copy from host memory, a copy and a fill to it. -/
def hostDesc (op src dst : Nat) : List Byte := leBytes 4 (op * 2 ^ 24) ++ leBytes 4 64 ++ leBytes 8 src ++ leBytes 8 dst ++ List.replicate 24 0 ++ leBytes 8 0x100 ++ List.replicate 8 0
def hostChunks (op src dst : Nat) : State := { chunks (hostDesc op src dst) with mem := wideTables }
theorem wit_dma_from_host : let s := hostChunks 1 0x40003000 0x30000
    (s.dev.q 1).ready = some (desc (hostDesc 1 0x40003000 0x30000)) ∧ s.dev.pci.up = true ∧ s.dev.pci.slow = false ∧ s.dev.tagFree = true ∧
    (s.descWork 1 0).blocked 0 (.dma false) [(0x40003000, 64)] = none ∧ (s.descWork 1 0).blocked 0 (.dma true) [(0x30000, 64)] = none ∧
    ∃ w1 w2, (s.descWork 1 0).access 0 0x40003000 64 (.dma false) = (.ok (.host 0 0x7000), w1) ∧ w1.access 0 0x30000 64 (.dma true) = (.ok (.hbm 0x30000), w2) :=
  ⟨by decide +kernel, by decide +kernel, by decide +kernel, by decide +kernel, none_of (by decide +kernel), none_of (by decide +kernel), _, _,
    pair_of_fst (by decide +kernel), pair_of_fst (by decide +kernel)⟩
theorem wit_dma_to_host : let s := hostChunks 1 0x20000 0x40003000
    (s.dev.q 1).ready = some (desc (hostDesc 1 0x20000 0x40003000)) ∧
    (s.descWork 1 0).blocked 0 (.dma false) [(0x20000, 64)] = none ∧ (s.descWork 1 0).blocked 0 (.dma true) [(0x40003000, 64)] = none ∧
    ∃ w1 w2, (s.descWork 1 0).access 0 0x20000 64 (.dma false) = (.ok (.hbm 0x20000), w1) ∧ w1.access 0 0x40003000 64 (.dma true) = (.ok (.host 0 0x7000), w2) :=
  ⟨by decide +kernel, none_of (by decide +kernel), none_of (by decide +kernel), _, _, pair_of_fst (by decide +kernel), pair_of_fst (by decide +kernel)⟩
theorem wit_dma_fill_host : let s := hostChunks 2 5 0x40003000
    (s.dev.q 1).ready = some (desc (hostDesc 2 5 0x40003000)) ∧ (s.descWork 1 0).blocked 0 (.dma true) [(0x40003000, 64)] = none ∧
    ∃ w, (s.descWork 1 0).access 0 0x40003000 64 (.dma true) = (.ok (.host 0 0x7000), w) :=
  ⟨by decide +kernel, none_of (by decide +kernel), _, pair_of_fst (by decide +kernel)⟩
def ended : State := queue fun x => { x with descs := [{ desc copyDesc with pos := 64, ended := some (0, 0) }] }
theorem wit_dma_complete : (ended.dev.q 1).descs = { desc copyDesc with pos := 64, ended := some (0, 0) } :: [] ∧
    ({ desc copyDesc with pos := 64, ended := some (0, 0) } : Desc).result = some (0, 0) ∧ ended.dev.noWaits = true ∧
    ended.work.unblocked 0 [(.dma true, (dmaCmdOf copyDesc).recA, 16)] ∧ piecesOf 0x100 16 = [(0x100, 16)] ∧
    ∃ w w', ended.work.access 0 0x100 16 (.dma true) = (.ok (.hbm 0x100), w) ∧ w.access 0 0x100 16 (.dma true) = (.ok (.hbm 0x100), w') :=
  ⟨by decide +kernel, by decide +kernel, by decide +kernel, none_of (by decide +kernel), by decide +kernel,
    _, _, pair_of_fst (by decide +kernel), pair_of_fst (by decide +kernel)⟩

/-- A queue with a failed descriptor, whose channel has no entry yet. -/
def failedQueue : State := queue fun x => { x with fail := true, descs := [{ desc copyDesc with ended := some (0x12, 0) }] }
theorem wit_dma_poison : (failedQueue.dev.q 1).descs.map Desc.result = [some (0x12, 0)] ∧ failedQueue.dev.queuePoisoned 1 = true ∧
    (failedQueue.dev.sag 0).counting 1 0 0 1 = none ∧ (ended.dev.sag 0).counting 1 0 0 1 = none ∧ failedQueue.dev.noWaits = true := by decide +kernel
/-- R232: a write to the ring of an enabled queue leaves it as it is and sets over; the ring of a stopped queue is written. -/
theorem test_ring_of_running_queue : let f (x : DmaQ) : DmaQ := { x with base := 0x4000 }
    (((queue id).work.qring 1 f).dev.q 1).overd = true ∧ (((queue id).work.qring 1 f).dev.q 1).base = ((queue id).dev.q 1).base ∧
    (((queue fun x => { x with en := false }).work.qring 1 f).dev.q 1).base = 0x4000 := by decide +kernel

/-! The console. -/

def withSess0 (f : Session → Session) : State :=
  { ready with dev := { ready.dev with con := { ready.dev.con with s0 := f ready.dev.con.s0 } } }
/-- Session 0, interactive at service, whose front line is this text. -/
def console (l : String) : State :=
  { ready with dev := { ready.dev with con := { ready.dev.con with s0 := { ready.dev.con.s0 with priv := 2, queue := [⟨txt l, false, none⟩] } } } }
/-- The line is admitted as a command for which `p` holds. -/
def admitted (l : String) (p : CmdCtx → Bool) : Bool :=
  let s := console l
  s.dev.noWaits && decide (s.dev.con.rx = []) && s.dev.conTurn 0 && !lineIgnored (txt l) &&
  match (s.work.checkLine 0 ⟨txt l, false, none⟩).1 with
  | .run c => p c && c.needs.all fun d => s.dev.poweredFor d && s.dev.admits d
  | _ => false
theorem turn_of {l : String} {p : CmdCtx → Bool} (h : admitted l p = true) : ∃ c, Turn (console l) 0 c ∧ p c = true := by
  simp only [admitted, Bool.and_eq_true] at h
  obtain ⟨⟨⟨⟨h1, h2⟩, h3⟩, h4⟩, h5⟩ := h
  split at h5
  · rename_i c hc
    simp only [Bool.and_eq_true, List.all_eq_true] at h5
    exact ⟨c, ⟨h1, of_decide_eq_true h2, h3, ⟨⟨txt l, false, none⟩, [], rfl, by simpa using h4, hc⟩, h5.2⟩, h5.1⟩
  · cases h5
def isOk {α : Type} [DecidableEq α] (a : Except Nat α) (b : α) : Bool := match a with | .ok x => decide (x = b) | _ => false
def isCmd (k : Cmd) (p : CmdCtx → Bool) (c : CmdCtx) : Bool := decide (c.cmd.spec.cmd = k) && p c
def any_ (_ : CmdCtx) : Bool := true

/-- A line whose bytes were lost has its answer also where it is empty. -/
theorem wit_lost_line : (withSess0 fun y => { y with lossy := true }).dev.con.s0.lossy = true ∧
    (withSess0 fun y => { y with queue := [⟨[], false, some 109⟩] }).dev.conTurn 0 = true ∧
    (match (withSess0 fun y => { y with queue := [⟨[], false, some 109⟩] }).work.checkLine 0 ⟨[], false, some 109⟩ with
      | (.fail 109 _ _, _) => true | _ => false) = true := by decide +kernel
theorem wit_session_commands : [
    admitted "mode machine" (isCmd .mode fun c => isOk (argWord (c.arg 0) ["interactive", "machine"]) 1),
    admitted "priv" (isCmd .priv fun c => (c.arg 0).isNone),
    admitted "priv view" (isCmd .priv fun c => isOk (argWord (c.arg 0) levelNames) 0),
    admitted "priv operate" (isCmd .priv fun c => isOk (argWord (c.arg 0) levelNames) 1),
    admitted "priv service" (isCmd .priv fun c => isOk (argWord (c.arg 0) levelNames) 2),
    admitted "priv answer 0011-2233" (isCmd .privAnswer any_),
    admitted "claim crv" (isCmd .claim fun c => isOk (argRes (c.arg 0)) 1),
    admitted "release crv" (isCmd .release fun c => isOk (argRes (c.arg 0)) 1),
    admitted "claim break crv" (isCmd .claimBreak fun c => isOk (argRes (c.arg 0)) 1),
    admitted "claims" (isCmd .claims any_),
    admitted "notify warn" (isCmd .notify fun c => isOk (argWord (c.arg 0) ["off", "info", "warn", "fault", "crit"]) 2)].all id = true := by
  decide +kernel

theorem wit_query_commands : [admitted "help" (isCmd .help any_), admitted "colophon" (isCmd .colophon any_), admitted "status" (isCmd .status any_),
    admitted "clu 0..255" (isCmd .clu any_), admitted "flash info" (isCmd .flashInfo any_), admitted "aclk" (isCmd .aclk any_),
    admitted "pwr show all" (isCmd .pwrShow any_), admitted "sup rails" (isCmd .supRails any_), admitted "sup phases" (isCmd .supPhases any_),
    admitted "sup bak" (isCmd .supBak any_), admitted "lnk show" (isCmd .lnkShow any_), admitted "fab show" (isCmd .fabShow any_),
    admitted "fab route 5" (isCmd .fabRoute any_), admitted "time show" (isCmd .timeShow any_), admitted "col show" (isCmd .colShow any_),
    admitted "sag show 0" (isCmd .sagShow any_), admitted "sag rec 0 fault" (isCmd .sagRec any_), admitted "crv show tables" (isCmd .crvShow any_),
    admitted "log show" (isCmd .logShow any_), admitted "stage show" (isCmd .stageShow any_), admitted "key show" (isCmd .keyShow any_),
    admitted "test result" (isCmd .testResult any_)].all id = true := by decide +kernel
/-- What a showing command answers on the state where it is the front line. -/
def answered (l : String) (h : Handler) : Bool :=
  admitted l fun c => match (h ((console l).work.popLine 0) c).1 with | .done _ _ => true | .wait _ => false
theorem wit_query_answers : (answered "aclk" hAclk && answered "time show" hTimeShow && answered "key show" hKeyShow && answered "sup bak" hSupBak &&
    answered "sag show 127" hSagShow && answered "claims" hClaims) = true := by decide +kernel

def onSag (k : Nat) (x : Cmd) (p : CmdCtx → Bool) : CmdCtx → Bool := isCmd x fun c => isOk (argSag c) k && p c
theorem wit_saggar_commands : [admitted "sag en 127" (onSag 127 .sagEn any_), admitted "sag dis 0" (onSag 0 .sagDis any_),
    admitted "sag kill 0" (onSag 0 .sagKill any_),
    admitted "sag quota 0 cmax=256 tq=128" (onSag 0 .sagQuota fun c => isOk (c.num "cmax" 0 256) (some 256) && isOk (c.num "tq" 0 128) (some 128) &&
      isOk (c.num "slice" 0 0xFFFF) none),
    admitted "sag mask 0 0..3,255" (onSag 0 .sagMask fun c => isOk (argNums (c.arg 1) 255) [0, 1, 2, 3, 255]),
    admitted "sag count 0 clear=1" (onSag 0 .sagCount fun c => isOk (c.flag "clear") true),
    admitted "sag ack 0 trap resume=1" (onSag 0 .sagAck fun c => isOk (argWord (c.arg 1) recordWords) 0 && isOk (c.flag "resume") true),
    admitted "sag ack 0 fault" (onSag 0 .sagAck fun c => isOk (argWord (c.arg 1) recordWords) 1 && (c.cmd.param "resume").isNone),
    admitted "sag ack 0 poison 0x12345678" (onSag 0 .sagAck fun c => isOk (argWord (c.arg 1) recordWords) 2 && isOk (argNum (c.arg 2) 0 0xFFFFFFFF) 0x12345678),
    admitted "crv bind 0 7 none" (onSag 0 .crvBind fun c => isOk (argNum (c.arg 1) 0 7) 7 && match argBind (c.arg 2) with | .ok _ => true | _ => false),
    admitted "crv perm 0 127" (onSag 0 .crvPerm fun c => isOk (argNums (c.arg 1) 127) [127]),
    admitted "crv mode 0 bexo=1" (onSag 0 .crvMode fun c => isOk (c.num "bexo" 0 1) (some 1) && isOk (c.num "bounds" 0 1) none),
    admitted "crv commit 0" (onSag 0 .crvCommit any_),
    admitted "crv load table 63 off=0x2000" (isCmd .crvLoad fun c => isOk (argSlot c) (false, 63) && isOk (c.num "off" 0 (2 ^ 64 - 1)) (some 0x2000)),
    admitted "crv unload recipe 127" (isCmd .crvUnload fun c => isOk (argSlot c) (true, 127))].all id = true := by decide +kernel

theorem wit_setting_commands : [admitted "aclk set 8" (isCmd .aclkSet fun c => isOk (argNum (c.arg 0) 0 8) 8),
    admitted "pwr req clu banked n=1" (isCmd .pwrReq fun c => isOk (argWord (c.arg 0) ["clu", "hub", "port", "hbm"]) 0 &&
      isOk (argWord (c.arg 1) ["active", "idle", "banked"]) 2 && isOk (c.domains 0) [1] && isOk (c.flag "force") false),
    admitted "pwr req clu idle n=0,1 force=1" (isCmd .pwrReq fun c => isOk (c.domains 0) [0, 1] && isOk (c.flag "force") true),
    admitted "pwr refusals clear=1" (isCmd .pwrRefusals fun c => isOk (c.flag "clear") true && decide (c.page [] = .done 0 [])),
    admitted "lnk train 11" (isCmd .lnkTrain fun c => isOk (argNum (c.arg 0) 0 11) 11), admitted "lnk park 0" (isCmd .lnkPark fun c => isOk (argNum (c.arg 0) 0 11) 0),
    admitted "lnk alloc 8,8,8,8,8,8,8,8,8,8,8,8 drain=1" (isCmd .lnkAlloc fun c => isOk (argLanes (c.arg 0)) (List.replicate 12 8) && isOk (c.flag "drain") true),
    admitted "fab chip auto" (isCmd .fabChip fun c => isOk (argChip (c.arg 0)) none && isOk (c.flag "drain") false),
    admitted "fab slice 7" (isCmd .fabSlice fun c => isOk (argNum (c.arg 0) 0 0xFFFF) 7),
    admitted "key set 1 0000-0000-0000-0000-0000-0000-0000-0000-0000-0000-0000-0000-0000-0000-0000-0001" (isCmd .keySet fun c =>
      isOk (argKey c) (1, List.replicate 31 0 ++ [1])),
    admitted "key clear" (isCmd .keyClear any_), admitted "time set 1000" (isCmd .timeSet fun c => isOk (argNum (c.arg 0) 0 (2 ^ 64 - 1)) 1000),
    admitted "log mark \"x\"" (isCmd .logMark fun c => decide (c.arg 0 = some (.val (.str (txt "x"))))), admitted "log clear" (isCmd .logClear any_),
    admitted "stage set col.timeout 100" (isCmd .stageSet fun c => isOk (argWord (c.arg 0) settingNames) 4 && isOk (argNum (c.arg 1) 0 60000) 100),
    admitted "stage drop" (isCmd .stageDrop any_), admitted "commit" (isCmd .commit any_),
    admitted "reset cold" (isCmd .reset fun c => isOk (argWord (c.arg 0) ["warm", "cold"]) 1),
    admitted "test bscan on" (isCmd .testBscan fun c => isOk (argWord (c.arg 0) ["off", "on"]) 1)].all id = true ∧ ready.dev.atLoad = true ∧
    (withSag ready fun g => { g with st := .off }).dev.atLoad = false ∧ ready.dev.aon.mayFlash eraseCost = true := by decide +kernel

def withCon (s : State) (f : Con → Con) : State := { s with dev := { s.dev with con := f s.dev.con } }
theorem wit_ports : ready.dev.noWaits = true ∧ ready.dev.aon.powered = true ∧ ready.dev.con.rx = [] ∧ ready.dev.con.s0.modeNext = none ∧
    ready.dev.con.s0.esc = [] ∧ ready.dev.con.s0.partl.length < 256 ∧ lineIgnored (txt "claims") = false ∧ ready.dev.con.s0.waitingLines < 4 ∧
    ready.dev.con.s1.machine = true ∧ ready.dev.con.s1.modeNext = none ∧ ready.dev.con.s1.esc = [] ∧ (txt "claims").any (· ≠ 0x20) = true ∧
    (withCon ready fun x => { x with rx := List.replicate 1024 (0, false) }).dev.con.rx.length = 1024 := by decide +kernel
/-- A line that no command has, in interactive and in machine mode. -/
theorem wit_line_fail : (console "nonsense").dev.conTurn 0 = true ∧ (console "nonsense").dev.con.rx = [] ∧
    (match (console "nonsense").work.checkLine 0 ⟨txt "nonsense", false, none⟩ with | (.fail 101 [] _, false) => true | _ => false) = true ∧
    (match ready.work.checkLine 1 ⟨txt "nonsense", true, none⟩ with | (.fail _ _ _, _) => true | _ => false) = true := by decide +kernel
def running (l : String) (x : CmdWait) : Running := ⟨0, true, txt l, false, x, 0, [], [], false⟩
def waitsFor (l : String) (x : CmdWait) : State := withCon ready fun c => { c with run := some (running l x), drain := some ⟨[0], [], 0⟩ }
theorem wit_command_timeout : (waitsFor "sag kill 0" (.sagOff 0)).dev.con.run = some (running "sag kill 0" (.sagOff 0)) ∧
    (match (running "sag kill 0" (.sagOff 0)).ctx with | some c => decide (c.cmd.spec.limit = 1000) | none => false) = true ∧
    0 + 1000 * 1000000 ≤ (waitsFor "sag kill 0" (.sagOff 0)).dev.now ∧ (waitsFor "fab slice 7 drain=1" .drain).dev.con.drain = some ⟨[0], [], 0⟩ ∧
    (waitsFor "fab slice 7 drain=1" .drain).dev.atLoad = true := by decide +kernel
theorem wit_command_waits : match (running "sag kill 0" (.sagOff 0)).ctx with
    | some c => (waitsFor "sag kill 0" (.sagOff 0)).work.waitOver (running "sag kill 0" (.sagOff 0)) c = (waitsFor "sag kill 0" (.sagOff 0)).work
    | none => False := by
  rfl
def drained : State := withSag (waitsFor "fab chip auto drain=1" .drain) fun g => { g with st := .off }
theorem wit_drain_complete : drained.dev.atLoad = false ∧ drained.dev.con.run = some (running "fab chip auto drain=1" .drain) ∧
    (match (running "fab chip auto drain=1" .drain).ctx with
     | some c =>
       match c.setting drained.work with
       | (.done 0 _, w) => decide (w.dev.con.drain = some ⟨[0], [], 0⟩ ∧ w.dev.con.run = drained.dev.con.run)
       | _ => false
     | none => false) = true := by
  decide +kernel
theorem wit_console_timers : (withCon ready fun x => { x with resetCmd := some true }).dev.con.resetCmd = some true ∧
    (withCon ready fun x => { x with s1 := { x.s1 with partl := [0x41] } }).dev.con.s1.partl ≠ [] ∧ ready.dev.sessUp 1 = true ∧ ready.dev.con.s1.idle ≠ 0 := by
  decide +kernel

/-! Links. -/

def peer : Peer := ⟨5, 1, 0, 0x020000, false, 0, false, 0, 0, 1, List.replicate 16 0, true, false⟩
/-- Port 11 changed. -/
def withPort (f : Port → Port) : State := { ready with dev := { ready.dev with ports := [(11, f { Port.reset with base := 84, count := 12 })] } }
def training (ph : Phase) : State := withPort fun x => { x with state := .train, phase := ph, peer := some peer, width := 12 }
def upPort (f : LinkSess → LinkSess) : State := withPort fun x => { x with state := .up, lanes := 1 <<< 95, peer := some peer, sess := f x.sess }
theorem wit_training : ready.dev.noWaits = true ∧ ((withPort fun x => { x with state := .detect }).dev.admits (portDom 11)) = true ∧
    ((withPort fun x => { x with state := .detect }).dev.port 11).state = .detect ∧ ((training .lane).dev.port 11).phase = .lane ∧
    ((training .arm).dev.port 11).peer = some peer ∧ ((training .arm).dev.port 11).armRx = false ∧
    ((withPort fun x => { x with state := .retrain, phase := .resume }).dev.port 11).state = .retrain ∧ ready.dev.serves .con .glob = true := by decide +kernel
theorem train_messages : [leBytes 4 1, leBytes 4 2, leBytes 4 (3 + 12 * 2 ^ 16), leBytes 4 4].all (fun l =>
    [true, false].all fun enc => let f := trainFlit enc l
      flitWf f && flitCrcOk f && leAt f 0 8 == 3 * 2 ^ 60 + (if enc then 2 ^ 23 else 0) && (leAt f 8 1 == leAt l 0 1)) = true := by decide +kernel
/-- A flit of a type, with a packet where it is DATA. -/
def flit (ty : Nat) (payload : List Byte) : List Byte :=
  flitBytes (FlitHead.toNat ⟨ty, 0, 0, false, 0, 0, 0, false, payload.length / 4⟩) payload none
def onePkt : Pkt := ⟨5, 15, false, 5, 6, 0, 0, 0, 0, 0, 0, 0, []⟩
/-- What a plain link checks of a flit, as one answer. -/
def plainOk (x : Port) (f : List Byte) (h : FlitHead) (l : List Byte) : Bool :=
  decide (x.state = .up ∧ h = headOf (leAt f 0 8) ∧ h.ty < 5 ∧ h.ty ≠ 3 ∧ h.enc = x.encNow ∧ x.encNow = false ∧ l = (f.drop 8).take 244) &&
  flitWf f && flitCrcOk f && headReservedOk (leAt f 0 8) && ackOk x.sess h && creditOk x.sess h &&
  decide (h.ty = 1 → h.plen ≠ 0 ∧ h.plen ≤ 61 ∧ x.sess.held h.vc < 64)
theorem accepts_of {x : Port} {f : List Byte} {h : FlitHead} {l : List Byte} (ok : plainOk x f h l = true) : Accepts x f h l := by
  simp only [plainOk, Bool.and_eq_true, decide_eq_true_eq] at ok
  obtain ⟨⟨⟨⟨⟨⟨⟨up, hd, ty, ne, en, pl, pay⟩, wf⟩, crc⟩, rs⟩, ak⟩, cr⟩, dat⟩ := ok
  refine ⟨up, wf, crc, hd, rs, ty, ne, en, ak, cr, ?_, fun d => ?_⟩ <;> rw [pl] <;> simp only [Bool.false_eq_true, if_false]
  · exact pay
  · exact ⟨(dat d).1, (dat d).2.1, fun e => Nat.not_le_of_lt (dat d).2.2 e.2⟩
theorem accepts : plainOk ((upPort id).dev.port 11) (flit 1 onePkt.bytes) ⟨1, 0, 0, false, 0, 0, 0, false, 8⟩ (padTo 244 onePkt.bytes) = true ∧
    [0, 2, 4].all (fun ty => plainOk ((upPort id).dev.port 11) (flit ty []) ⟨ty, 0, 0, false, 0, 0, 0, false, 0⟩ (padTo 244 [])) = true := by
  decide +kernel
theorem wit_accepts : Accepts ((upPort id).dev.port 11) (flit 1 onePkt.bytes) ⟨1, 0, 0, false, 0, 0, 0, false, 8⟩ (padTo 244 onePkt.bytes) :=
  accepts_of accepts.1
theorem wit_bad_crc : flitCrcOk ((flit 0 []).set 9 1) = false ∧ flitWf ((flit 0 []).set 9 1) = true ∧ pktOk onePkt.bytes = true := by decide +kernel
theorem wit_armed : ((withPort fun x => { x with state := .train, phase := .arm, armRx := true }).dev.port 11).armRx = true ∧
    ((upPort fun x => { x with replay := [⟨0, 0, onePkt.bytes⟩], n := 1 }).dev.port 11).sess.replay ≠ [] ∧
    ((upPort id).dev.port 11).lanes.getLsbD 95 = true ∧ ((upPort id).dev.port 11).sess.lastTx + 1000 ≤ (upPort id).dev.now ∧
    ((upPort fun x => { x with orderly := some 0 }).dev.port 11).sess.orderly = some 0 ∧
    ((upPort fun x => { x with nakSince := some 0 }).dev.port 11).sess.nakSince = some 0 := by decide +kernel

/-- A TRAIN flit with a reserved bit set reaches a port that retrains; one whose CRC fails, an UP port. -/
def badTrain : List Byte := flitBytes (3 * 2 ^ 60 + 1) (leBytes 4 4) none
theorem wit_bad_train : flitWf badTrain = true ∧ flitCrcOk badTrain = true ∧ bits (leAt badTrain 0 8) 63 60 = 3 ∧ leAt badTrain 0 8 ≠ 3 * 2 ^ 60 ∧
    leAt badTrain 0 8 ≠ 3 * 2 ^ 60 + 2 ^ 23 ∧ ((withPort fun x => { x with state := .retrain }).dev.port 11).state = .retrain ∧
    flitWf (badTrain.set 9 1) = true ∧ flitCrcOk (badTrain.set 9 1) = false ∧ ((upPort id).dev.port 11).state = .up := by decide +kernel

/-- Port 11 waits in ARM for its first flit; another flit that it must not take: with enc on a plain link. -/
def armedPort : State := withPort fun x => { x with state := .train, phase := .arm, armRx := true, peer := some peer, width := 12 }
def encFlit : List Byte := flitBytes (FlitHead.toNat ⟨0, 0, 0, false, 0, 0, 0, true, 0⟩) [] none
theorem wit_first_flit : Accepts { armedPort.dev.port 11 with state := .up } (flit 0 []) ⟨0, 0, 0, false, 0, 0, 0, false, 0⟩ (padTo 244 []) :=
  accepts_of (by decide +kernel)
theorem wit_no_first_flit : (armedPort.dev.port 11).encNow = false ∧ flitWf encFlit = true ∧ flitCrcOk encFlit = true ∧
    bits (leAt encFlit 0 8) 63 60 = 0 ∧ (armedPort.dev.port 11).flitBad encFlit = true ∧ (armedPort.dev.port 11).flitBad (flit 0 []) = false := by
  decide +kernel

/-! The fabric and the collectives. -/

/-- Chip 5, admitted beside chip 6; this packet stands first in port 0's buffers; saggar 0 has sent one packet to chip 6 on channel 1. -/
def sendS : SendStream := ⟨0, 0, 6, 1, 1, true, [⟨0, [], 0, 0, 0, none⟩], [], none, false, false, 0⟩
def recvS : RecvStream := ⟨6, 2, 1, 9, []⟩
def remote : RemoteOp := ⟨0, 0, 0, 6, 1, some 0, 0, 0, .load at0 (memOps .w4 16) 15 0⟩
def fabric (vc : Nat) (k : Pkt) (f : Fab → Fab) : State :=
  { threads with dev := { threads.dev with
      ports := [(0, { Port.reset with state := .up, base := 0, count := 8, lanes := 0xFF, width := 8, sess := { LinkSess.reset with rx := [(vc, k.bytes)] } })]
      fab := f { Fab.reset with state := .admitted, chip := some 5, sliceid := 3, masterChip := some 6, memberChips := [5, 6], sends := [sendS]
                                recvs := [recvS], ops := [remote] } } }
def pkt (ty addr arg : Nat) (data : List Byte) : Pkt := ⟨ty, 15, false, 5, 6, 3, 0, 2, 9, addr, arg, 0, data⟩
def wr : Pkt := pkt 1 0x10000 0 [1, 2, 3, 4]
def rd : Pkt := pkt 2 0x10000 64 []
def am : Pkt := pkt 3 0x10000 4 [1, 0, 0, 0, 0, 0, 0, 0]
def rs : Pkt := pkt 4 0 0 [1, 2, 3, 4]
theorem arrives (vc ty : Nat) (k : Pkt) (h : vc = 1 ∧ ty = 1 ∧ k = wr ∨ vc = 1 ∧ ty = 2 ∧ k = rd ∨ vc = 1 ∧ ty = 3 ∧ k = am ∨ vc = 1 ∧ ty = 4 ∧ k = rs) :
    Arrives (fabric vc k id) 0 vc ty k ∧ InOrder (fabric vc k id) vc k recvS := by
  obtain ⟨rfl, rfl, rfl⟩ | ⟨rfl, rfl, rfl⟩ | ⟨rfl, rfl, rfl⟩ | ⟨rfl, rfl, rfl⟩ := h <;>
  exact ⟨⟨⟨_, rfl, by decide +kernel⟩, by decide +kernel⟩, by unfold InOrder; decide +kernel⟩
theorem wit_targets : (∃ w, ((fabric 1 wr id).work.bring []).target 0 (.store 4) (piecesOf wr.addr 4) [] = (.places [(0x10000, 4, .hbm 0x10000)], w)) ∧
    (∃ w, ((fabric 1 rd id).work.bring []).target 0 (.load 64) (piecesOf rd.addr 64) [] = (.places [(0x10000, 64, .hbm 0x10000)], w)) ∧
    (∃ w, ((fabric 1 am id).work.bring []).target 0 (.amo 4 (amoReads .add) (amoWrites .add)) [(0x10000, 4)] [] = (.places [(0x10000, 4, .hbm 0x10000)], w)) ∧
    amoCodes[bits am.arg 3 0]? = some .add ∧ bit am.arg 4 = false ∧ am.addr % 4 = 0 ∧ 0 < rd.arg ∧ rd.arg ≤ 128 ∧
    (fabric 1 rs id).dev.fab.ops.find? (fun o => o.sag == rs.tsag && o.chip == rs.src && o.vc == 1 && o.seq == some (BitVec.ofNat 32 rs.rseq)) = some remote :=
  ⟨⟨_, pair_of_fst (by decide +kernel)⟩, ⟨_, pair_of_fst (by decide +kernel)⟩, ⟨_, pair_of_fst (by decide +kernel)⟩, by decide +kernel⟩
/-- Out of order: one step ahead, the last that the window takes, one beyond it; and a stream that does not exist. -/
theorem wit_out_of_order : [(10, 1), (265, 256), (266, 257)].all (fun x => (BitVec.ofNat 32 x.1 - recvS.e).toNat == x.2) = true ∧
    (fabric 1 { wr with ssag := 7 } id).dev.fab.recvs.find? (fun x => x.is { wr with ssag := 7 } 1) = none ∧ ({ wr with slice := 4 } : Pkt).slice ≠ 3 := by decide +kernel
def ctl (ty arg : Nat) : Pkt := ⟨ty, 15, false, 5, 6, 3, 0, 2, 0, 0, arg, 0, []⟩
theorem wit_control : [5, 6, 7].all (fun ty => decide ((fabric 7 (ctl ty 1) id).dev.sendStream (ctl ty 1) = some sendS) &&
    (match ((fabric 7 (ctl ty 1) id).dev.port 0).sess.rx.find? (fun x => x.1 == 7) with | some x => decide (pktOf x.2 = ctl ty 1) | none => false)) = true := by decide +kernel
def withSend (f : SendStream → SendStream) : State := fabric 1 wr fun b => { b with sends := [f sendS] }
theorem wit_streams : (withSend id).dev.sendOf 0 = some sendS ∧ sendS.unacked.find? (fun x => x.seq == 0) = some ⟨0, [], 0, 0, 0, none⟩ ∧
    0 + 1000000 ≤ (withSend id).dev.now ∧ ((withSend fun x => { x with unacked := [] }).dev.sendOf 0).isSome = true ∧
    (withSend fun x => { x with abandoned := true }).dev.fab.memberChips.contains 6 = true ∧
    (withSend fun x => { x with unacked := [⟨0, [], 0, 0, 3, some 0⟩] }).dev.sendOf 0 = some { sendS with unacked := [⟨0, [], 0, 0, 3, some 0⟩] } := by decide +kernel
/-- Of a departed chip: nothing sent and nothing waiting, an operation that waits, a stream that was abandoned. -/
theorem wit_departed : let s := fabric 1 wr fun b => { b with memberChips := [5], sends := [{ sendS with unacked := [], abandoned := true }] }
    s.dev.sendOf 0 = some { sendS with unacked := [], abandoned := true } ∧ s.dev.fab.memberChips.contains 6 = false ∧
    ((withSend fun x => { x with unacked := [], waiting := [(0, [])], closing := some 0 }).dev.sendOf 0).isSome = true := by decide +kernel
/-- The load that the failed stream carries counts once on its channel. -/
def failing : State := withSend fun x => { x with unacked := [⟨0, [], 0, 0, 3, some 0⟩] }
theorem wit_stream_fails : failing.dev.sendOf 0 = some { sendS with unacked := [⟨0, [], 0, 0, 3, some 0⟩] } ∧ failing.dev.cmp.held = [] ∧ failing.dev.noWaits = true ∧
    0 + 1000000 ≤ failing.dev.now ∧ failing.dev.fab.ops = [remote] ∧ remote.use = .load at0 (memOps .w4 16) 15 0 ∧
    (failing.dev.sag sendS.ssag).counting 0 sendS.vc sendS.dst 0 = none := by decide +kernel
theorem wit_hop_hold : (fabric 1 wr fun b => { b with fwd := [⟨0, 0, 1, wr.bytes⟩] }).dev.fab.fwd.all (fun x => decide (x.since + 50000 <
    (fabric 1 wr fun b => { b with fwd := [⟨0, 0, 1, wr.bytes⟩] }).dev.now)) = true := by decide +kernel

def member (c : BitVec 12) : Member := ⟨c, some 0, 0, true, none, none, List.replicate 12 none, none⟩
def master : State := fabric 1 wr fun b => { b with master := true, masterChip := some 5, epoch := 7, members := [member 5, { member 6 with differSince := some 0, ports := [none, some 5] }] }
def joinMsg : JoinMsg := ⟨9, true, 0x020000, master.dev.chash, 1, List.replicate 6 none⟩
theorem wit_membership : master.dev.fab.chip = some 5 ∧ master.dev.portUsable 0 = true ∧ master.dev.fab.master = true ∧ joinMsg.wf = true ∧
    (4 : BitVec 16) ≠ master.dev.fab.sliceid ∧ master.dev.portUsable 1 = false ∧ joinMsg.chip ≠ 5 ∧ joinCause master.dev { joinMsg with version := 0x030000 } = 1 ∧
    joinCause master.dev { joinMsg with chip := 6 } = 2 ∧ (fabric 1 wr id).dev.fab.master = false ∧
    master.dev.fab.members.any (fun m => m.chip == 6) = true ∧ (⟨6, List.replicate 12 none, 0⟩ : UpdateMsg).wf = true ∧
    (⟨5, [⟨6, none, 0, true, List.replicate 12 none⟩], [], 8⟩ : HandoverMsg).wf = true ∧ 0 + 1000000000 ≤ master.dev.now ∧
    master.dev.commitOpen = true ∧ (fabric 1 wr fun b => { b with commitAt := some 999500000 }).dev.commitOpen = false := by decide +kernel
/-- A COMMIT that keeps the chip, one that leaves it out; a later epoch, the same one, and the last there is. -/
theorem wit_commits : let f := (fabric 1 wr fun b => { b with epoch := 7 }).dev.fab
    let ms : List HandMember := [⟨5, none, 0, true, List.replicate 12 none⟩]
    ms.all HandMember.wf = true ∧ (ms.map HandMember.chip).contains 5 = true ∧ (ms.map HandMember.chip).contains 6 = false ∧
    f.epoch.toNat < (8 : Word).toNat ∧ ¬(f.epoch.toNat < (7 : Word).toNat) ∧ f.state = .admitted ∧ f.masterChip = some 6 ∧ f.masterChip ≠ some 4 ∧
    f.staged = none ∧ (fabric 1 wr fun b => { b with staged := some ([(0, 5)], []) }).dev.fab.staged = some ([(0, 5)], []) := by decide +kernel
theorem wit_update : master.dev.fab.members.find? (fun x => x.chip == 6) = some { member 6 with differSince := some 0, ports := [none, some 5] } ∧
    ([none, some 5] : List (Option (BitVec 12))) ≠ (⟨6, List.replicate 12 none, 0⟩ : UpdateMsg).ports := by decide +kernel
/-- HELLOs: of another slice; of a chip that follows a master; of a later epoch; of the same epoch under a lower master. -/
def hello (slice : BitVec 16) (epoch : Word) (mc : BitVec 12) : HelloMsg := ⟨some 6, true, slice, epoch, some mc, 1, 0, 0, 2⟩
theorem wit_hellos : let f := (fabric 1 wr id).dev.fab
    (hello 4 0 6).slice ≠ f.sliceid ∧ (hello 3 0 6).slice = f.sliceid ∧ f.chip = some 5 ∧ (hello 3 0 6).chip = some 6 ∧ (6 : BitVec 12) ≠ 5 ∧
    (hello 3 1 6).state = 2 ∧ f.epoch.toNat < (hello 3 1 6).epoch.toNat ∧ f.epoch = (hello 3 0 4).epoch ∧ (4 : BitVec 12).toNat < (6 : BitVec 12).toNat ∧
    f.masterChip = some 6 ∧ (fabric 1 wr id).dev.portUsable 0 = true := by decide +kernel
theorem wit_join_ok : joinCause master.dev joinMsg = 0 := by
  have h : ¬ joinMsg.version.toNat / 2 ^ 8 ≠ 0x0200 := by decide
  have g : (master.dev.fab.members.any fun x => x.chip == joinMsg.chip && x.serial != some joinMsg.serial) = false := by decide +kernel
  have e : joinMsg.hash = master.dev.chash := rfl
  unfold joinCause
  rw [if_neg h, g, if_neg (by decide), if_neg (not_not_intro e)]
def alone : State := fabric 1 wr fun b => { b with state := .alone, masterChip := none, memberChips := [], firstUp := some 0, election := some ⟨5, true, 0⟩ }
theorem wit_election : alone.dev.fab.election = some ⟨5, true, 0⟩ ∧ alone.dev.leading = some 5 ∧ alone.dev.commitOpen = true ∧
    (fabric 1 wr fun b => { b with election := some ⟨4, false, 0⟩ }).dev.leading = none ∧ alone.dev.fab.firstUp = some 0 ∧ alone.dev.fab.masterChip = none ∧
    (fabric 1 wr fun b => { b with state := .quarantine }).dev.fab.state = .quarantine ∧ (fabric 1 wr fun b => { b with lastMaster := some 0 }).dev.fab.lastMaster = some 0 := by
  decide +kernel
theorem wit_neighbours : (fabric 1 wr id).dev.noWaits = true ∧ (fabric 1 wr id).dev.isUp 0 = true ∧ (fabric 1 wr id).dev.isUp 6 = false ∧
    (fabric 1 wr id).dev.serves .pf .glob = true ∧ (0 : Fin 12).val < 6 ∧ alone.dev.fab.state = .alone ∧ alone.dev.fab.master = false ∧
    ({ upPort id with dev := { (upPort id).dev with fab := (fabric 1 wr id).dev.fab } } : State).dev.isUp 11 = true ∧
    (fabric 1 wr id).dev.fab.masterChip = some 6 ∧ (3 : BitVec 16) = (fabric 1 wr id).dev.fab.sliceid := by decide +kernel

/-- A collective command of quire 1: operation, elements; its record at 0x20000, its completion at 0x100. -/
def ccmd (op n : Nat) : List Byte := leBytes 4 (op * 2 ^ 24 + 1) ++ leBytes 4 n ++ leBytes 8 0 ++ leBytes 8 0x30000 ++ leBytes 8 0x40000 ++
  leBytes 8 (if op = 1 then 0x20000 else 0) ++ leBytes 8 0 ++ leBytes 8 0x100 ++ List.replicate 8 0
def collOp (op n : Nat) : CollOp := ⟨ccmd op n, ⟨0, 0, 0, 0, 0, 0, 0x40⟩⟩
def quire (f : Quire → Quire) : Quire := f { Quire.reset with state := .formed, qid := 1, vc := 1, m := 2, round := 4, members := [(5, 0), (6, 0)] }
/-- The quire record of chips 5 and 6. -/
def record : List Byte := leBytes 4 1 ++ leBytes 4 (2 + 2 ^ 16) ++ leBytes 8 0 ++ leBytes 4 5 ++ leBytes 4 6
def collective (l : List Byte) (k : Pkt) (q : Option Quire) : State :=
  let s := fabric 1 k id
  { s with mem := (tables.apply1 (.bytes .hbm 0x10000 l)).apply1 (.bytes .hbm 0x20000 record)
           dev := { s.dev with coll := { s.dev.coll with quires := match q with | some q => [(0, q)] | none => [] } } }
theorem reads_coll : ∃ w, ReadsCommand (collective (ccmd 6 0) wr (some (quire id))) at0 bundle 0x10000 64 (ccmd 6 0) w ∧
    (collective (ccmd 6 0) wr (some (quire id))).dev.noWaits = true ∧ w.dev.quireOf 0 1 = some 0 ∧ (ccmdOf (ccmd 6 0)).qid = 1 ∧
    collStatus w.dev 0x10000 (ccmdOf (ccmd 6 0)) (some (quire id)) = 0 ∧ collStatus w.dev 0x10000 (ccmdOf (ccmd 6 0)) none = 0x81 ∧
    collStatus w.dev 0x10000 (ccmdOf (ccmd 2 0)) (some (quire id)) = 0 :=
  ⟨_, reads_of (by decide +kernel), by decide +kernel⟩
theorem reads_form : ∃ w w1 w2, ReadsCommand (collective (ccmd 1 0) wr none) at0 bundle 0x10000 64 (ccmd 1 0) w ∧
    collStatus w.dev 0x10000 (ccmdOf (ccmd 1 0)) none = 0 ∧ W.unblocked { w with die := none } 0 [(.operand false, (ccmdOf (ccmd 1 0)).rec_, 16)] ∧
    W.fetchVa { w with die := none } 0 0x20000 16 (.operand false) = (.bytes (record.take 16), w1) ∧ leAt (record.take 16) 4 4 % 2 ^ 13 = 2 ∧
    w1.unblocked 0 [(.operand false, (ccmdOf (ccmd 1 0)).rec_, 16 + 4 * 2)] ∧ w1.fetchVa 0 0x20000 24 (.operand false) = (.bytes record, w2) ∧ formStatus w2.dev 0 record 1 = 0 ∧ formStatus w2.dev 0 record 2 ≠ 0 ∧
    (collective (ccmd 1 0) wr none).dev.coll.heldForms = [] :=
  ⟨_, _, _, reads_of (by decide +kernel), by decide +kernel,
    none_of (by decide +kernel), pair_of_fst (by decide +kernel), by decide +kernel, none_of (by decide +kernel),
    pair_of_fst (by decide +kernel), by decide +kernel⟩
def collRuns (f : Quire → Quire) (k : Pkt) : State := collective [] k (some (quire f))
theorem wit_coll_start : ((collRuns (fun q => { q with waiting := [collOp 6 0] }) wr).dev.quire 0).waiting = collOp 6 0 :: [] ∧
    (ccmdOf (ccmd 6 0)).op = 6 ∧ (ccmdOf (ccmd 6 0)).n = 0 ∧ (quire id).rank < (quire id).m ∧ (quire id).held = [] ∧ (ccmdOf (ccmd 2 0)).op = 2 ∧
    (ccmdOf (ccmd 4 8)).op = 4 ∧ (ccmdOf (ccmd 4 8)).kind < 6 ∧ 1 ≤ (ccmdOf (ccmd 4 8)).n ∧
    (collRuns (fun q => { q with waiting := [collOp 6 0] }) wr).dev.quireIdle 0 = true ∧
    (collRuns (fun q => { q with waiting := [collOp 6 0] }) wr).dev.roundOpen 0 = true ∧
    ((collRuns (fun q => { q with roundAt := some 999999501 }) wr).dev.quire 0).roundAt = some 999999501 ∧ ready.dev.now < 999999501 + 500 := by
  decide +kernel
def allRed : State := collRuns (fun q => { q with waiting := [collOp 4 8] }) wr
theorem wit_coll_data : allRed.work.unblocked 0 [(.operand true, (ccmdOf (ccmd 4 8)).dst, (ccmdOf (ccmd 4 8)).outBytes),
      (.operand false, (ccmdOf (ccmd 4 8)).src, (ccmdOf (ccmd 4 8)).inBytes)] ∧
    ∃ w, W.fetchVa { allRed.work.modQuire 0 (fun q => { q with waiting := [] }) with op := 0x44, rep := [.record (.quire 0)] } 0 (ccmdOf (ccmd 4 8)).src (ccmdOf (ccmd 4 8)).inBytes
      (.operand false) = (.bytes (List.replicate (ccmdOf (ccmd 4 8)).inBytes 0), w) :=
  ⟨none_of (by decide +kernel), _, pair_of_fst (by decide +kernel)⟩
/-- A CDATA of the barrier: sender of rank 1, step 0, round 4. -/
def cdata (seq : Nat) : Pkt := ⟨0x21, 15, false, 5, 6, 3, 0, 0, seq, 1 * 2 ^ 24 + 1, collSig (ccmd 6 0), 0, []⟩
def barrierRun : CollRun := ⟨collOp 6 0, 900000000, 50000000, .up 0, [], [], [], []⟩
def inBarrier (seq : Nat) : State := collRuns (fun q => { q with state := .running, run := some barrierRun }) (cdata seq)
theorem wit_cdata : ((inBarrier 4).dev.port 0).sess.rx.find? (fun x => x.1 == 1) = some (1, (cdata 4).bytes) ∧ pktOf (cdata 4).bytes = cdata 4 ∧
    (inBarrier 4).dev.quireOf 0 (pktQid (cdata 4)) = some 0 ∧ (quire id).knows (cdata 4) = false ∧
    (cdata 4).arg = collSig barrierRun.op.cmd ∧ stepSender (quire id) (ccmdOf (ccmd 6 0)) (pktStep (cdata 4)) = some (pktRank (cdata 4)) ∧
    (ccmdOf (ccmd 6 0)).hasData = false ∧ (cdata 3).seq + 1 = 4 ∧ (cdata 5).seq = (4 + 1) % 2 ^ 32 ∧ (cdata 9).seq ≠ 4 ∧
    barrierRun.since + barrierRun.limit ≤ (inBarrier 4).dev.now := by decide +kernel
/-- A quire of two that forms, at its root and below; the marker that its members compare. -/
def formRun (ph : CollPhase) : CollRun := ⟨collOp 1 0, 900000000, 50000000, ph, [9, 9], [], [], []⟩
def cform (rank step : Nat) : Pkt := ⟨0x20, 15, false, 5, 6, 3, 0, 0, 4, rank * 2 ^ 24 + step * 2 ^ 16 + 1, 9, 0, []⟩
def forming (rank : Nat) (ph : CollPhase) (k : Pkt) : State := collRuns (fun q => { q with state := .forming, rank, run := some (formRun ph) }) k
theorem wit_cform : [(0, CollPhase.up 0, cform 1 0), (1, .down, cform 0 0x80)].all (fun x => let s := forming x.1 x.2.1 x.2.2
    decide (((s.dev.port 0).sess.rx.find? (fun x => x.1 == 1)) = some (1, x.2.2.bytes) ∧ pktOf x.2.2.bytes = x.2.2 ∧
      s.dev.quireOf 0 (pktQid x.2.2) = some 0 ∧ (s.dev.quire 0).round.toNat = x.2.2.seq ∧ pktRank x.2.2 = 1 - x.1 ∧
      pktStep x.2.2 = if x.1 = 0 then 0 else 0x80) && decide ((ccmdOf (collOp 1 0).cmd).op = 1 ∧ (ccmdOf (collOp 1 0).cmd).n = 0)) = true := by
  decide +kernel
/-- At the root of a quire of four, the message of rank 2 comes before that of rank 1. -/
def inFour : State := collRuns (fun q => { q with state := .running, m := 4, members := [(5, 0), (6, 0), (6, 1), (6, 2)], run := some barrierRun })
  { cdata 4 with addr := 2 * 2 ^ 24 + 2 ^ 16 + 1 }
theorem wit_kept : let k : Pkt := { cdata 4 with addr := 2 * 2 ^ 24 + 2 ^ 16 + 1 }
    inFour.dev.quireOf 0 (pktQid k) = some 0 ∧ (inFour.dev.quire 0).run = some barrierRun ∧ barrierRun.phase = .up 0 ∧ 0 + 2 ^ 0 < (inFour.dev.quire 0).m ∧
    stepSender (inFour.dev.quire 0) (ccmdOf barrierRun.op.cmd) (pktStep k) = some (pktRank k) ∧
    ({ barrierRun with recv := barrierRun.recv ++ [(pktStep k, pktFirst k, splitVals (kindTransit false 0) 128 k.data)] } : CollRun).got 0 = none := by
  decide +kernel
theorem wit_coll_timers : (collRuns (fun q => { q with unacked := [⟨[], 1, 6, 0, 0⟩] }) wr).dev.quire 0 = quire (fun q => { q with unacked := [⟨[], 1, 6, 0, 0⟩] }) ∧
    0 + 1000000 ≤ ready.dev.now ∧ (collRuns id { cdata 4 with ptype := 0x23 }).dev.quireOf 0 1 = some 0 := by decide +kernel

/-! Power, supplies, the log and the start-up. -/

def withDom (n : Nat) (f : Dom → Dom) : State := { ready with dev := { ready.dev with pwr := { ready.dev.pwr with doms := Tab.put ready.dev.pwr.doms n (f (Dom.at .active)) } } }
def enter (e : Entry) : State := withDom 1 fun x => { x with entry := some e }
def entry1 : Entry := ⟨.request, .banked, [1, 7], [(6, 0)], false, false, 0, []⟩
theorem wit_entries : ready.dev.idleDue 1 = true ∧ (ready.dev.dom 1).retryAt = none ∧ (withDom 1 fun x => { x with retryAt := some 0 }).dev.idleDue 1 = true ∧
    ((enter entry1).dev.dom 1).entry = some entry1 ∧ entry1.open_.contains 7 = true ∧ entry1.open_.contains 6 = true ∧
    (enter { entry1 with ports := [6] }).dev.refusers 1 6 = [] ∧ ({ entry1 with ports := [6] } : Entry).ports.contains 6 = true ∧
    ((enter { entry1 with ports := [], defer := [], committed := true }).dev.mayEnter 1 { entry1 with ports := [], defer := [], committed := true }) = true ∧
    ((withDom 1 fun x => { x with forceReq := some .banked }).dev.dom 1).forceReq = some .banked ∧ ready.dev.noWaits = true := by decide +kernel
/-- A cluster that switches owners refuses at port 1. -/
def refusing : State :=
  let s := enter { entry1 with way := .timer }
  { s with dev := { s.dev with cmp := { ready.dev.cmp with clusters := [(1, { Cluster.reset with online := true, switching := some ⟨none⟩ })] } } }
theorem wit_refusal : refusing.dev.refusers 1 1 ≠ [] ∧ (refusing.dev.dom 1).entry = some { entry1 with way := .timer } ∧ (refusing.dev.dom 1).queued = [] ∧
    (refusing.dev.dom hubDom).entry = none := by decide +kernel
theorem wit_cascade : let h : Entry := ⟨.request, .banked, [], [], true, false, 0, []⟩
    let t := Tab.put refusing.dev.pwr.doms 1 { Dom.at .active with entry := some { entry1 with way := .cascade } }
    let t' := Tab.put t hubDom { Dom.at .active with entry := some h }
    let s : State := { refusing with dev := { refusing.dev with pwr := { refusing.dev.pwr with doms := t' } } }
    s.dev.refusers 1 1 ≠ [] ∧ (s.dev.dom 1).entry = some { entry1 with way := .cascade } ∧ (s.dev.dom hubDom).entry = some h ∧ h.committed = false ∧ (s.dev.dom hubDom).queued = [] := by
  decide +kernel
/-- The hub has committed: a dependent's refusal leaves its entry as it is. -/
theorem wit_cascade_late : let h : Entry := ⟨.forced, .banked, [], [], false, true, 0, []⟩
    let t := Tab.put refusing.dev.pwr.doms 1 { Dom.at .active with entry := some { entry1 with way := .cascade } }
    let t' := Tab.put t hubDom { Dom.at .active with entry := some h }
    let s : State := { refusing with dev := { refusing.dev with pwr := { refusing.dev.pwr with doms := t' } } }
    s.dev.refusers 1 1 ≠ [] ∧ (s.dev.dom 1).entry = some { entry1 with way := .cascade } ∧ (s.dev.dom hubDom).entry = some h ∧ h.committed = true := by
  decide +kernel
def waking (k : Nat) : State := withDom 1 fun x => { x with cur := .banked, wake := some ⟨decide (0 < k), k, .active⟩ }
theorem wit_wakes : ((waking 4).dev.dom 1).wake = some ⟨true, 4, .active⟩ ∧ ((waking 5).dev.dom 1).wake = some ⟨true, 5, .active⟩ ∧
    ((waking 0).dev.dom 1).wake = some ⟨false, 0, .active⟩ ∧ (waking 5).dev.nothingHeld = true ∧ (waking 5).dev.con.rx = [] ∧ (waking 5).dev.pci.held = [] ∧
    (waking 5).dev.lockedOut = false ∧ ((waking 5).dev.dom 1).cur = .banked ∧ (⟨true, 0, [], []⟩ : RetErr).flops = true ∧
    (waking 0).dev.admits hubDom = true ∧ (waking 0).dev.pwr.recentWaves (waking 0).dev.now = [] := by decide +kernel
/-- The hub's last handshake is open; the hub sleeps while a port's wake stands at its last step; a wake has begun. -/
def hubEntry : Entry := ⟨.request, .banked, [0], [], false, false, 0, []⟩
def hubLast : State := withDom 256 fun x => { x with entry := some hubEntry }
def hubDown : State := { waking 5 with dev := { (waking 5).dev with pwr := { (waking 5).dev.pwr with doms := Tab.put (waking 5).dev.pwr.doms 256 (Dom.at .banked) } } }
theorem wit_hub : (hubLast.dev.dom 256).entry = some hubEntry ∧ hubEntry.open_.contains 0 = true ∧ hubLast.dev.refusers 256 0 = [] ∧
    ({ hubEntry with ports := hubEntry.ports.erase 0 } : Entry).open_ = [] ∧ (hubDown.dev.dom hubDom).cur = .banked ∧
    ((hubDown.dev.dom 1).wake = some ⟨true, 5, .active⟩) ∧ (waking 5).dev.waking = true ∧ ready.dev.waking = false ∧
    ready.dev.pwr.holds 1 = false ∧ hubLast.dev.coll.quires = [] ∧ ready.dev.hubWaits = false := by decide +kernel
/-- A forced entry of the hub has begun: it still waits for an invalidation, or takes its dependents down. -/
def forcedHub (inv : Option Inval) : State :=
  let s := withDom 256 fun x => { x with entry := some ⟨.forced, .banked, [], [], true, true, 999000000, []⟩ }
  { s with dev := { s.dev with cmp := { s.dev.cmp with mem := [(0, { MemPage.reset with inv })] } } }
theorem wit_forced_hub : ((forcedHub none).dev.dom hubDom).taking = true ∧ (forcedHub none).dev.hubHolds = false ∧ (forcedHub (some ⟨3, 0⟩)).dev.hubHolds = true ∧
    (forcedHub none).dev.noWaits = true ∧ ((forcedHub none).dev.dom hubDom).entry = some ⟨.forced, .banked, [], [], true, true, 999000000, []⟩ ∧
    999000000 + 1000000 ≤ (forcedHub none).dev.now ∧ (forcedHub none).dev.hubCarries = true ∧ hubLast.dev.hubCarries = true ∧ hubDown.dev.hubCarries = false ∧
    ((withDom 256 fun x => { x with forceReq := some .banked }).dev.dom 256).forceReq = some .banked := by decide +kernel
/-- Requests by PWR.REQ: domain 1 to BANKED, IDLE, ACTIVE; a number that no domain has; the register's three state codes. -/
theorem wit_requests : ready.dev.serves .pf .glob = true ∧ ready.dev.pwr.busy = false ∧ (0x401 : Word).toNat % 512 = 1 ∧ (0x401 : Word).toNat / 512 % 4 = 2 ∧
    (0x201 : Word).toNat / 512 % 4 = 1 ∧ (1 : Word).toNat / 512 % 4 = 0 ∧ (0x515 : Word).toNat % 512 = 277 ∧ (0x514 : Word).toNat % 512 = 276 ∧
    (ready.dev.dom 1).cur = .active ∧ (ready.dev.dom 1).entry = none ∧ (ready.dev.dom 1).wake = none ∧ ready.dev.lockedOut = false ∧
    ready.dev.temps.banked = false ∧ ((withDom 1 fun x => { x with cur := .banked }).dev.dom 1).cur = .banked := by decide +kernel

def withSup (f : Sup → Sup) : State := { ready with dev := { ready.dev with sup := f ready.dev.sup } }
def withAon (f : Aon → Aon) : State := { ready with dev := { ready.dev with aon := f ready.dev.aon } }
theorem wit_supplies : ready.dev.warnArmed = true ∧ warnLevel 3 = some 690 ∧ warnLevel 2 = some 1140 ∧ warnLevel 4 = some 760 ∧
    ready.dev.sup.good.getLsbD 3 = true ∧ belowReset 3 619 = true ∧ belowReset 3 620 = false ∧
    (withSup fun u => { u with dropped := 7 }).dev.sup.lost = 3 ∧
    (withSup fun u => { u with cap := true, capAt := 0, lock := false }).dev.sup.capAt + 1000000 ≤ ready.dev.now ∧
    (Sup.release { Sup.reset with warn := true } 1000000000 ⟨[(1160, 100000), (710, 100000), (780, 100000)], 0, 0⟩).mayRelease = true ∧
    (Sup.release { Sup.reset with warn := true } 1000000000 ⟨[(1159, 100000), (710, 100000), (780, 100000)], 0, 0⟩).mayRelease = false ∧
    (Sup.release { Sup.reset with cap := true } 1000000000 ⟨[(1160, 0), (710, 0), (780, 0)], 0, 999999⟩).mayRelease = false ∧
    ready.dev.serves .con .aon = true ∧ (withSup fun u => { u with orderly := some 0 }).dev.sup.orderly = some 0 ∧
    (withSup fun u => { u with restartAt := some 0, seq := .off }).dev.sup.seq = .off := by decide +kernel
/-- A transition waits for the throttle: to another point, or again to the one in force. -/
theorem wit_throttled : let y := Sup.release { Sup.reset with warn := true } 1000000000 ⟨[(1160, 100000), (710, 100000), (780, 100000)], 0, 0⟩
    (givenUp.dev.hub.dvfs = none ∧ givenUp.dev.hub.again = true) ∧ givenUp.dev.hub.tgt ≠ givenUp.dev.hub.cur ∧ y.mayRelease = true ∧
    Dev.dvfsOpen { givenUp.dev with sup := { y.calm with seq := .on, good := 0x3C } } givenUp.dev.hub.tgt = true := by decide +kernel
theorem wit_backup : (withAon fun a => { a with vbakSrc := true }).dev.aon.powered = true ∧
    (withAon fun a => { a with hand := some 0 }).dev.aon.hand.isSome = true ∧ ready.dev.aon.vbakSrc = false ∧ ready.dev.aon.hand = none ∧ ready.dev.log.ops = [] ∧
    (withAon fun a => { a with okSince := some 0, vbakSrc := true }).dev.aon.okSince = some 0 ∧
    -- the worked case of 16: 22 mF at 3.0 V hold 24.2 mJ
    ({ ready.dev.aon with bakcfg := 0x01000016, vbak := 3000 } : Aon).usable = 24200 := by decide +kernel

def withLog (f : Log → Log) : State := { ready with dev := { ready.dev with log := f ready.dev.log } }
def event : LogEvent := ⟨0x0203, 0, none, [], 0, 1, 1, [], []⟩
theorem wit_log : (withLog fun l => { l with ops := [⟨false, 0x800000, List.replicate 256 1, .mirror 2⟩] }).dev.aon.snap = none ∧
    (withLog fun l => { l with queue := [event] }).dev.log.queue = event :: [] ∧ ready.dev.log.lastStart = none ∧
    (withLog fun l => { l with windows := [⟨0x0203, 0, 0, 3, some event⟩] }).dev.log.windows.find? (fun x => x.code == (0x0203 : BitVec 16).toNat &&
      x.src == (0 : Word).toNat) = some ⟨0x0203, 0, 0, 3, some event⟩ ∧ (withLog fun l => { l with busy := true }).dev.log.busy = true ∧
    (withLog fun l => { l with mfail := some 0 }).dev.log.mfail = some 0 ∧ ready.dev.aon.closed = false := by decide +kernel
/-- An entry waits for the record of an operation; the record is out, or still waits. -/
def heldEvent : LogEvent := { event with code := 0x0302, after := [.desc 1 0] }
theorem wit_log_hold : let s := withLog fun l => { l with hold := [heldEvent] }
    s.dev.log.hold = [heldEvent] ∧ heldEvent.after.all s.dev.reportOut = true ∧ codeCoalesced heldEvent.code = false ∧ s.dev.log.queue = [] ∧
    s.dev.log.overd = [] ∧ s.dev.log.lastStart = none ∧ s.dev.aon.powered = true ∧ heldEvent.after.all (chunks copyDesc).dev.reportOut = false := by decide +kernel
def cfgWrite : CfgWrite := ⟨1, List.replicate 512 0, .default, some 0⟩
theorem wit_flash : let s := withLog fun l => { l with ops := [⟨false, 0x1000, List.replicate 256 0, .cfg 2⟩], cfgw := some cfgWrite }
    s.dev.log.ops = ⟨false, 0x1000, List.replicate 256 0, .cfg 2⟩ :: [] ∧ s.dev.log.cfgw = some cfgWrite ∧
    [true, false].all (fun b => decide ((withLog fun l => { l with ops := [⟨true, 0x800000, [], .clear b 1⟩] }).dev.log.ops =
      ⟨true, 0x800000, [], .clear b 1⟩ :: [])) = true := by decide +kernel
theorem wit_stage : ready.dev.stage.pend = false ∧ stageDom 276 = stageDom 276 ∧
    ({ ready with dev := { ready.dev with stage := { ready.dev.stage with pend := true, pos := 276, since := 0 } } } : State).dev.stage.since + 10000 ≤ ready.dev.now ∧
    ({ ready with dev := { ready.dev with cmp := { ready.dev.cmp with crv := { ready.dev.cmp.crv with tables := [(63, { TSlot.empty with state := 2 })] } } } } :
      State).dev.storeSlot false 63 = { TSlot.empty with state := 2 } ∧ (ready.dev.storeSlot false 0).loaded = false := by decide +kernel
theorem wit_temperatures : ready.dev.hubLive = true ∧ (ready.dev.dom hubDom).committed = false ∧ (0x06E0 : BitVec 16).toInt = 1760 ∧
    (0x07D0 : BitVec 16).toInt = 2000 ∧ ready.dev.start.state = .ready ∧ ready.dev.hub.d2dDead.getLsbD 2 = false ∧
    ({ ready with dev := { ready.dev with temps := { ready.dev.temps with hot110 := [(0, 0)], hot125 := [(0, 0)] } } } : State).dev.temps.hot125 = [(0, 0)] := by
  decide +kernel

def starting (n : Nat) : State := { ready with dev := { ready.dev with start := { ready.dev.start with state := .seq, step := n, since := 0 } } }
theorem wit_start : State.reset.dev.aon.powered = false ∧ ([1, 2, 3, 4, 5, 6, 7, 8, 9, 10, 11, 12, 13].all fun n => (starting n).dev.start.running && (starting n).dev.start.step == n) = true ∧
    (starting 2).dev.sup.good.getLsbD 2 = true ∧ (starting 5).dev.sup.seq = .on ∧
    (let s : State := { (withSup fun u => { u with seq := .off }) with dev := { (withSup fun u => { u with seq := .off }).dev with start := { Start.reset with pend := some 7 } } }
     s.dev.start.pend = some 7 ∧ s.dev.aon.powered = true ∧ s.dev.sup.pwron = true ∧ s.dev.sup.stay = false) ∧
    ({ ready with dev := { ready.dev with start := { ready.dev.start with pend := some 6 } } } : State).dev.start.pend = some 6 ∧
    ({ ready with dev := { ready.dev with start := { ready.dev.start with owner := true, state := .scan } } } : State).dev.start.owner = true ∧
    ((training .lane).dev.port 11).state = .train ∧ ((upPort id).dev.port 11).state ≠ .train := by decide +kernel

/-! Worked cases of the spec, and one step each. -/

theorem test_no_word : decodeTableWord 32 0xFFFFFFFF = none ∧ State.reset.withFetchWord 32 5 = State.reset := ⟨rfl, rfl⟩
theorem test_step_takes_front : (match step { ready with pending := [.pwronFall, .dvfsTransitionDone] } with
    | .next t => decide (t.pending = [.dvfsTransitionDone]) && !t.dev.sup.pwron | _ => false) = true := by decide +kernel
theorem test_idle_tick : (match step ready with | .next t => t.dev.now == 1000000001 | _ => false) = true := by decide +kernel
/-- 10, worked case: the request `priv` with tag 0001, and its answer on the wire. -/
theorem test_priv_request : done (.priv 0) (withCon ready fun x => { x with s0 := { x.s0 with machine := true, queue := [⟨txt "@0001 priv*4116", true, none⟩] } })
    (fun t => t.dev.con.tx == txt "@0001 ok 000 1*26ED\r\n@0001 . priv=view*F1B5\r\n") = true := by decide +kernel
/-- 02, worked case: double rounding avoided. -/
theorem test_double_rounding : (convert false .b32 [.b16] .e4m3 127 .rne (Fmt.b32.decode 0x3F880008)).code = 0x39 := by decide +kernel
/-- 03, worked case: an ordinary dot product. -/
theorem test_dot_product :
    let a := operandVals .e2m1 16 16 (List.replicate 32 ([0xC3, 0x15] ++ List.replicate 6 0) ++ List.replicate 32 [0x7E]) 0
    let b := operandVals .e2m1 16 16 (List.replicate 32 ([0x36, 0x7A] ++ List.replicate 6 0) ++ List.replicate 32 [0x7F]) 0
    let r := macElem .e2m1 false true false (0, 0) a b
    r.s = 0x3FC00000 ∧ r.e = 0 ∧ r.sat = false ∧ r.flush = false ∧ r.nan = false := by decide +kernel
/-- 03, worked case: cancellation across segments. -/
theorem test_cancellation :
    let ones := fun (n : Nat) (x : Byte) => List.replicate n x
    let a := ([0x38] ++ ones 31 0) ++ ones 32 0x38 ++ ones 64 0 ++ ones 32 0x38 ++ ones 96 0 ++ [0xB8] ++ ones 127 0
    let b := ([0x38] ++ ones 31 0) ++ ones 32 0x30 ++ ones 64 0 ++ ones 32 0x30 ++ ones 96 0 ++ [0x38] ++ ones 127 0
    let sc : List Byte := [0x8E] ++ ones 7 0x7F ++ [0x8E] ++ ones 3 0x7F
    let r := macElem .e4m3 false false false (0, 0) (operandVals .e4m3 384 32 (List.replicate 32 a ++ List.replicate 32 sc) 0)
      (operandVals .e4m3 384 32 (List.replicate 32 b ++ List.replicate 32 sc) 0)
    r.s = 0 ∧ r.e = 0x41800000 := by decide +kernel
/-- 04, worked cases: exp into E4M3 at the edges; a SwiGLU gate into binary16. -/
theorem test_exp_edges : let env : SfuEnv := ⟨false, false, false, fun _ => none, fun _ => none⟩
    [0, 0xBF000000, 0x40C33333, 0x40C66666, 0xC0E00000].map (fun x => (sfuElem env (.base .exp) .e4m3 0x7F 0 x .b32 (Fmt.b32.decode x) (Val.zero false)).code) =
      [0x38, 0x32, 0x7E, 0x7E, 0x00] ∧
    (sfuElem env (.gate .silu) .b16 0x7F 0 0xBF800000 .b32 (Fmt.b32.decode 0xBF800000) (Fmt.b32.decode 0x40400000)).code = 0xBA74 := by decide +kernel
/-- 06, worked case: top-k with a tie and a NaN. -/
theorem test_top_k : let row := [0x40400000, 0x7FC00000, 0x40A00000, 0x40400000, 0x80000000, 0].flatMap (leBytes 4)
    (rowResults false (rcmdOf (rcmd 0x26000000 0x04000006)) [row]).map (fun r => (r.1.bytes, r.1.excluded)) =
      [([0x40A00000, 2, 0x40400000, 0, 0x40400000, 3, 0x80000000, 4].flatMap (leBytes 4), 1)] := by decide +kernel
/-- 09, worked case: a fetch cut at the producer index and the ring end (in a ring in HBM3E). -/
theorem test_fetch_cut : done (.descriptorFetch ⟨1, []⟩) (queue fun x => { x with size := 6, burst := 3, prod := 0x43, cons := 0x3E, fetch := 0x3E })
    (fun t => decide ((t.dev.q 1).reads = [⟨62, 2, false, none⟩, ⟨64, 3, false, none⟩])) = true := by decide +kernel
/-- 16, worked case: reset, then the always-on domain's supply comes: the start-up waits for the rails. -/
theorem test_power_on : done (.aonPowerOn 4 true) State.reset (fun t => t.dev.aon.powered && decide (t.dev.start.pend = some 7)) = true := by decide +kernel
/-- Disabling an idle saggar turns it off (R165). -/
theorem test_saggar_disable : done (.saggarDisable .pf 0) ready (fun t => (t.dev.sag 0).st == .off && !(t.dev.sag 0).en) = true := by decide +kernel

end Sys2Proof.Tests
end

section
/-!
Register accesses under their access codes (O7, O8): where an offset of the physical function leads, that an access which is served
performs its operation at once, and the one update that each register makes.
`Sys2Proof.Tests.ready` and `Sys2Proof.Tests.wit_wide_access` are states and offsets in which the hypotheses on service hold.
-/
namespace Sys2Proof

/-- What is put over an entry replaces it. -/
theorem Tab.put_put_same {α : Type} (t : Tab α) (k : Nat) (v w : α) : Tab.put (Tab.put t k v) k w = Tab.put t k w := by
  induction t with
  | nil => simp [Tab.put]
  | cons p t ih =>
    obtain ⟨j, x⟩ := p
    simp only [Tab.put]
    split
    · simp [Tab.put]
    · rename_i hj
      split
      · simp [Tab.put]
      · rename_i hk
        simp [Tab.put, hj, hk, ih]

end Sys2Proof

namespace Sys2Proof.Machine

/-- An access that is served is not answered with Unsupported Request (R222, R418). -/
theorem Dev.readUnsupported_of_serves {d : Dev} {ag : Agent} {p : RegPlace} (h : d.serves ag p = true) :
    d.readUnsupported ag p = false := by
  cases ag with
  | con => rfl
  | reg _ => rfl
  | pf => by_cases hp : p = .aon <;> simp_all [Dev.serves, Dev.linkServes, Dev.readUnsupported]
  | vf _ => by_cases hp : p = .aon <;> simp_all [Dev.serves, Dev.linkServes, Dev.readUnsupported]

theorem barBlocks_disjoint : ∀ x ∈ barBlocks, ∀ y ∈ barBlocks, x = y ∨ x.1 + x.2 ≤ y.1 ∨ y.1 + y.2 ≤ x.1 := by decide

theorem barBlocks_below : ∀ x ∈ barBlocks, x.1 + x.2 ≤ 0x1000000 := by decide

theorem barBlocks_find {x : Nat × Nat} (hx : x ∈ barBlocks) {o : Nat} (ho : o < x.2) :
    barBlocks.find? (fun y => y.1 ≤ x.1 + o && x.1 + o < y.1 + y.2) = some x := by
  cases h : barBlocks.find? (fun y => y.1 ≤ x.1 + o && x.1 + o < y.1 + y.2) with
  | none => simpa [ho] using List.find?_eq_none.mp h x hx
  | some y =>
    have hy := List.find?_some h
    simp only [Bool.and_eq_true, decide_eq_true_eq] at hy
    rcases barBlocks_disjoint x hx y (List.mem_of_find?_eq_some h) with e | e | e
    · rw [e]
    · omega
    · omega

/-- BAR0 of the physical function leads to its blocks (R499): they lie apart, below the views and the MSI-X structures. -/
theorem Dev.regRef_pf_block (d : Dev) {base n o off : Nat} (hx : (base, n) ∈ barBlocks) (ho : o < n) (hoff : off = base + o) :
    d.regRef .pf off = .blk base o := by
  subst hoff
  have hb : base + n ≤ 0x1000000 := barBlocks_below _ hx
  have hview : ¬(0x2000000 ≤ base + o ∧ base + o < 0x2800000) := by omega
  have htable : (configId 0).msix.inTable (base + o) = false := by
    simp [configId, MsixId.inTable]; omega
  have hpba : (configId 0).msix.inPba (base + o) = false := by
    simp [configId, MsixId.inPba]; omega
  simp [Dev.regRef, hview, htable, hpba, barBlocks_find hx ho]

/-- 0x7000 lies in no block (R499, R503). -/
theorem Dev.regRef_pf_gap (d : Dev) : d.regRef .pf 0x7000 = .none := by
  simp [Dev.regRef, configId, MsixId.inTable, MsixId.inPba, barBlocks]

/-- A register of a saggar's page outside SAG is held in that view, for reads and writes alike (R500, R510). -/
theorem Dev.refPlace_page (d : Dev) (ag : Agent) {base o s : Nat} (wr : Bool) (hb : 0x6000 < base) (hn : base ≠ 0x30000)
    (hs : pageSag base o = some s) : d.refPlace ag (.blk base o) wr = .view s false := by
  have h1 : ¬(0x3000 ≤ base ∧ base ≤ 0x6000) := by omega
  simp [Dev.refPlace, h1, hs, hn]

/-- An aligned access that is served reaches its registers at once. -/
theorem W.agentAccess_served {w : W} {ag : Agent} {off size : Nat} {wr : Bool} {r : RegRef} {op : RegOp}
    (hr : w.dev.regRef ag off = r) (ha : off % size = 0) (hs : w.dev.serves ag (w.dev.refPlace ag r wr) = true) :
    w.agentAccess ag off size wr op = w.regOp ag op := by
  subst hr
  have hp := Dev.readUnsupported_of_serves hs
  simp only [W.agentAccess, ha, decide_true, Bool.and_true, hp, Bool.false_eq_true, and_false, if_false, if_true]
  exact W.regAccess_served _ _ _ _ _ (by simpa [Dev.serves] using hs)

/-- An agent may make an access of 4 bytes, or of 8 where `wide`, at `off`; it is aligned, reaches the register `r` first and is served
(R227, R505). -/
def Dev.ServesReg (d : Dev) (ag : Agent) (off : Nat) (wide wr : Bool) (r : RegRef) : Prop :=
  regAccessWf ag off wide = true ∧ off % (if wide then 8 else 4) = 0 ∧ d.regRef ag off = r ∧ d.serves ag (d.refPlace ag r wr) = true

/-- The physical function's access to a register of a saggar's page is served where the view is. -/
theorem Dev.servesReg_page {d : Dev} {base n o off s : Nat} {wide wr : Bool} (hx : (base, n) ∈ barBlocks) (ho : o < n)
    (hoff : off = base + o) (ha : off % (if wide then 8 else 4) = 0) (hb : 0x6000 < base) (hn : base ≠ 0x30000)
    (hp : pageSag base o = some s) (hs : d.serves .pf (.view s false) = true) : d.ServesReg .pf off wide wr (.blk base o) := by
  have hbelow : base + n ≤ 0x1000000 := barBlocks_below _ hx
  have hspace : off < 0x4000000 := by omega
  refine ⟨?_, ha, d.regRef_pf_block hx ho hoff, ?_⟩
  · simp [regAccessWf, agentSpace, hspace]
  · rwa [d.refPlace_page .pf wr hb hn hp]

theorem exec_registerWrite (ag : Agent) (off : Nat) (v : RegData) (s : State) :
    exec (.registerWrite ag off v) s = execRegisterWrite ag off v s := rfl

theorem exec_registerReadClear (ag : Agent) (off : RegOff) (s : State) :
    exec (.registerReadClear ag off) s = execRegisterReadClear ag off s := rfl

theorem exec_hintRead (ag : Agent) (k : Fin 128) (h : Fin 16) (s : State) :
    exec (.hintRead ag k h) s = execHintRead ag k h s := rfl

theorem checked_true {ok : Bool} (h : ok = true) (f : W → W) (s : State) : checked ok f s = act f s := by
  subst h; rfl

section Completes
variable {s : State} {ag : Agent} {off : Nat} {r r' : RegRef} {P : State → Prop}

theorem completes_registerWrite_word {v : Word} (h : s.dev.ServesReg ag off false true r)
    (hp : P (s.after (s.work.regWrite r v))) : Completes (.registerWrite ag off (.word v)) s P := by
  obtain ⟨hwf, ha, hr, hs⟩ := h
  refine completes_act ((exec_registerWrite ..).trans (checked_true hwf _ _)) ?_
  dsimp only
  rw [W.agentAccess_served (w := s.work) (size := 4) hr ha hs, show s.work.dev.regRef ag off = r from hr]
  exact hp

theorem completes_registerWrite_pair {v : DWord} (h : s.dev.ServesReg ag off true true r) (hr' : s.dev.regRef ag (off + 4) = r')
    (hp : P (s.after ((s.work.regWrite r (v.setWidth 32)).regWrite r' ((v >>> 32).setWidth 32)))) :
    Completes (.registerWrite ag off (.pair v)) s P := by
  obtain ⟨hwf, ha, hr, hs⟩ := h
  refine completes_act ((exec_registerWrite ..).trans (checked_true hwf _ _)) ?_
  dsimp only
  rw [W.agentAccess_served (w := s.work) (size := 8) hr ha hs, show s.work.dev.regRef ag off = r from hr,
    show s.work.dev.regRef ag (off + 4) = r' from hr']
  exact hp

theorem completes_registerRead_word (h : s.dev.ServesReg ag off false false r) (hp : P (s.after (s.work.readOut ag r off))) :
    Completes (.registerReadClear ag ⟨off, false⟩) s P := by
  obtain ⟨hwf, ha, hr, hs⟩ := h
  refine completes_act ((exec_registerReadClear ..).trans (checked_true hwf _ _)) ?_
  dsimp only [W.agentRead]
  rw [if_neg Bool.false_ne_true, W.agentAccess_served (w := s.work) (size := 4) hr ha hs, show s.work.dev.regRef ag off = r from hr]
  exact hp

theorem completes_registerRead_pair (h : s.dev.ServesReg ag off true false r) (hr' : s.dev.regRef ag (off + 4) = r')
    (hp : P (s.after ((s.work.readOut ag r off).readOut ag r' (off + 4)))) :
    Completes (.registerReadClear ag ⟨off, true⟩) s P := by
  obtain ⟨hwf, ha, hr, hs⟩ := h
  refine completes_act ((exec_registerReadClear ..).trans (checked_true hwf _ _)) ?_
  dsimp only [W.agentRead]
  rw [if_pos rfl, W.agentAccess_served (w := s.work) (size := 8) hr ha hs, show s.work.dev.regRef ag off = r from hr,
    show s.work.dev.regRef ag (off + 4) = r' from hr']
  exact hp

theorem completes_hintRead {k : Fin 128} {h : Fin 16} (hs : s.dev.serves ag (.view k false) = true)
    (hp : P (s.after ((s.work.clearHint k h).out
      (.regRead ag (hintOff ag k h) ((Tab.look 0 (s.dev.num k).hint h).setWidth 32))))) :
    Completes (.hintRead ag k h) s P := by
  refine completes_act ((exec_hintRead ..).trans rfl) ?_
  have hu : s.work.dev.readUnsupported ag (.view k false) = false := Dev.readUnsupported_of_serves hs
  simp only [hu, Bool.false_eq_true, if_false]
  rw [W.regAccess_served _ _ _ _ _ (by simpa [Dev.serves] using hs)]
  exact hp

end Completes

section Units
variable (w : W) (k j : Nat)

theorem W.modSag_modSag (f g : Sag → Sag) : (w.modSag k f).modSag k g = w.modSag k (fun x => g (f x)) := by
  simp [W.modSag, W.modCmp, Tab.put_put_same]

theorem W.modMem_modMem (f g : MemPage → MemPage) : (w.modMem k f).modMem k g = w.modMem k (fun x => g (f x)) := by
  simp [W.modMem, W.modCmp, Tab.put_put_same]

theorem W.modSag_sag (f : Sag → Sag) : (w.modSag k f).dev.sag j = if j = k then f (w.dev.sag k) else w.dev.sag j :=
  Tab.look_put ..

theorem W.modNum_num (f : Num → Num) : (w.modNum k f).dev.num j = if j = k then f (w.dev.num k) else w.dev.num j :=
  Tab.look_put ..

theorem W.modMem_mpage (f : MemPage → MemPage) :
    (w.modMem k f).dev.mpage j = if j = k then f (w.dev.mpage k) else w.dev.mpage j :=
  Tab.look_put ..

theorem W.modQ_q (f : DmaQ → DmaQ) : (w.modQ k f).dev.q j = if j = k then f (w.dev.q k) else w.dev.q j :=
  Tab.look_put ..

@[simp] theorem W.out_sag (x : Out) : (w.out x).dev.sag j = w.dev.sag j := rfl

@[simp] theorem W.out_num (x : Out) : (w.out x).dev.num j = w.dev.num j := rfl

theorem W.modSag_out (f : Sag → Sag) (x : Out) : (w.out x).modSag k f = (w.modSag k f).out x := rfl

end Units

/-- Bit by bit: word `k` is the new one, every other word as before. -/
theorem getLsbD_putWord {n : Nat} (x : BitVec n) (k : Nat) (v : Word) {i : Nat} (hi : i < n) :
    (putWord x k v).getLsbD i = if i / 32 = k then v.getLsbD (i % 32) else x.getLsbD i := by
  have hv : v.toNat &&& 0xFFFFFFFF = v.toNat := by
    rw [show 0xFFFFFFFF = 2 ^ 32 - 1 from rfl, Nat.and_two_pow_sub_one_eq_mod, Nat.mod_eq_of_lt v.isLt]
  have hw : (v.toNat * 2 ^ (32 * k)).testBit i = (decide (32 * k ≤ i) && v.getLsbD (i - 32 * k)) :=
    Nat.testBit_mul_two_pow ..
  have hm : (0xFFFFFFFF * 2 ^ (32 * k)).testBit i = (decide (32 * k ≤ i) && decide (i - 32 * k < 32)) := by
    rw [Nat.testBit_mul_two_pow, show 0xFFFFFFFF = 2 ^ 32 - 1 from rfl, Nat.testBit_two_pow_sub_one]
  simp only [putWord, BitVec.getLsbD_or, BitVec.getLsbD_and, BitVec.getLsbD_not, BitVec.getLsbD_ofNat, hi, hv, hw, hm,
    decide_true, Bool.true_and]
  by_cases hk : i / 32 = k
  · have h1 : 32 * k ≤ i := by omega
    have h2 : i - 32 * k < 32 := by omega
    have h3 : i - 32 * k = i % 32 := by omega
    simp [hk, h1, h3, Nat.mod_lt]
  · rw [if_neg hk]
    by_cases h1 : 32 * k ≤ i
    · have h2 : ¬ i - 32 * k < 32 := by omega
      simp [h2, BitVec.getLsbD_of_ge v _ (Nat.le_of_not_lt h2)]
    · simp [h1]

/-- Both words of a value of 64 bits replaced. -/
theorem putWord_both (x v : DWord) : putWord (putWord x 0 (v.setWidth 32)) 1 ((v >>> 32).setWidth 32) = v := by
  refine BitVec.eq_of_getLsbD_eq fun i hi => ?_
  have hm : i % 32 < 32 := Nat.mod_lt _ (by decide)
  rw [getLsbD_putWord _ _ _ hi, getLsbD_putWord _ _ _ hi]
  split
  · have e : 32 + i % 32 = i := by omega
    simp [hm, e]
  · have e : i % 32 = i := by omega
    have h0 : i / 32 = 0 := by omega
    simp [BitVec.getLsbD_setWidth, h0, e]
    omega

section Registers
variable (w : W) (k : Nat) (v : Word)

theorem W.regWrite_numMode : w.regWrite (.blk 0x28000 (0x100 * k)) v = w.modNum k fun n => { n with relaxed := v.getLsbD 0 } := by
  simp [W.regWrite]

theorem W.regWrite_qstat : w.regWrite (.blk 0x20000 (0x40 * k + 0x1C)) v =
    w.modQ k fun x => { x with overd := x.overd && !v.getLsbD 29 } := by
  have h1 : (0x40 * k + 0x1C) / 0x40 = k := by omega
  have h2 : (0x40 * k + 0x1C) % 0x40 = 0x1C := by omega
  simp [W.regWrite, W.writeDma, h1, h2]

theorem W.regWrite_devid : w.regWrite (.blk 0 0) v = w := rfl

theorem W.regWrite_none : w.regWrite .none v = w := rfl

theorem W.regWrite_inva {k : Nat} (hk : k < 128) (x : DWord) :
    (w.regWrite (.blk 0x38000 (0x80 * k + 0x18)) (x.setWidth 32)).regWrite (.blk 0x38000 (0x80 * k + 0x1C)) ((x >>> 32).setWidth 32) =
      w.modMem k fun p => { p with inva := x } := by
  have l1 : 0x80 * k + 0x18 < 0x4000 := by omega
  have l2 : 0x80 * k + 0x1C < 0x4000 := by omega
  have d1 : (0x80 * k + 0x18) / 0x80 = k := by omega
  have d2 : (0x80 * k + 0x1C) / 0x80 = k := by omega
  have m1 : (0x80 * k + 0x18) % 0x80 = 0x18 := by omega
  have m2 : (0x80 * k + 0x1C) % 0x80 = 0x1C := by omega
  simp [W.regWrite, W.writeMem, W.writeMemPage, l1, l2, d1, d2, m1, m2, W.modMem_modMem, putWord_both]

theorem W.readOut_degen {k : Nat} (hk : k < 128) (ag : Agent) (off : Nat) :
    w.readOut ag (.blk 0x8000 (0x10 * k)) off =
      (w.modSag k fun g => { g with degen := 0 }).out (.regRead ag off (w.dev.sag k).degen) := by
  have l : 0x10 * k < 0x800 := by omega
  simp [W.readOut, W.regRead, W.regVal, W.regClear, Dev.readRow, l]

theorem W.readOut_nanx {k : Nat} (hk : k < 128) (ag : Agent) (off : Nat) :
    w.readOut ag (.blk 0x8000 (0x10 * k + 4)) off =
      (w.modSag k fun g => { g with nanx := 0 }).out (.regRead ag off (w.dev.sag k).nanx) := by
  have l : 0x10 * k + 4 < 0x800 := by omega
  have d : (0x10 * k + 4) / 0x10 = k := by omega
  have m : (0x10 * k + 4) % 0x10 = 4 := by omega
  simp [W.readOut, W.regRead, W.regVal, W.regClear, Dev.readRow, l, d, m]

theorem W.readOut_degen_nanx {k : Nat} (hk : k < 128) (ag : Agent) (off off' : Nat) :
    (w.readOut ag (.blk 0x8000 (0x10 * k)) off).readOut ag (.blk 0x8000 (0x10 * k + 4)) off' =
      ((w.modSag k fun g => { g with degen := 0, nanx := 0 }).out (.regRead ag off (w.dev.sag k).degen)).out
        (.regRead ag off' (w.dev.sag k).nanx) := by
  rw [W.readOut_degen w hk, W.readOut_nanx _ hk, W.modSag_out, W.modSag_modSag, W.out_sag, W.modSag_sag, if_pos rfl]

end Registers

section Places
variable {s : State} {k : Nat}

theorem servesReg_numMode (hk : k < 128) (hs : s.dev.serves .pf (.view k false) = true) :
    s.dev.ServesReg .pf (0x28000 + 0x100 * k) false true (.blk 0x28000 (0x100 * k)) :=
  Dev.servesReg_page (n := 0x8000) (by decide) (by omega) rfl (by simp; omega) (by decide) (by decide) (by simp [pageSag]) hs

theorem servesReg_qstat (hk : k < 256) (hs : s.dev.serves .pf (.view (k / 2) false) = true) :
    s.dev.ServesReg .pf (0x20000 + 0x40 * k + 0x1C) false true (.blk 0x20000 (0x40 * k + 0x1C)) :=
  Dev.servesReg_page (n := 0x4000) (by decide) (by omega) (by omega) (by simp; omega) (by decide) (by decide)
    (by simp [pageSag]; omega) hs

theorem servesReg_inva (hk : k < 128) (hs : s.dev.serves .pf (.view k false) = true) :
    s.dev.ServesReg .pf (0x38000 + 0x80 * k + 0x18) true true (.blk 0x38000 (0x80 * k + 0x18)) :=
  Dev.servesReg_page (n := 0x8000) (by decide) (by omega) (by omega) (by simp; omega) (by decide) (by decide)
    (by simp [pageSag]; omega) hs

theorem servesReg_degen {wide : Bool} (hk : k < 128) (hs : s.dev.serves .pf (.view k false) = true) :
    s.dev.ServesReg .pf (0x8000 + 0x10 * k) wide false (.blk 0x8000 (0x10 * k)) :=
  Dev.servesReg_page (n := 0x2000) (by decide) (by omega) rfl (by split <;> omega) (by decide) (by decide)
    (by simp [pageSag]; omega) hs

theorem servesReg_devid (hs : s.dev.serves .pf .glob = true) : s.dev.ServesReg .pf 0 false true (.blk 0 0) :=
  ⟨rfl, rfl, Dev.regRef_pf_block _ (n := 0x1000) (by decide) (by decide) rfl, hs⟩

theorem servesReg_gap (hs : s.dev.serves .pf (.view 0 false) = true) : s.dev.ServesReg .pf 0x7000 false true .none :=
  ⟨rfl, rfl, Dev.regRef_pf_gap _, hs⟩

end Places

/-- Settles O7: each write is served at its register, whose effect is one update of one record (R10, R505); the frames follow from
that. -/
theorem registerWritesFollowAccessCodes : Obligations.RegisterWritesFollowAccessCodes := by
  intro s v
  refine ⟨fun k hs => ?_, fun q hs => ?_, fun hs => ?_, fun hs => ?_, fun k x hs => ?_⟩
  · refine completes_registerWrite_word (servesReg_numMode k.isLt hs) ?_
    rw [W.regWrite_numMode]
    refine ⟨?_, ?_, only_after rfl rfl, fun j hj => ?_⟩ <;> simp only [State.after_dev, W.modNum_num, State.work_dev]
    · rfl
    · rfl
    · rw [if_neg hj]
  · refine completes_registerWrite_word (servesReg_qstat q.isLt hs) ?_
    rw [W.regWrite_qstat]
    refine ⟨?_, only_after rfl rfl, fun j hj => ?_⟩
    · rw [State.after_dev, W.modQ_q, if_pos rfl]; rfl
    · rw [State.after_dev, W.modQ_q, if_neg hj]; rfl
  · exact completes_registerWrite_word (servesReg_devid hs) (State.after_work s)
  · exact completes_registerWrite_word (servesReg_gap hs) (State.after_work s)
  · refine completes_registerWrite_pair (servesReg_inva k.isLt hs)
      (Dev.regRef_pf_block _ (base := 0x38000) (n := 0x8000) (o := 0x80 * k + 0x1C) (by decide) (by omega) (by omega)) ?_
    rw [W.regWrite_inva _ k.isLt]
    refine ⟨?_, fun j hj => ?_, only_after rfl rfl⟩
    · rw [State.after_dev, W.modMem_mpage, if_pos rfl]; rfl
    · rw [State.after_dev, W.modMem_mpage, if_neg hj]; rfl

/-- Settles O8: the value put out is that of the state before, and the clear is one update of the saggar's record (R10, R60, R505). -/
theorem readClearReturnsAndClears : Obligations.ReadClearReturnsAndClears := by
  intro s k hs
  refine ⟨?_, ?_, fun h => ?_⟩
  · refine completes_registerRead_word (servesReg_degen k.isLt hs) ?_
    rw [W.readOut_degen _ k.isLt]
    refine ⟨rfl, ?_, fun j hj => ?_, only_after rfl rfl⟩ <;> rw [State.after_dev, W.out_sag, W.modSag_sag]
    · rw [if_pos rfl]; rfl
    · rw [if_neg hj]; rfl
  · refine completes_registerRead_pair (servesReg_degen k.isLt hs)
      (Dev.regRef_pf_block _ (base := 0x8000) (n := 0x2000) (o := 0x10 * k + 4) (by decide) (by omega) (by omega)) ?_
    rw [W.readOut_degen_nanx _ k.isLt]
    refine ⟨rfl, ?_, fun j hj => ?_, only_after rfl rfl⟩ <;> rw [State.after_dev, W.out_sag, W.out_sag, W.modSag_sag]
    · rw [if_pos rfl]; rfl
    · rw [if_neg hj]; rfl
  · refine completes_hintRead hs ⟨rfl, ?_, fun j => ?_, fun j hj => ?_, only_after rfl rfl⟩ <;>
      rw [State.after_dev, W.out_num, W.clearHint, W.modNum_num]
    · rw [if_pos rfl]; rfl
    · rw [if_pos rfl]; exact Tab.look_put ..
    · rw [if_neg hj]; rfl

end Sys2Proof.Machine
end

section
/-!
The reset state (O6) and the array clock (O10): what a write to HUB.ACLK.target and the end of a transition leave (R26, R410).
`Sys2Proof.Tests.wit_clock_target` and `Sys2Proof.Tests.wit_clock_again` are states that meet the hypotheses on the clock.
-/
namespace Sys2Proof.Machine

section Reset

theorem State.reset_safe : State.reset.safe := rfl

variable (k : Nat)

theorem reset_thr : State.reset.dev.thr k = .reset := Tab.look_nil ..

theorem reset_sag : State.reset.dev.sag k = .reset := Tab.look_nil ..

theorem reset_num : State.reset.dev.num k = .reset := Tab.look_nil ..

theorem reset_q : State.reset.dev.q k = .reset := Tab.look_nil ..

theorem reset_cl : State.reset.dev.cl k = .reset := Tab.look_nil ..

theorem Cluster.reset_slot : Cluster.reset.slot k = .free := Tab.look_nil ..

theorem reset_claimHolder : claimHolder State.reset.dev.con k = 0 := Tab.look_nil ..

end Reset

/-- Settles O6: a unit without an entry of its own stands at its reset record, whose fields are the values of the register tables. -/
theorem resetLeavesSpecifiedValues : Obligations.ResetLeavesSpecifiedValues := by
  refine ⟨State.reset_safe, rfl, by decide, by decide, fun s _ => ?_, fun q _ => ?_, fun n _ k _ => ?_,
    fun k _ => reset_claimHolder k, rfl⟩
  · rw [reset_thr, reset_sag, reset_num]; exact ⟨rfl, rfl, rfl, rfl, rfl⟩
  · rw [reset_q]; rfl
  · rw [reset_cl, Cluster.reset_slot]; rfl

section Clock
variable (w : W)

/-- The rail follows the setpoint while it is good (R410, R433). -/
theorem W.setVcore_rail (mv : Nat) (h : w.dev.sup.good.getLsbD 3 = true) : Tab.look 0 (w.setVcore mv).dev.sup.mv 3 = mv := by
  simp [W.setVcore, h]

/-- Work on the clock changes the clock, the VCORE setpoint and what its rail shows, and no memory. -/
def OnlyClock (w w' : W) : Prop :=
  w' = { w with dev := { w.dev with hub := w'.dev.hub, sup := { w.dev.sup with vset := w'.dev.sup.vset, mv := w'.dev.sup.mv } } }

variable {w}

theorem OnlyClock.refl : OnlyClock w w := rfl

theorem OnlyClock.modHub (f : Hub → Hub) : OnlyClock w (w.modHub f) := rfl

theorem OnlyClock.setVcore (mv : Nat) : OnlyClock w (w.setVcore mv) := rfl

theorem OnlyClock.trans {w₁ w₂ w₃ : W} (h : OnlyClock w₁ w₂) (h' : OnlyClock w₂ w₃) : OnlyClock w₁ w₃ := by
  unfold OnlyClock at *; rw [h', h]

theorem OnlyClock.only {s : State} {w : W} (h : OnlyClock s.work w) :
    Only (fun d e => { d with hub := e.hub, sup := { d.sup with vset := e.sup.vset, mv := e.sup.mv } }) s (s.after w) :=
  only_after (by rw [h]; rfl) (by rw [h]; rfl)

/-- Whether a transition may start depends on the point in force and on nothing else of the clock. -/
theorem W.modHub_dvfsOpen {f : Hub → Hub} (hf : (f w.dev.hub).cur = w.dev.hub.cur) (v : BitVec 4) :
    (w.modHub f).dev.dvfsOpen v = w.dev.dvfsOpen v := by
  show (_ && !(_ && decide ((f w.dev.hub).cur < v))) = _
  rw [hf]; rfl

theorem W.dvfsGo_shut (h : ¬ w.dev.dvfsOpen w.dev.hub.tgt = true) : w.dvfsGo = w := if_neg h

theorem W.dvfsGo_hub (h : w.dev.dvfsOpen w.dev.hub.tgt = true) :
    w.dvfsGo.dev.hub = { w.dev.hub with dvfs := some w.dev.hub.tgt, again := false } := by
  simp only [W.dvfsGo, h, if_true]
  split <;> rfl

/-- Before a raise VCORE goes up (R410). -/
theorem W.dvfsGo_vset (h : w.dev.dvfsOpen w.dev.hub.tgt = true) :
    w.dvfsGo.dev.sup.vset = if w.dev.hub.cur < w.dev.hub.tgt then vcoreSet w.dev.hub.tgt.toNat else w.dev.sup.vset := by
  simp only [W.dvfsGo, h, if_true]
  split <;> rfl

theorem W.dvfsGo_onlyClock : OnlyClock w w.dvfsGo := by
  unfold W.dvfsGo
  dsimp only
  split
  · split
    · exact (OnlyClock.modHub _).trans (OnlyClock.setVcore _)
    · exact OnlyClock.modHub _
  · exact OnlyClock.refl

theorem W.dvfsGo_cur : w.dvfsGo.dev.hub.cur = w.dev.hub.cur := by
  by_cases h : w.dev.dvfsOpen w.dev.hub.tgt = true
  · rw [W.dvfsGo_hub h]
  · rw [W.dvfsGo_shut h]

theorem W.dvfsGo_tgt : w.dvfsGo.dev.hub.tgt = w.dev.hub.tgt := by
  by_cases h : w.dev.dvfsOpen w.dev.hub.tgt = true
  · rw [W.dvfsGo_hub h]
  · rw [W.dvfsGo_shut h]

/-- The clock with its target set and no transition in progress; one in progress is remembered as abandoned (R26). -/
def W.aimed (w : W) (v : BitVec 4) : W :=
  w.modHub fun h => { h with tgt := v, dvfs := none, again := h.again || h.dvfs.isSome }

theorem W.aimed_dvfsOpen (v : BitVec 4) : (w.aimed v).dev.dvfsOpen (w.aimed v).dev.hub.tgt = w.dev.dvfsOpen v :=
  W.modHub_dvfsOpen rfl v

variable {v : BitVec 4}

theorem W.aclk_unchanged (h : 8 < v ∨ w.dev.hub.dvfs = some v ∨ (w.dev.hub.dvfs = none ∧ w.dev.hub.tgt = v)) : w.aclk v = w := by
  unfold W.aclk
  by_cases h8 : 8 < v
  · exact if_pos h8
  · exact (if_neg h8).trans (if_pos (h.resolve_left h8))

theorem W.aclk_inForce (h : ¬(8 < v ∨ w.dev.hub.dvfs = some v ∨ (w.dev.hub.dvfs = none ∧ w.dev.hub.tgt = v)))
    (hd : w.dev.hub.dvfs = none) (ha : w.dev.hub.again = false) (hv : v = w.dev.hub.cur) :
    w.aclk v = w.modHub fun h => { h with tgt := v } := by
  obtain ⟨h8, hs⟩ := not_or.mp h
  exact (if_neg h8).trans ((if_neg hs).trans (if_pos ⟨hd, by simp [ha], hv⟩))

theorem W.aclk_go (h8 : v ≤ 8) (hd : w.dev.hub.dvfs ≠ some v)
    (hn : w.dev.hub.dvfs = none → w.dev.hub.tgt ≠ v ∧ (w.dev.hub.again = true ∨ v ≠ w.dev.hub.cur)) :
    w.aclk v = (w.aimed v).dvfsGo := by
  have h8' : ¬ 8 < v := BitVec.not_lt.mpr h8
  have hs : ¬(w.dev.hub.dvfs = some v ∨ (w.dev.hub.dvfs = none ∧ w.dev.hub.tgt = v)) := by
    rintro (e | ⟨e, ht⟩)
    · exact hd e
    · exact (hn e).1 ht
  have hc : ¬(w.dev.hub.dvfs = none ∧ (!w.dev.hub.again) = true ∧ v = w.dev.hub.cur) := by
    rintro ⟨e, ha, hv⟩
    rcases (hn e).2 with h | h
    · simp [h] at ha
    · exact h hv
  exact (if_neg h8').trans ((if_neg hs).trans (if_neg hc))

/-- A write to HUB.ACLK.target changes nothing, sets the target alone, or sets it and starts the transition where it may start. -/
theorem W.aclk_cases (w : W) (v : BitVec 4) :
    ((8 < v ∨ w.dev.hub.dvfs = some v ∨ (w.dev.hub.dvfs = none ∧ w.dev.hub.tgt = v)) ∧ w.aclk v = w) ∨
      (w.aclk v = w.modHub fun h => { h with tgt := v }) ∨ w.aclk v = (w.aimed v).dvfsGo := by
  unfold W.aclk
  dsimp only
  split
  · exact .inl ⟨.inl ‹_›, rfl⟩
  · split
    · exact .inl ⟨.inr ‹_›, rfl⟩
    · split
      · exact .inr (.inl rfl)
      · exact .inr (.inr rfl)

theorem W.aclk_onlyClock : OnlyClock w (w.aclk v) := by
  rcases w.aclk_cases v with ⟨-, e⟩ | e | e <;> rw [e]
  · exact OnlyClock.refl
  · exact OnlyClock.modHub _
  · exact (OnlyClock.modHub _).trans W.dvfsGo_onlyClock

theorem W.aclk_cur : (w.aclk v).dev.hub.cur = w.dev.hub.cur := by
  rcases w.aclk_cases v with ⟨-, e⟩ | e | e <;> rw [e]
  · rfl
  · rw [W.dvfsGo_cur]; rfl

/-- A point written is the target from then on, unless a transition to it runs. -/
theorem W.aclk_tgt (h8 : v ≤ 8) (hd : w.dev.hub.dvfs ≠ some v) : (w.aclk v).dev.hub.tgt = v := by
  rcases w.aclk_cases v with ⟨h | h | ⟨-, h⟩, e⟩ | e | e
  · exact absurd h (BitVec.not_lt.mpr h8)
  · exact absurd h hd
  · rw [e, h]
  · rw [e]; rfl
  · rw [e, W.dvfsGo_tgt]; rfl

/-- The point in force starts no transition where none was abandoned. -/
theorem W.aclk_dvfs_of_inForce (hd : w.dev.hub.dvfs = none) (ha : w.dev.hub.again = false) (hv : v = w.dev.hub.cur) :
    (w.aclk v).dev.hub.dvfs = none := by
  by_cases h : 8 < v ∨ w.dev.hub.dvfs = some v ∨ (w.dev.hub.dvfs = none ∧ w.dev.hub.tgt = v)
  · rw [W.aclk_unchanged h, hd]
  · rw [W.aclk_inForce h hd ha hv]; exact hd

theorem exec_aclkTargetWrite (ag : Agent) (v : Word) (s : State) : exec (.aclkTargetWrite ag v) s = execAclkTargetWrite ag v s := rfl

theorem exec_dvfsTransitionDone (s : State) : exec .dvfsTransitionDone s = execDvfsTransitionDone s := rfl

end Clock

/-- Settles O10: a write leaves the clock, sets its target, or sets it and starts the transition (`W.aclk_cases`); which of them, the
state before and the target written decide (R26, R410). -/
theorem clockTargetWrites : Obligations.ClockTargetWrites := by
  refine ⟨fun s ag v hs => ?_, fun s => ?_⟩
  · refine completes_served (exec_aclkTargetWrite ..) hs ?_
    refine ⟨W.aclk_cur, fun h => ?_, W.aclk_tgt (w := s.work), W.aclk_dvfs_of_inForce (w := s.work),
      fun h8 hd hn => ?_, W.aclk_onlyClock.only⟩
    · rw [W.aclk_unchanged h, State.after_work]
    · rw [W.aclk_go h8 hd hn, State.after_dev]
      have ho := s.work.aimed_dvfsOpen (v.truncate 4)
      split
      case isTrue hopen =>
        have ho := ho.trans hopen
        rw [W.dvfsGo_hub ho, W.dvfsGo_vset ho]
        exact ⟨rfl, rfl, rfl⟩
      case isFalse hshut =>
        rw [W.dvfsGo_shut (ho ▸ hshut)]
        exact ⟨rfl, rfl, rfl⟩
  · refine completes_act (exec_dvfsTransitionDone s) ?_
    cases hd : s.dev.hub.dvfs with
    | none => simp [hd]
    | some p =>
      simp only [State.work_dev, hd]
      refine ⟨nofun, fun q hq => ?_⟩
      cases hq
      exact ⟨rfl, rfl, fun hg => W.setVcore_rail _ _ hg, ((OnlyClock.modHub _).trans (OnlyClock.setVcore _)).only⟩

end Sys2Proof.Machine
end

section
/-!
Thread instructions that name registers, the fault ILLEGAL, and vector conversion (O17; R52–R58, R171, R515): one rule per write to a
bundle, what one element's conversion changes, and by induction what the conversion of all active elements leaves.
`Sys2Proof.Tests.wit_vector` is a state in which the hypotheses on the fetch hold.
-/
namespace Sys2Proof.Machine

section Bundles
variable (b : Bundle) (r q i j l k : Nat)

theorem Bundle.elem_setElem (v : Word) (hi : i < 64) (hj : j < 64) :
    (b.setElem r i v).elem q j = if q = r ∧ j = i then v else b.elem q j := by
  have hat : 64 * q + j = 64 * r + i ↔ q = r ∧ j = i := by omega
  simp only [Bundle.setElem, Bundle.elem, Tab.look_put, hat]

@[simp] theorem Bundle.elem_raise (f : Flags) : (b.raise l f).elem q j = b.elem q j := rfl

@[simp] theorem Bundle.flagsOf_setElem (v : Word) : (b.setElem r i v).flagsOf l = b.flagsOf l := rfl

theorem Bundle.flagsOf_raise (f : Flags) : (b.raise k f).flagsOf l = if l = k then b.flagsOf l ||| flagBits f else b.flagsOf l := by
  simp only [Bundle.raise, Bundle.flagsOf, Tab.look_put]
  split
  case isTrue h => rw [h]
  case isFalse => rfl

theorem mem_activeElems {act : BitVec 16} {i : Nat} : i ∈ activeElems act ↔ i < 64 ∧ act.getLsbD (i / 4) = true := by
  simp [activeElems]

end Bundles

theorem W.addCounts_sag (w : W) (s sat flush : Nat) : (w.addCounts s sat flush).dev.sag s =
    { w.dev.sag s with csat := satBv (w.dev.sag s).csat sat, cflush := satBv (w.dev.sag s).cflush flush } :=
  (W.modSag_sag ..).trans (if_pos rfl)

section Faults
variable (w : W) (cl vu : Nat)

theorem W.modBundle_bundle (f : Bundle → Bundle) : (w.modBundle cl vu f).dev.bundle cl vu = (w.dev.bundle cl vu).map f := by
  simp [W.modBundle, Dev.bundle, Dev.vu]

/-- A bundle that issues is resident and has no fault (R158). -/
theorem Dev.canIssue_some {d : Dev} {x : At} {b : Bundle} (h : d.canIssue x = some b) :
    d.bundle x.cl x.vu = some b ∧ b.faulted = false := by
  unfold Dev.canIssue at h
  split at h
  case h_1 y hy =>
    split at h
    case isTrue hc => cases h; exact ⟨hy, by simpa using hc.2.1⟩
    case isFalse => cases h
  case h_2 => cases h

/-- The fault record of a saggar reaches its registers, vectors and the log, and nothing else (R171, R228). -/
theorem W.fillFault_eq (s : Nat) (words : List Word) :
    w.fillFault s words = { w with dev := { w.dev with
      pci := (w.fillFault s words).dev.pci, outs := (w.fillFault s words).dev.outs, log := (w.fillFault s words).dev.log
      cmp := { w.dev.cmp with sags := (w.fillFault s words).dev.cmp.sags } } } := by
  unfold W.fillFault
  dsimp only
  split
  · rfl
  · split
    · rfl
    · rw [W.fireSag_eq]; rfl

/-- A bundle that has not halted halts at its fault (R171). -/
theorem W.faultBundle_halts {b : Bundle} (hb : w.dev.bundle cl vu = some b) (hf : b.faulted = false)
    (cause sub : Nat) (pc : DWord) (data : Nat) (act : BitVec 16) :
    (w.faultBundle cl vu cause sub pc data act).ws = w.ws ∧
      (w.faultBundle cl vu cause sub pc data act).dev.bundle cl vu = some { b with faulted := true, waiting := .no } := by
  simp only [W.faultBundle, hb, hf, Bool.false_eq_true, if_false]
  rw [W.fillFault_eq]
  exact ⟨rfl, (w.modBundle_bundle cl vu _).trans (by rw [hb]; rfl)⟩

end Faults

/-- A thread instruction that is fetched, with no writer of its registers outstanding, acts in a work that has changed no memory, in
which its bundle stands at the instruction and every saggar's counters and numeric registers are as before. -/
theorem completes_instrR {i : Instr} {s : State} {x : At} {b : Bundle} {regs : List Nat} {f : W → Bundle → BitVec 16 → W}
    {P : State → Prop} (h : exec i s = act (fun w => w.instrR x regs f) s) (hx : Fetches s x b)
    (hr : regs.any (s.dev.regBusy x.cl x.vu) = false)
    (hp : ∀ w : W, w.ws = [] → w.dev.bundle x.cl x.vu = some { b with pc := x.pc } → (∀ k, w.dev.sag k = s.dev.sag k) →
      (∀ k, w.dev.num k = s.dev.num k) → P (s.after (f w b (x.act &&& b.live)))) : Completes i s P := by
  obtain ⟨w, hw, hws, -, -, hdev⟩ := W.instr_fetches hx f
  refine completes_act h ?_
  rw [W.instrR_free hr, hw]
  refine hp w hws ?_ (fun k => ?_) fun k => ?_
  · rw [hdev]; simp [Dev.bundle, Dev.vu]
  · rw [hdev]; rfl
  · rw [hdev]; rfl

/-- A fault of the instruction leaves the memories as they are, and its bundle halted. -/
theorem after_faultAt {s : State} {w : W} {x : At} {b : Bundle} (hws : w.ws = []) (hb : w.dev.bundle x.cl x.vu = some b)
    (hf : b.faulted = false) (act : BitVec 16) (cause sub data : Nat) :
    let t := s.after (w.faultAt x act cause sub data)
    t.mem = s.mem ∧ ∃ b', t.dev.bundle x.cl x.vu = some b' ∧ b'.faulted = true := by
  obtain ⟨hws', hb'⟩ := w.faultBundle_halts x.cl x.vu hb hf cause sub x.pc data act
  exact ⟨by rw [W.faultAt, State.after_of_ws (hws'.trans hws)], _, hb', rfl⟩

section Conversion
variable (relaxed : Bool) (a : CvtArgs) (sf df : Fmt) (ints : List Fmt) (b : Bundle) (act : BitVec 16)

/-- The registers that a conversion writes: the destination, and for a short destination that of the scales. -/
abbrev cvtWrites (r : Nat) : Prop := r = a.dst.val ∨ df.isShort = true ∧ r = a.sdst.val

/-- What a conversion leaves in element `i` of a register that it writes: the scale where the register takes scales, else the code. -/
def cvtWord (r i : Nat) : Word :=
  if df.isShort = true ∧ r = a.sdst.val then BitVec.ofNat 32 (cvtScale relaxed a sf df b act i)
  else BitVec.ofNat 32 (cvtConv relaxed a sf df ints b act i).code

variable (p : Bundle × Nat × Nat) (l : List Nat)

/-- The conversion of some elements, in order. -/
def cvtElems : Bundle × Nat × Nat := l.foldl (cvtElem relaxed a sf df ints b act) p

variable {relaxed a sf df ints b act p l}

theorem cvtElem_elem {r i j : Nat} (hi : i < 64) (hj : j < 64) :
    (cvtElem relaxed a sf df ints b act p i).1.elem r j =
      if j = i ∧ cvtWrites a df r then cvtWord relaxed a sf df ints b act r j else p.1.elem r j := by
  unfold cvtElem
  by_cases hij : j = i
  case neg => dsimp only; split <;> simp [Bundle.elem_setElem, hi, hj, hij]
  case pos =>
    subst hij
    by_cases hs : df.isShort = true
    · by_cases hc : r = a.sdst.val <;> simp [cvtWord, cvtWrites, Bundle.elem_setElem, hs, hc, hj]
    · simp [cvtWord, cvtWrites, Bundle.elem_setElem, hs, hj]

theorem cvtElem_flagsOf (k i : Nat) :
    (cvtElem relaxed a sf df ints b act p i).1.flagsOf k =
      if i / 4 = k then p.1.flagsOf k ||| flagBits (cvtConv relaxed a sf df ints b act i).flags else p.1.flagsOf k := by
  unfold cvtElem
  dsimp only
  split <;> simp [Bundle.flagsOf_raise, eq_comm]

/-- One element's conversion writes vector registers and flags of its bundle and nothing else. -/
theorem cvtElem_keeps (i : Nat) :
    (cvtElem relaxed a sf df ints b act p i).1 =
      { p.1 with vr := (cvtElem relaxed a sf df ints b act p i).1.vr
                 fflags := (cvtElem relaxed a sf df ints b act p i).1.fflags } := by
  unfold cvtElem
  dsimp only
  split <;> rfl

theorem cvtElems_elem {r j : Nat} (hl : ∀ i ∈ l, i < 64) (hj : j < 64) :
    (cvtElems relaxed a sf df ints b act p l).1.elem r j =
      if j ∈ l ∧ cvtWrites a df r then cvtWord relaxed a sf df ints b act r j else p.1.elem r j := by
  induction l generalizing p with
  | nil => simp [cvtElems]
  | cons i l ih =>
    have hi := hl i List.mem_cons_self
    refine (ih fun k hk => hl k (List.mem_cons_of_mem i hk)).trans ?_
    rw [cvtElem_elem hi hj]
    by_cases hw : cvtWrites a df r <;> by_cases hm : j ∈ l <;> simp [hw, hm]

theorem cvtElems_flagsOf (k : Nat) :
    (cvtElems relaxed a sf df ints b act p l).1.flagsOf k =
      (l.filter fun i => i / 4 = k).foldl (fun f i => f ||| flagBits (cvtConv relaxed a sf df ints b act i).flags) (p.1.flagsOf k) := by
  rw [List.foldl_filter]
  simp only [decide_eq_true_eq]
  exact (List.foldl_hom (fun q : Bundle × Nat × Nat => q.1.flagsOf k) fun q i => (cvtElem_flagsOf k i).symm).symm

theorem cvtElems_keeps :
    (cvtElems relaxed a sf df ints b act p l).1 =
      { p.1 with vr := (cvtElems relaxed a sf df ints b act p l).1.vr
                 fflags := (cvtElems relaxed a sf df ints b act p l).1.fflags } := by
  induction l generalizing p with
  | nil => rfl
  | cons i l ih =>
    refine (ih (p := cvtElem relaxed a sf df ints b act p i)).trans ?_
    rw [cvtElem_keeps]
    rfl

@[simp] theorem cvtElems_faulted : (cvtElems relaxed a sf df ints b act p l).1.faulted = p.1.faulted := by rw [cvtElems_keeps]

@[simp] theorem cvtElems_mr : (cvtElems relaxed a sf df ints b act p l).1.mr = p.1.mr := by rw [cvtElems_keeps]

@[simp] theorem cvtElems_live : (cvtElems relaxed a sf df ints b act p l).1.live = p.1.live := by rw [cvtElems_keeps]

@[simp] theorem cvtElems_pc : (cvtElems relaxed a sf df ints b act p l).1.pc = p.1.pc := by rw [cvtElems_keeps]

/-- Adding one for each element that a test picks counts them. -/
theorem foldl_b2n_eq_countP (f : Nat → Bool) (n : Nat) : l.foldl (fun m i => m + b2n (f i)) n = n + l.countP f := by
  induction l generalizing n with
  | nil => rfl
  | cons i l ih =>
    rw [List.foldl_cons, ih, List.countP_cons, b2n]
    omega

theorem cvtElems_sat :
    (cvtElems relaxed a sf df ints b act p l).2.1 = p.2.1 + l.countP fun i => (cvtConv relaxed a sf df ints b act i).sat :=
  (List.foldl_hom (fun q : Bundle × Nat × Nat => q.2.1) fun _ _ => rfl).symm.trans (foldl_b2n_eq_countP _ _)

theorem cvtElems_flush :
    (cvtElems relaxed a sf df ints b act p l).2.2 = p.2.2 + l.countP fun i => (cvtConv relaxed a sf df ints b act i).flush :=
  (List.foldl_hom (fun q : Bundle × Nat × Nat => q.2.2) fun _ _ => rfl).symm.trans (foldl_b2n_eq_countP _ _)

end Conversion

/-- The work of a conversion whose checks pass (R52–R58): the elements of active lanes, the counts, the hint. -/
def W.converts (w : W) (x : At) (a : CvtArgs) (sf df : Fmt) (ints : List Fmt) (b : Bundle) (act : BitVec 16) : W :=
  let relaxed := (w.dev.num b.sag).relaxed
  let r := cvtElems relaxed a sf df ints b act ({ b with pc := x.pc }, 0, 0) (activeElems act)
  let w := (w.modBundle x.cl x.vu fun _ => r.1).addCounts b.sag r.2.1 r.2.2
  if a.hint then w.raiseHint b.sag a.hidx (hintMax 0 ((activeElems act).map fun i => relaxIn relaxed sf (cvtSource a sf b i))) else w

section Converts
variable (w : W) (x : At) (a : CvtArgs) (sf df : Fmt) (ints : List Fmt) (b : Bundle) (act : BitVec 16)

theorem W.converts_ws : (w.converts x a sf df ints b act).ws = w.ws := by
  unfold W.converts
  dsimp only
  split <;> rfl

theorem W.converts_bundle {b₀ : Bundle} (hb : w.dev.bundle x.cl x.vu = some b₀) :
    (w.converts x a sf df ints b act).dev.bundle x.cl x.vu =
      some (cvtElems (w.dev.num b.sag).relaxed a sf df ints b act ({ b with pc := x.pc }, 0, 0) (activeElems act)).1 := by
  have hm := fun f => (w.modBundle_bundle x.cl x.vu f).trans (congrArg _ hb)
  unfold W.converts
  dsimp only
  split <;> exact hm _

theorem W.converts_sag :
    let conv := cvtConv (w.dev.num b.sag).relaxed a sf df ints b act
    (w.converts x a sf df ints b act).dev.sag b.sag =
      { w.dev.sag b.sag with csat := satBv (w.dev.sag b.sag).csat ((activeElems act).countP fun i => (conv i).sat)
                             cflush := satBv (w.dev.sag b.sag).cflush ((activeElems act).countP fun i => (conv i).flush) } := by
  unfold W.converts
  simp only [cvtElems_sat, cvtElems_flush, Nat.zero_add]
  split <;> exact W.addCounts_sag ..

theorem W.converts_num :
    let mag := hintMax 0 ((activeElems act).map fun i => relaxIn (w.dev.num b.sag).relaxed sf (cvtSource a sf b i))
    ((w.converts x a sf df ints b act).dev.num b.sag).relaxed = (w.dev.num b.sag).relaxed ∧
      ∀ h, Tab.look 0 ((w.converts x a sf df ints b act).dev.num b.sag).hint h =
        if a.hint = true ∧ h = a.hidx.val then BitVec.ofNat 31 (max (Tab.look 0 (w.dev.num b.sag).hint h).toNat mag)
        else Tab.look 0 (w.dev.num b.sag).hint h := by
  unfold W.converts
  dsimp only
  cases a.hint with
  | false => exact ⟨rfl, fun h => rfl⟩
  | true =>
    simp only [if_true, W.raiseHint, W.modNum_num, true_and]
    refine ⟨rfl, fun h => (Tab.look_put ..).trans ?_⟩
    split
    case isTrue e => rw [e]; rfl
    case isFalse => rfl

end Converts

theorem exec_vectorConversion (x : At) (a : CvtArgs) (s : State) : exec (.vectorConversion x a) s = execVectorConversion x a s := rfl

/-- Settles O17: elements, flags and counts by induction over the active elements (`cvtElems_elem`, `cvtElems_flagsOf`, `cvtElems_sat`,
`cvtElems_flush`); a reserved format or a check that fails is the fault ILLEGAL (`after_faultAt`). -/
theorem vectorConversionPerLane : Obligations.VectorConversionPerLane := by
  intro s x b a hx _ hr
  refine completes_instrR (exec_vectorConversion x a s) hx (by simpa using hr) fun w hws hb hsag hnum => ?_
  have illegal := after_faultAt (s := s) hws hb (Dev.canIssue_some hx.1).2 (x.act &&& b.live) 1 0 0
  rcases hsf : Fmt.ofCode a.sfmt with _ | sf
  · exact illegal
  rcases hdf : Fmt.ofCode a.dfmt with _ | df
  · exact illegal
  rcases hints : cvtInts a.i1 a.i2 with _ | ints
  · exact illegal
  have hcheck : (pathValid ints df = true ∧ (!(df.isShort && !a.block && decide (a.gscale = 0xFF))) = true) ↔
      pathValid ints df = true ∧ ¬(df.isShort = true ∧ a.block = false ∧ a.gscale = 0xFF) := by
    cases df.isShort <;> cases a.block <;> simp
  by_cases hok : pathValid ints df = true ∧ ¬(df.isShort = true ∧ a.block = false ∧ a.gscale = 0xFF)
  case neg =>
    simp only [if_neg hok, if_neg (mt hcheck.1 hok)]
    exact illegal
  case pos =>
    simp only [if_pos hok, if_pos (hcheck.2 hok), ← hsag, ← hnum]
    have hlt (i : Nat) (hi : i ∈ activeElems (x.act &&& b.live)) := (mem_activeElems.1 hi).1
    change (s.after (w.converts x a sf df ints b (x.act &&& b.live))).mem = _ ∧ _
    refine ⟨?_, _, w.converts_bundle x a sf df ints b _ hb, cvtElems_faulted, cvtElems_mr, cvtElems_live, cvtElems_pc,
      fun i hi hl => ⟨fun hd => ?_, fun hs => ?_⟩, fun r _ i hi hn => ?_, fun l _ => cvtElems_flagsOf l,
      w.converts_sag x a sf df ints b _, w.converts_num x a sf df ints b _⟩
    · rw [State.after_of_ws (w.converts_ws x a sf df ints b _ |>.trans hws)]
    · rw [cvtElems_elem hlt hi, if_pos ⟨mem_activeElems.2 ⟨hi, hl⟩, .inl rfl⟩, cvtWord,
        if_neg fun h => hd ⟨h.1, Fin.ext h.2.symm⟩]
    · rw [cvtElems_elem hlt hi, if_pos ⟨mem_activeElems.2 ⟨hi, hl⟩, .inr ⟨hs, rfl⟩⟩, cvtWord, if_pos ⟨hs, rfl⟩]
    · rw [cvtElems_elem hlt hi, if_neg fun h => hn ⟨(mem_activeElems.1 h.1).2, h.2⟩]
      rfl

end Sys2Proof.Machine
end

section
/-!
The way of a completion record to memory (R28, R80, R191, R204, R340): which units of the block raising a wake, recording a poisoned
channel, sending a packet and writing the record can change.
-/
namespace Sys2Proof.Machine

/-- Work on the way of a record, from `w` to `w'`: the memories change and, of the block, power domains, latched wakes, vectors, the
fabric and its ports, what is put out, the log, the free counter, and of the compute units cached translations, corrected errors, the
saggars' records, the records that wait and the numbers of operations. -/
def RecordWay (w w' : W) : Prop :=
  w'.ecc <:+ w.ecc ∧
  w' = { w with
    mem := w'.mem, ws := w'.ws, ecc := w'.ecc
    dev := { w.dev with
      free := w'.dev.free, outs := w'.dev.outs, pci := w'.dev.pci, ports := w'.dev.ports, fab := w'.dev.fab, pwr := w'.dev.pwr
      temps := w'.dev.temps, log := w'.dev.log
      cmp := { w.dev.cmp with
        mem := w'.dev.cmp.mem, cecc := w'.dev.cmp.cecc, sags := w'.dev.cmp.sags, recs := w'.dev.cmp.recs
        nextId := w'.dev.cmp.nextId } } }

namespace RecordWay
variable {a b c : W}

theorem refl (w : W) : RecordWay w w := ⟨List.suffix_refl _, rfl⟩

theorem trans (h : RecordWay a b) (h' : RecordWay b c) : RecordWay a c := by
  obtain ⟨he, h⟩ := h
  obtain ⟨he', h'⟩ := h'
  refine ⟨he'.trans he, ?_⟩
  rw [h', h]

theorem of_quiet (h : Quiet a b) : RecordWay a b := by
  obtain ⟨he, h⟩ := h
  refine ⟨he, ?_⟩
  rw [h]

theorem sound (h : RecordWay a b) (ha : a.sound) : b.sound := fun e he => ha e (h.1.mem he)

theorem clusters (h : RecordWay a b) : b.dev.cmp.clusters = a.dev.cmp.clusters := by rw [h.2]

end RecordWay

section Steps
variable (w : W)

theorem recordWay_modDom (n : Nat) (f : Dom → Dom) : RecordWay w (w.modDom n f) := ⟨List.suffix_refl _, rfl⟩

theorem recordWay_modPwr (f : Pwr → Pwr) : RecordWay w (w.modPwr f) := ⟨List.suffix_refl _, rfl⟩

theorem recordWay_modFab (f : Fab → Fab) : RecordWay w (w.modFab f) := ⟨List.suffix_refl _, rfl⟩

theorem recordWay_modPort (p : Nat) (f : Port → Port) : RecordWay w (w.modPort p f) := ⟨List.suffix_refl _, rfl⟩

theorem recordWay_modSag (s : Nat) (f : Sag → Sag) : RecordWay w (w.modSag s f) := ⟨List.suffix_refl _, rfl⟩

theorem recordWay_out (x : Out) : RecordWay w (w.out x) := ⟨List.suffix_refl _, rfl⟩

theorem recordWay_store (sp : Space) (a : Nat) (l : List Byte) : RecordWay w (w.store sp a l) := ⟨List.suffix_refl _, rfl⟩

theorem recordWay_keepRec (r : Rec) : RecordWay w (w.keepRec r) := ⟨List.suffix_refl _, rfl⟩

theorem recordWay_event (c src : Nat) (g : Option Nat) (l : List (Nat × Nat)) : RecordWay w (w.event c src g l) :=
  .of_quiet (quiet_event w c src g l)

theorem recordWay_fireSag (s : Nat) : RecordWay w (w.fireSag s) := by
  rw [W.fireSag_eq]; exact ⟨List.suffix_refl _, rfl⟩

theorem quiet_lastFault (s c va : Nat) : Quiet w (w.lastFault s c va) := by
  unfold W.lastFault
  split
  · exact .refl w
  · exact quiet_modMem w s _

theorem recordWay_lastFault (s c va : Nat) : RecordWay w (w.lastFault s c va) := .of_quiet (quiet_lastFault w s c va)

end Steps

section Wakes
variable (w : W) (n : Nat) (access fresh : Bool)

theorem recordWay_tryStart : RecordWay w (w.tryStart n) := by
  unfold W.tryStart
  dsimp only
  split
  · split
    · exact .refl w
    split
    · exact .refl w
    split
    · exact .refl w
    split
    · split
      · exact (recordWay_modPwr w _).trans (recordWay_modDom _ n _)
      · exact .refl w
    · exact recordWay_modDom w n _
  · exact .refl w

theorem recordWay_beginWake (into : PSt) : RecordWay w (w.beginWake n into) :=
  (recordWay_modDom w n _).trans (recordWay_tryStart _ n)

theorem recordWay_countWake : RecordWay w (w.countWake n access) := by
  unfold W.countWake
  split
  · exact recordWay_modDom w n _
  · exact .refl w

theorem recordWay_latch : RecordWay w (w.latch n access fresh) := by
  unfold W.latch
  split
  · exact .refl w
  · exact (recordWay_countWake w n _).trans (recordWay_modDom _ n _)

theorem recordWay_lateWake : RecordWay w (w.lateWake n access fresh) := by
  unfold W.lateWake
  split
  · exact .refl w
  · exact (recordWay_latch w n access fresh).trans (recordWay_modDom _ n _)

theorem recordWay_raiseHub : RecordWay w (w.raiseHub access) := by
  unfold W.raiseHub
  dsimp only
  split
  · exact recordWay_lateWake w ..
  split
  · exact .refl w
  split
  · exact recordWay_latch w ..
  · exact (recordWay_countWake w ..).trans (recordWay_beginWake ..)

theorem recordWay_wakeDep : RecordWay w (w.wakeDep n access) := by
  unfold W.wakeDep
  split
  · split
    · exact recordWay_beginWake w ..
    split
    · exact (recordWay_lateWake w ..).trans (recordWay_beginWake ..)
    split
    · exact .refl w
    · exact recordWay_modPwr w _
  · exact (recordWay_raiseHub w _).trans (recordWay_beginWake ..)

theorem recordWay_raiseWakeNow : RecordWay w (w.raiseWakeNow n access fresh) := by
  unfold W.raiseWakeNow
  dsimp only
  split
  · exact .refl w
  split
  · exact recordWay_raiseHub w _
  split
  · split
    · exact recordWay_lateWake w ..
    split
    · exact recordWay_modDom w n _
    · exact recordWay_latch w ..
  · exact (recordWay_countWake w ..).trans (recordWay_beginWake ..)
  · split
    · exact recordWay_modDom w n _
    split
    · exact .refl w
    · exact (recordWay_countWake w ..).trans (recordWay_wakeDep ..)

theorem recordWay_raiseWake : RecordWay w (w.raiseWake n access) := by
  unfold W.raiseWake
  split
  · exact .refl w
  split
  · exact ⟨List.suffix_refl _, rfl⟩
  · exact recordWay_raiseWakeNow w ..

end Wakes

section Channels
variable (w : W) (s kind vc chip unit n : Nat)

theorem recordWay_listPoison (e : Poison) : RecordWay w (w.listPoison s e) := by
  unfold W.listPoison
  dsimp only
  split
  · exact (recordWay_modSag w s _).trans (recordWay_fireSag _ s)
  · exact ((recordWay_modSag w s _).trans (recordWay_event ..)).trans (recordWay_fireSag _ s)

theorem recordWay_countPoison (e : Poison) : RecordWay w (w.countPoison s e n) := recordWay_modSag w s _

theorem recordWay_poison : RecordWay w (w.poison s kind vc chip unit n) := by
  unfold W.poison
  dsimp only
  split
  · exact recordWay_countPoison w s n _
  split
  · exact ⟨List.suffix_refl _, rfl⟩
  · exact recordWay_listPoison w s _

theorem recordWay_listPoisons (l : List Poison) : RecordWay w (l.foldl (fun w e => w.listPoison s e) w) := by
  induction l generalizing w with
  | nil => exact .refl w
  | cons e l ih => exact (recordWay_listPoison w s e).trans (ih _)

theorem recordWay_showPoison (keys : List Nat) : RecordWay w (w.showPoison s keys) :=
  (recordWay_modSag w s _).trans (recordWay_listPoisons _ s _)

/-- The record of an operation that is counted nowhere as outstanding ends. -/
theorem recordWay_recEnded {r : Rec} (hr : r.done = none) : RecordWay w (w.recEnded r) := by
  unfold W.recEnded
  rw [hr]
  exact recordWay_showPoison w r.sag r.owes

end Channels

section Packets
variable (w : W)

theorem recordWay_sendFlit (p ty seq vc : Nat) (l : List Byte) : RecordWay w (w.sendFlit p ty seq vc l) :=
  (recordWay_modPort w p _).trans (recordWay_out _ _)

theorem recordWay_pumpN (n p : Nat) : RecordWay w (W.pumpN n w p) := by
  induction n generalizing w with
  | zero => exact .refl w
  | succ n ih =>
    unfold W.pumpN
    dsimp only
    repeat' split
    · exact ((recordWay_modPort w p _).trans (recordWay_sendFlit ..)).trans (ih _)
    all_goals exact .refl w

theorem recordWay_enqueuePort (p vc : Nat) (l : List Byte) : RecordWay w (w.enqueuePort p vc l) :=
  (recordWay_modPort w p _).trans (recordWay_pumpN _ _ p)

theorem recordWay_emit (vc : Nat) (k : Pkt) : RecordWay w (w.emit vc k) := by
  unfold W.emit
  split
  · exact recordWay_enqueuePort w ..
  · exact .refl w

theorem recordWay_streamSendNow (key op : Nat) (l : List Byte) : RecordWay w (w.streamSendNow key op l) := by
  unfold W.streamSendNow
  split
  · exact .refl w
  · exact ((recordWay_modFab w _).trans (recordWay_modFab _ _)).trans (recordWay_emit ..)

theorem recordWay_streamSend (key op : Nat) (k : Pkt) : RecordWay w (w.streamSend key op k) := by
  unfold W.streamSend
  split
  · exact .refl w
  split
  · exact recordWay_modFab w _
  · exact recordWay_streamSendNow w ..

theorem recordWay_streamFor (s dst vc : Nat) : RecordWay w (w.streamFor s dst vc).2 := by
  unfold W.streamFor
  split
  · exact .refl w
  · exact recordWay_modFab w _

theorem recordWay_sendRemote (s chip vc a : Nat) (use : RemoteUse) (k : Pkt) : RecordWay w (w.sendRemote s chip vc a use k) := by
  unfold W.sendRemote
  split
  · exact recordWay_poison w ..
  · have named : RecordWay w (w.modCmp fun c => { c with nextId := w.dev.cmp.nextId + 1 }) := ⟨List.suffix_refl _, rfl⟩
    exact ((named.trans (recordWay_streamFor _ s chip vc)).trans (recordWay_modFab _ _)).trans (recordWay_streamSend ..)

end Packets

section Records
variable {w : W}

theorem recordWay_hostWrite (w : W) (s a : Nat) (l : List Byte) : RecordWay w (w.hostWrite s a l) := by
  unfold W.hostWrite
  split
  · exact (recordWay_store w ..).trans (recordWay_out ..)
  · exact .refl w

theorem recordWay_putRecord (w : W) (s va : Nat) (p : Place) (l : List Byte) : RecordWay w (w.putRecord s va p l) := by
  cases p with
  | hbm a => exact recordWay_store w ..
  | near a => exact recordWay_store w ..
  | host t a => exact recordWay_hostWrite w ..
  | reg t off => exact .refl w
  | remote chip vc off => exact recordWay_sendRemote w ..

theorem recordWay_writeVa (hw : w.sound) (s : Nat) (u : Use) (ps : List (Nat × Nat)) (l : List Byte) :
    RecordWay w (w.writeVa s u ps l).2 := by
  induction ps generalizing w l with
  | nil => exact .refl w
  | cons p t ih =>
    obtain ⟨a, n⟩ := p
    have checked := RecordWay.of_quiet (quiet_access hw s a n u)
    unfold W.writeVa
    split
    case h_1 q w₁ e =>
      rw [e] at checked
      have put := checked.trans (recordWay_putRecord w₁ s a q (l.take n))
      exact put.trans (ih (put.sound hw) _)
    all_goals
      rename_i e
      rw [e] at checked
      exact checked

/-- Writing the completion record of an operation that is counted nowhere as outstanding (R80, R204). -/
theorem recordWay_writeRec (hw : w.sound) {r : Rec} (hr : r.done = none) : RecordWay w (w.writeRec r) := by
  have stored := recordWay_writeVa hw r.sag .record (piecesOf r.addr r.bytes.length) r.bytes
  unfold W.writeRec W.storeVa
  split
  · exact recordWay_keepRec w r
  split
  all_goals
    rename_i e
    rw [e] at stored
  · exact (stored.trans (recordWay_lastFault ..)).trans (recordWay_recEnded _ hr)
  · exact (stored.trans (recordWay_keepRec ..)).trans (recordWay_raiseWake ..)
  · exact stored.trans (recordWay_keepRec ..)
  · exact (stored.trans (recordWay_poison ..)).trans (recordWay_recEnded _ hr)
  · exact stored.trans (recordWay_recEnded _ hr)

theorem recordWay_record (hw : w.sound) (s a : Nat) (l : List Byte) : RecordWay w (w.record s a l) := recordWay_writeRec hw rfl

end Records

end Sys2Proof.Machine
end

section
/-!
Issue of tensor commands (O27; R38, R51, R62–R64, R79, R80, R513): the work in which a fetched command is checked, what joining the
tensor queue leaves, what a rejection leaves, and one equation per outcome of the checks.
`Sys2Proof.Tests.reads_mac`, `reads_clear`, `reads_raw`, `reads_read`, `reads_unmapped`, `reads_far` and `reads_other` are states that
meet the hypotheses.
-/
namespace Sys2Proof

theorem Tab.look_mem {α : Type} (d : α) (t : Tab α) (k : Nat) : Tab.look d t k = d ∨ (k, Tab.look d t k) ∈ t := by
  induction t with
  | nil => exact .inl rfl
  | cons p t ih =>
    obtain ⟨j, v⟩ := p
    simp only [Tab.look]
    split
    case isTrue h => exact .inr (by simp [h])
    case isFalse => exact ih.imp id (List.mem_cons_of_mem _)

theorem Tab.mem_put {α : Type} {t : Tab α} {k : Nat} {v : α} {x : Nat × α} (h : x ∈ Tab.put t k v) : x = (k, v) ∨ x ∈ t := by
  induction t with
  | nil => exact .inl (by simpa [Tab.put] using h)
  | cons p t ih =>
    obtain ⟨j, w⟩ := p
    unfold Tab.put at h
    split at h
    · exact (List.mem_cons.1 h).imp id (List.mem_cons_of_mem _)
    split at h
    · exact List.mem_cons.1 h
    · rcases List.mem_cons.1 h with h | h
      · exact .inr (h ▸ List.mem_cons_self)
      · exact (ih h).imp id (List.mem_cons_of_mem _)

end Sys2Proof

namespace Sys2Proof.Machine

section Waits
variable {d : Dev} {w : W}

theorem Dev.noWaits_bundle (h : d.noWaits = true) (cl vu : Nat) : (d.vu cl vu).bundle.all Bundle.noWord = true := by
  simp only [Dev.noWaits, Bool.and_eq_true, List.all_eq_true] at h
  rcases Tab.look_mem .reset d.cmp.vus (4 * cl + vu) with e | hm
  · rw [Dev.vu, e]; rfl
  · exact h.1 _ hm

/-- No wait arises where no vector unit gets a bundle that waits. -/
theorem Dev.noWaits_put {d' : Dev} {k : Nat} {v : Vu} (h : d.noWaits = true) (hv : v.bundle.all Bundle.noWord = true)
    (hvus : d'.cmp.vus = Tab.put d.cmp.vus k v) (hsags : d'.cmp.sags = d.cmp.sags) : d'.noWaits = true := by
  simp only [Dev.noWaits, Bool.and_eq_true, List.all_eq_true, hvus, hsags] at h ⊢
  refine ⟨fun x hx => ?_, h.2⟩
  rcases Tab.mem_put hx with rfl | hx
  · exact hv
  · exact h.1 x hx

theorem W.modVu_noWaits (h : w.dev.noWaits = true) {cl vu : Nat} {f : Vu → Vu}
    (hf : (f (w.dev.vu cl vu)).bundle.all Bundle.noWord = true) : (w.modVu cl vu f).dev.noWaits = true :=
  Dev.noWaits_put h hf rfl rfl

end Waits

theorem quiet_readVa {w : W} (hw : w.sound) (s : Nat) (u : Use) (ps : List (Nat × Nat)) (acc : List Byte) :
    Quiet w (w.readVa s u ps acc).2 := by
  induction ps generalizing w acc with
  | nil => exact .refl w
  | cons p t ih =>
    obtain ⟨a, n⟩ := p
    have checked := quiet_access hw s a n u
    unfold W.readVa
    split
    all_goals
      rename_i e
      rw [e] at checked
    · exact checked.trans (ih (checked.sound hw) _)
    all_goals exact checked

theorem quiet_fetchVa {w : W} (hw : w.sound) (s a len : Nat) (u : Use) : Quiet w (w.fetchVa s a len u).2 := quiet_readVa hw ..

theorem quiet_failStatus (w : W) (s : Nat) (g : Got) : Quiet w (w.failStatus s g).2 := by
  unfold W.failStatus
  split
  · exact .refl w
  · exact quiet_lastFault w s ..
  · exact .refl w

/-- An operation none of whose ranges waits happens now. -/
theorem W.gated_unblocked {w : W} {s : Nat} {ranges : List (Use × Nat × Nat)} (h : w.unblocked s ranges) (k : W → W) :
    w.gated s ranges k = k w := by
  unfold W.gated
  rw [show ranges.findSome? _ = none from h]

/-- The work in which the checks of an instruction of bundle `b` at `x` run: of the state, nothing has changed but the bundle's program
counter and what the checks on accesses touch. -/
structure Checking (s : State) (x : At) (b : Bundle) (w : W) : Prop where
  ws : w.ws = []
  die : w.die = some (dieOf x.cl)
  sound : w.sound
  dev : w.dev = { s.dev with
    pwr := w.dev.pwr, free := w.dev.free, log := w.dev.log
    cmp := { s.dev.cmp with
      mem := w.dev.cmp.mem
      cecc := w.dev.cmp.cecc
      vus := Tab.put s.dev.cmp.vus (4 * x.cl + x.vu) { s.dev.vu x.cl x.vu with bundle := some { b with pc := x.pc } } } }

/-- An instruction that is fetched acts in the work of its fetch. -/
theorem W.instr_fetched {s : State} {x : At} {b : Bundle} (h : Fetches s x b) (f : W → Bundle → BitVec 16 → W) :
    s.work.instr x f = f (s.fetched x b) b (x.act &&& b.live) := by
  obtain ⟨hc, -, p, w, ha⟩ := h
  simp only [W.instr, show s.work.dev.canIssue x = some b from hc, W.fetched, State.fetched, ha]

section Checks
variable {s : State} {x : At} {b : Bundle} {w : W}

theorem checking_fetched (h : Fetches s x b) : Checking s x b (s.fetched x b) := by
  obtain ⟨w, hw, hws, -, hdie, hdev⟩ := W.instr_fetches h fun w _ _ => w
  obtain rfl : s.fetched x b = w := (W.instr_fetched h _).symm.trans hw
  obtain ⟨-, he, -⟩ := h
  exact ⟨hws, hdie, (quiet_access (fun e => he e) ..).sound he, hdev⟩

namespace Checking

theorem quiet {w' : W} (h : Checking s x b w) (q : Quiet w w') : Checking s x b w' := by
  obtain ⟨hws, hdie, hs, hdev⟩ := h
  have hs' := q.sound hs
  obtain ⟨-, q⟩ := q
  refine ⟨?_, ?_, hs', ?_⟩ <;> rw [q]
  · exact hws
  · exact hdie
  · rw [hdev]

theorem fetchVa {w' : W} {n a len : Nat} {u : Use} {g : Got} (h : Checking s x b w) (hf : w.fetchVa n a len u = (g, w')) :
    Checking s x b w' := by
  have q := quiet_fetchVa h.sound n a len u
  rw [hf] at q
  exact h.quiet q

variable (h : Checking s x b w)
include h

theorem clusters : w.dev.cmp.clusters = s.dev.cmp.clusters := by rw [h.dev]

theorem cl (n : Nat) : w.dev.cl n = s.dev.cl n := by rw [Dev.cl, h.clusters]; rfl

theorem sag (n : Nat) : w.dev.sag n = s.dev.sag n := by rw [h.dev]; rfl

theorem modeOf (n : Nat) : w.dev.modeOf n = s.dev.modeOf n := by rw [h.dev]; rfl

theorem nextId : w.dev.cmp.nextId = s.dev.cmp.nextId := by rw [h.dev]

theorem memWaits : w.dev.memWaits x = s.dev.memWaits x := by rw [h.dev]; rfl

theorem bundle : w.dev.bundle x.cl x.vu = some { b with pc := x.pc } := by rw [h.dev]; simp [Dev.bundle, Dev.vu]

theorem noWaits (hb : s.dev.bundle x.cl x.vu = some b) (hn : s.dev.noWaits = true) : w.dev.noWaits = true := by
  have hw : b.noWord = true := by simpa [show (s.dev.vu x.cl x.vu).bundle = some b from hb] using Dev.noWaits_bundle hn x.cl x.vu
  refine Dev.noWaits_put hn (k := 4 * x.cl + x.vu) (v := { s.dev.vu x.cl x.vu with bundle := some { b with pc := x.pc } }) hw ?_ ?_ <;>
    rw [h.dev]

end Checking

/-- A command that is read is checked in the work of its reading. -/
theorem checking_read {a n : Nat} {l : List Byte} (h : ReadsCommand s x b a n l w) : Checking s x b w := by
  obtain ⟨hx, -, -, hf⟩ := h
  exact (checking_fetched hx).fetchVa hf

theorem W.withCmd_read {a n : Nat} {l : List Byte} (h : ReadsCommand s x b a n l w) (act : BitVec 16) (k : W → List Byte → W) :
    (s.fetched x b).withCmd x b act a n k = k w l := by
  obtain ⟨hx, hm, hp, hf⟩ := h
  have hc := checking_fetched hx
  have hdie : ({ s.fetched x b with die := some (dieOf x.cl) } : W) = s.fetched x b := by rw [← hc.die]
  simp only [W.withCmd, hdie, hc.memWaits, hm, hp, hf, Bool.false_eq_true, if_false]

end Checks

section Queue
variable (w : W) (x : At) (b : Bundle) (act : BitVec 16) (cmd : List Byte) (fail : Option Nat) (cl n v : Nat)

/-- The batches of a tread ask for their SFU in the queue of a vector unit, and change nothing else (R21, R100). -/
theorem W.startTq_cases : w.startTq cl = w ∨ ∃ u r, w.startTq cl = w.pushSfu cl u r := by
  unfold W.startTq
  split
  · dsimp only
    split
    · exact .inr ⟨_, _, rfl⟩
    · exact .inl rfl
  · exact .inl rfl

theorem W.startTq_ws : (w.startTq cl).ws = w.ws := by
  rcases w.startTq_cases cl with e | ⟨u, r, e⟩ <;> rw [e]; rfl

theorem W.startTq_clusters : (w.startTq cl).dev.cmp.clusters = w.dev.cmp.clusters := by
  rcases w.startTq_cases cl with e | ⟨u, r, e⟩ <;> rw [e]; rfl

theorem W.startTq_bundle : (w.startTq cl).dev.bundle n v = w.dev.bundle n v := by
  rcases w.startTq_cases cl with e | ⟨u, r, e⟩ <;> rw [e]
  simp only [Dev.bundle, W.pushSfu, W.modVu_dev, Dev.vu_put]
  split
  case isTrue h => simp only [Dev.vu, h]
  case isFalse => rfl

theorem W.startTq_noWaits (h : w.dev.noWaits = true) : (w.startTq cl).dev.noWaits = true := by
  rcases w.startTq_cases cl with e | ⟨u, r, e⟩ <;> rw [e]
  · exact h
  · exact W.modVu_noWaits h (Dev.noWaits_bundle h cl u)

/-- The entry of an operation that joins the tensor queue (R64). -/
def W.tqEntry : TqEntry := ⟨w.dev.cmp.nextId, issuerOf x b act, cmd, w.dev.modeOf b.sag, none, fail⟩

/-- The work of joining the tensor queue but for the batches of a tread at its head: the entry behind what is there, counted as one
asynchronous operation of the bundle. -/
def W.joinTq : W :=
  ((w.modCmp fun c => { c with nextId := c.nextId + 1 }).modCl x.cl fun c =>
    { c with tq := c.tq ++ [w.tqEntry x b act cmd fail] }).asyncIssued x

theorem W.enqueueTq_cases : w.enqueueTq x b act cmd fail = w.joinTq x b act cmd fail ∨
    w.enqueueTq x b act cmd fail = (w.joinTq x b act cmd fail).startTq x.cl := by
  unfold W.enqueueTq
  dsimp only [W.newId]
  split
  · exact .inr rfl
  · exact .inl rfl

theorem W.joinTq_ws : (w.joinTq x b act cmd fail).ws = w.ws := rfl

theorem W.joinTq_clusters : (w.joinTq x b act cmd fail).dev.cmp.clusters = Tab.put w.dev.cmp.clusters x.cl
    { w.dev.cl x.cl with tq := (w.dev.cl x.cl).tq ++ [w.tqEntry x b act cmd fail] } := rfl

theorem W.joinTq_bundle : (w.joinTq x b act cmd fail).dev.bundle x.cl x.vu =
    (w.dev.bundle x.cl x.vu).map fun b => { b with asyncOut := b.asyncOut + 1 } :=
  W.modBundle_bundle ..

theorem W.joinTq_noWaits (h : w.dev.noWaits = true) : (w.joinTq x b act cmd fail).dev.noWaits = true := by
  refine Dev.noWaits_put h ?_ rfl rfl
  have hb := Dev.noWaits_bundle h x.cl x.vu
  rw [Option.all_map]
  exact hb

end Queue

/-- What an operation of bundle `b` that joins the tensor queue of its cluster leaves. -/
def JoinsTq (s : State) (x : At) (b : Bundle) (q : List Byte) (fail : Option Nat) (t : State) : Prop :=
  let cl := s.dev.cl x.cl
  let who := issuerOf x b (x.act &&& b.live)
  t.mem = s.mem ∧ (t.dev.cl x.cl).tq = cl.tq ++ [⟨s.dev.cmp.nextId, who, q, s.dev.modeOf b.sag, none, fail⟩] ∧
    (t.dev.cl x.cl).slots = cl.slots ∧ (∀ j ≠ x.cl.val, t.dev.cl j = s.dev.cl j) ∧
    t.dev.bundle x.cl x.vu = some { b with pc := x.pc, asyncOut := b.asyncOut + 1 }

section Outcomes
variable {s : State} {x : At} {b : Bundle} {w : W} (h : Checking s x b w) (cmd : List Byte) (fail : Option Nat) (st : Nat)
include h

theorem joinsTq_joinTq : JoinsTq s x b cmd fail (s.after (w.joinTq x b (x.act &&& b.live) cmd fail)) := by
  have cluster (j : Nat) := Tab.look_put .reset w.dev.cmp.clusters x.cl j
    { w.dev.cl x.cl with tq := (w.dev.cl x.cl).tq ++ [w.tqEntry x b (x.act &&& b.live) cmd fail] }
  refine ⟨?_, ?_, ?_, fun j hj => ?_, ?_⟩
  · rw [State.after_of_ws ((w.joinTq_ws ..).trans h.ws)]
  · rw [State.after_dev, Dev.cl, W.joinTq_clusters, cluster, if_pos rfl, h.cl, W.tqEntry, h.nextId, h.modeOf]
  · rw [State.after_dev, Dev.cl, W.joinTq_clusters, cluster, if_pos rfl, h.cl]
  · rw [State.after_dev, Dev.cl, W.joinTq_clusters, cluster, if_neg hj]
    exact h.cl j
  · rw [State.after_dev, W.joinTq_bundle, h.bundle]
    rfl

theorem joinsTq_enqueueTq : JoinsTq s x b cmd fail (s.after (w.enqueueTq x b (x.act &&& b.live) cmd fail)) := by
  have hj := joinsTq_joinTq h cmd fail
  rcases w.enqueueTq_cases x b (x.act &&& b.live) cmd fail with e | e <;> rw [e]
  · exact hj
  · simpa only [JoinsTq, State.after_mem, State.after_dev, Dev.cl, W.startTq_ws, W.startTq_clusters, W.startTq_bundle] using hj

theorem enqueueTq_noWaits (hb : s.dev.bundle x.cl x.vu = some b) (hn : s.dev.noWaits = true) (act : BitVec 16) :
    (w.enqueueTq x b act cmd fail).dev.noWaits = true := by
  have hj := w.joinTq_noWaits x b act cmd fail (h.noWaits hb hn)
  rcases w.enqueueTq_cases x b act cmd fail with e | e <;> rw [e]
  · exact hj
  · exact W.startTq_noWaits _ _ hj

/-- A command whose work queues its operation. -/
theorem completes_enqueueTq {i : Instr} {f : W → W} (he : exec i s = actMem f s) (hb : s.dev.bundle x.cl x.vu = some b)
    (hn : s.dev.noWaits = true) (hf : f s.work = w.enqueueTq x b (x.act &&& b.live) cmd fail) :
    Completes i s (JoinsTq s x b cmd fail) := by
  refine completes_actMem he ?_ ?_ <;> rw [hf]
  · exact enqueueTq_noWaits h cmd fail hb hn _
  · exact joinsTq_enqueueTq h cmd fail

/-- A command whose work rejects its operation: the record is all that reaches memory, and no cluster changes. -/
theorem completes_rejected {i : Instr} {f : W → W} {k : TCmd} (he : exec i s = actMem f s) (hst : st ≠ 0)
    (hu : w.unblocked b.sag [(.record, k.recA, 16)]) (hf : f s.work = w.tensorChecked x b (x.act &&& b.live) k cmd st) :
    Completes i s fun t =>
      t.mem = (s.after (w.record b.sag k.recA (w.dev.tensorRecBytes (issuerOf x b (x.act &&& b.live)) k st 0 0))).mem ∧
        t.dev.cmp.clusters = s.dev.cmp.clusters := by
  rw [W.tensorChecked, if_neg hst, W.gated_unblocked hu] at hf
  refine ⟨_, he, ?_⟩
  dsimp only
  rw [hf]
  exact ⟨after_settled_mem .., (recordWay_record h.sound ..).clusters.trans h.clusters⟩

end Outcomes

theorem W.tensorChecked_zero (w : W) (x : At) (b : Bundle) (act : BitVec 16) (c : TCmd) (cmd : List Byte) :
    w.tensorChecked x b act c cmd 0 = w.enqueueTq x b act cmd none := if_pos rfl

section Commands
variable {s : State} {x : At} {b : Bundle} {w : W} {cmd : DWord} {l : List Byte} (h : ReadsCommand s x b cmd.toNat 64 l w)
include h

theorem issueTensor_misaligned (ha : cmd.toNat % 64 ≠ 0) :
    s.work.issueTensor x cmd = w.tensorChecked x b (x.act &&& b.live) (tcmdOf l) l 0x06 := by
  rw [W.issueTensor, W.instr_fetched h.1, W.withCmd_read h, if_pos ha]

variable (ha : cmd.toNat % 64 = 0)
include ha

theorem issueTensor_tmma (ho : (tcmdOf l).op = 1) :
    s.work.issueTensor x cmd = w.tensorChecked x b (x.act &&& b.live) (tcmdOf l) l
      (tmmaStatus (tcmdOf l) (s.dev.sag b.sag).tq.toNat ((s.dev.cl x.cl).slotThen (tcmdOf l).slot)) := by
  rw [W.issueTensor, W.instr_fetched h.1, W.withCmd_read h, if_neg (Decidable.not_not.2 ha), ← (checking_read h).sag, ← (checking_read h).cl]
  simp only [ho]

theorem issueTensor_tclr (ho : (tcmdOf l).op = 3) :
    s.work.issueTensor x cmd = w.tensorChecked x b (x.act &&& b.live) (tcmdOf l) l 0 := by
  rw [W.issueTensor, W.instr_fetched h.1, W.withCmd_read h, if_neg (Decidable.not_not.2 ha)]
  simp only [ho]

theorem issueTensor_other (h1 : (tcmdOf l).op ≠ 1) (h2 : (tcmdOf l).op ≠ 2) (h3 : (tcmdOf l).op ≠ 3) :
    s.work.issueTensor x cmd = w.tensorChecked x b (x.act &&& b.live) (tcmdOf l) l 0x02 := by
  rw [W.issueTensor, W.instr_fetched h.1, W.withCmd_read h, if_neg (Decidable.not_not.2 ha)]
  split
  · contradiction
  · contradiction
  · contradiction
  · rfl

end Commands

section Treads
variable {s : State} {x : At} {b : Bundle} {w w' : W} {cmd : DWord} {l : List Byte} {kind : TileKind}
variable (h : ReadsCommand s x b cmd.toNat 64 l w) (ha : cmd.toNat % 64 = 0) (ho : (tcmdOf l).op = 2)
include h ha ho

theorem issueTensor_tread : s.work.issueTensor x cmd = w.issueTread x b (x.act &&& b.live) (tcmdOf l) l := by
  rw [W.issueTensor, W.instr_fetched h.1, W.withCmd_read h, if_neg (Decidable.not_not.2 ha)]
  simp only [ho]

theorem issueTensor_tread_slotFree (hk : (s.dev.cl x.cl).slotThen (tcmdOf l).slot = none) :
    s.work.issueTensor x cmd = w.tensorChecked x b (x.act &&& b.live) (tcmdOf l) l 0x0B := by
  rw [← (checking_read h).cl] at hk
  simp only [issueTensor_tread h ha ho, W.issueTread, hk]

variable (hk : (s.dev.cl x.cl).slotThen (tcmdOf l).slot = some kind)
include hk

theorem issueTensor_tread_raw (hr : (tcmdOf l).raw = true) :
    s.work.issueTensor x cmd = w.tensorChecked x b (x.act &&& b.live) (tcmdOf l) l 0 := by
  rw [← (checking_read h).cl] at hk
  simp only [issueTensor_tread h ha ho, W.issueTread, hk, hr, if_true]

variable (hr : (tcmdOf l).raw = false)
include hr

theorem issueTensor_tread_misaligned (hd : (tcmdOf l).a18 % 64 ≠ 0) :
    s.work.issueTensor x cmd = w.tensorChecked x b (x.act &&& b.live) (tcmdOf l) l 0x06 := by
  rw [← (checking_read h).cl] at hk
  simp only [issueTensor_tread h ha ho, W.issueTread, hk, hr, Bool.false_eq_true, if_false, if_pos hd]

variable (hd : (tcmdOf l).a18 % 64 = 0) (hu : w.unblocked b.sag [(.operand false, (tcmdOf l).a18, 64)])
include hd hu

theorem issueTensor_tread_described {e : List Byte} (hf : w.fetchVa b.sag (tcmdOf l).a18 64 (.operand false) = (.bytes e, w')) :
    s.work.issueTensor x cmd = w'.tensorChecked x b (x.act &&& b.live) (tcmdOf l) (l ++ e)
      (epiStatus w'.dev (s.dev.cl x.cl) (s.dev.modeOf b.sag) (tcmdOf l) (epiOf e) kind) := by
  have hw := checking_read h
  rw [← hw.cl, ← (hw.fetchVa hf).modeOf]
  rw [← hw.cl] at hk
  simp only [issueTensor_tread h ha ho, W.issueTread, hk, hr, Bool.false_eq_true, if_false, hd, ne_eq, not_true_eq_false,
    W.gated_unblocked hu, hf]

theorem issueTensor_tread_undescribed {g : Got} (hf : w.fetchVa b.sag (tcmdOf l).a18 64 (.operand false) = (g, w'))
    (hg : ∀ e, g ≠ .bytes e) :
    s.work.issueTensor x cmd =
      (w'.failStatus b.sag g).2.enqueueTq x b (x.act &&& b.live) l (some (w'.failStatus b.sag g).1) := by
  rw [← (checking_read h).cl] at hk
  simp only [issueTensor_tread h ha ho, W.issueTread, hk, hr, Bool.false_eq_true, if_false, hd, ne_eq, not_true_eq_false,
    W.gated_unblocked hu, hf]

end Treads

theorem exec_tensor {c : Instr} {x : At} {cmd : DWord} (h : c = .tmma x cmd ∨ c = .tread x cmd ∨ c = .tclr x cmd) (s : State) :
    exec c s = actMem (fun w => w.issueTensor x cmd) s := by
  rcases h with rfl | rfl | rfl <;> rfl

/-- Settles O27: each outcome of the checks is one equation of the issue (`issueTensor_misaligned` to `issueTensor_tread_undescribed`),
which ends in the tensor queue (`completes_enqueueTq`) or in a rejection (`completes_rejected`). -/
theorem tensorCommandsAreQueuedOrRejected : Obligations.TensorCommandsAreQueuedOrRejected := by
  intro s x b cmd c l w hc hn h k cl who status epi reads
  have he := exec_tensor hc s
  have hw := checking_read h
  have ⟨⟨hi, _⟩, _⟩ := h
  have hb := (Dev.canIssue_some hi).1
  refine ⟨fun q fail hq => ?_, fun st w' hst hu => ?_⟩
  · have queued {w' : W} (hw' : Checking s x b w') (e : s.work.issueTensor x cmd = w'.enqueueTq x b (x.act &&& b.live) q fail) :=
      completes_enqueueTq hw' q fail he hb hn e
    rcases hq with ⟨ha, rfl, rfl, ⟨ho, hs⟩ | ho | ⟨ho, hk, hr⟩⟩ | ⟨⟨ha, ho, hr, hd, hu⟩, kind, e, w', hk, hf, hs, rfl, rfl⟩ |
      ⟨⟨ha, ho, hr, hd, hu⟩, hk, rfl, ⟨cause, va, w', hf, rfl⟩ | ⟨w', hf, rfl⟩⟩
    · refine queued hw ((issueTensor_tmma h ha ho).trans ?_)
      rw [show tmmaStatus .. = 0 from hs, W.tensorChecked_zero]
    · exact queued hw ((issueTensor_tclr h ha ho).trans (W.tensorChecked_zero ..))
    · obtain ⟨kind, hk⟩ := Option.isSome_iff_exists.1 hk
      exact queued hw ((issueTensor_tread_raw h ha ho hk hr).trans (W.tensorChecked_zero ..))
    · refine queued (hw.fetchVa hf) ((issueTensor_tread_described h ha ho hk hr hd hu hf).trans ?_)
      rw [show epiStatus .. = 0 from hs, W.tensorChecked_zero]
    · obtain ⟨kind, hk⟩ := Option.isSome_iff_exists.1 hk
      have issue := issueTensor_tread_undescribed h ha ho hk hr hd hu hf nofun
      exact queued ((hw.fetchVa hf).quiet (quiet_failStatus w' b.sag (.fail cause va))) issue
    · obtain ⟨kind, hk⟩ := Option.isSome_iff_exists.1 hk
      have issue := issueTensor_tread_undescribed h ha ho hk hr hd hu hf nofun
      exact queued ((hw.fetchVa hf).quiet (quiet_failStatus w' b.sag .cut)) issue
  · have rejected (hw' : Checking s x b w') {q : List Byte} (hst : st ≠ 0)
        (e : s.work.issueTensor x cmd = w'.tensorChecked x b (x.act &&& b.live) k q st) := completes_rejected hw' q st he hst hu e
    rcases hst with ⟨rfl, ⟨ha, rfl⟩ | ⟨ha, ⟨ho, rfl, hs⟩ | ⟨h1, h2, h3, rfl⟩ | ⟨ho, hk, rfl⟩ | ⟨ho, hk, hr, hd, rfl⟩⟩⟩ |
      ⟨⟨ha, ho, hr, hd, hu'⟩, kind, e, hk, hf, rfl, hs⟩
    · exact rejected hw (by decide) (issueTensor_misaligned h ha)
    · exact rejected hw hs (issueTensor_tmma h ha ho)
    · exact rejected hw (by decide) (issueTensor_other h ha h1 h2 h3)
    · exact rejected hw (by decide) (issueTensor_tread_slotFree h ha ho hk)
    · obtain ⟨kind, hk⟩ := Option.isSome_iff_exists.1 hk
      exact rejected hw (by decide) (issueTensor_tread_misaligned h ha ho hk hr hd)
    · exact rejected (hw.fetchVa hf) hs (issueTensor_tread_described h ha ho hk hr hd hu' hf)

end Sys2Proof.Machine
end

section
/-!
Issue of row commands (O32; R38, R80, R129–R131, R133, R513): what joining the row operations leaves, what a rejection leaves, and one
equation per way of the issue: without a parameter block, with one that is read, and with one that cannot be read.
`Sys2Proof.Tests.reads_row`, `reads_row_par` and `reads_row_lost` are states that meet the hypotheses.
-/
namespace Sys2Proof.Machine

theorem RecordWay.rowOps {a b : W} (h : RecordWay a b) : b.dev.cmp.rowOps = a.dev.cmp.rowOps := by rw [h.2]

theorem Checking.rowOps {s : State} {x : At} {b : Bundle} {w : W} (h : Checking s x b w) : w.dev.cmp.rowOps = s.dev.cmp.rowOps := by
  rw [h.dev]

section Joins
variable (w : W) (x : At) (b : Bundle) (act : BitVec 16) (c : RCmd) (l : List Byte)

/-- The work of joining the row operations (R133): the operation behind what is there, counted as one asynchronous operation of the
bundle. -/
def W.joinRows : W :=
  (w.modCmp fun d => { d with
    nextId := d.nextId + 1
    rowOps := d.rowOps ++ [⟨d.nextId, issuerOf x b act, l, w.dev.modeOf b.sag, false⟩] }).asyncIssued x

theorem W.rowChecked_zero : w.rowChecked x b act c l 0 = w.joinRows x b act l := if_neg fun h => h rfl

theorem W.rowChecked_rejected {st : Nat} (hst : st ≠ 0) (hu : w.unblocked b.sag [(.record, c.recA, 16)]) :
    w.rowChecked x b act c l st = w.rowRecord (issuerOf x b act) c st 0 0 := by
  rw [W.rowChecked, if_pos hst, W.gated_unblocked hu]

theorem W.joinRows_bundle : (w.joinRows x b act l).dev.bundle x.cl x.vu =
    (w.dev.bundle x.cl x.vu).map fun b => { b with asyncOut := b.asyncOut + 1 } :=
  W.modBundle_bundle ..

theorem W.joinRows_noWaits (h : w.dev.noWaits = true) : (w.joinRows x b act l).dev.noWaits = true := by
  refine Dev.noWaits_put h ?_ rfl rfl
  rw [Option.all_map]
  exact Dev.noWaits_bundle h x.cl x.vu

end Joins

section Outcomes
variable {s : State} {x : At} {b : Bundle} {w : W} {i : Instr} {f : W → W} (h : Checking s x b w) (he : exec i s = actMem f s)
include h he

/-- A command whose work lets its operation wait for its engines. -/
theorem completes_joinRows {q : List Byte} (hb : s.dev.bundle x.cl x.vu = some b) (hn : s.dev.noWaits = true)
    (hf : f s.work = w.joinRows x b (x.act &&& b.live) q) :
    Completes i s fun t => t.mem = s.mem ∧
      t.dev.cmp.rowOps = s.dev.cmp.rowOps ++ [⟨s.dev.cmp.nextId, issuerOf x b (x.act &&& b.live), q, s.dev.modeOf b.sag, false⟩] ∧
      t.dev.cmp.clusters = s.dev.cmp.clusters ∧
      t.dev.bundle x.cl x.vu = some { b with pc := x.pc, asyncOut := b.asyncOut + 1 } := by
  refine completes_actMem he ?_ ?_ <;> rw [hf]
  · exact w.joinRows_noWaits x b _ q (h.noWaits hb hn)
  refine ⟨?_, ?_, h.clusters, ?_⟩
  · rw [State.after_of_ws (w := w.joinRows ..) h.ws]
  · rw [← h.rowOps, ← h.nextId, ← h.modeOf]
    rfl
  · rw [State.after_dev, W.joinRows_bundle, h.bundle]
    rfl

/-- A command whose work ends its operation with a record: that is all that reaches memory, and no operation joins. -/
theorem completes_rowRecord {who : Issuer} {k : RCmd} {st : Nat} (hf : f s.work = w.rowRecord who k st 0 0) :
    Completes i s fun t => t.dev.cmp.rowOps = s.dev.cmp.rowOps ∧ t.mem = (s.after (w.rowRecord who k st 0 0)).mem := by
  refine ⟨_, he, ?_⟩
  dsimp only
  rw [hf]
  exact ⟨(recordWay_record h.sound ..).rowOps.trans h.rowOps, after_settled_mem ..⟩

end Outcomes

/-- A command uses a parameter block, and its issue reads it (R129, R131). -/
abbrev RCmd.ReadsPar (k : RCmd) : Prop := (0x20 ≤ k.op ∧ k.op ≤ 0x26) ∧ k.usePar = true ∧ k.par % 64 = 0

section Commands
variable {s : State} {x : At} {b : Bundle} {w w' : W} {cmd : DWord} {l : List Byte} (h : ReadsCommand s x b cmd.toNat 64 l w)
include h

theorem issueRow_withoutPar (hp : ¬(rcmdOf l).ReadsPar) :
    s.work.issueRow x cmd = w.rowChecked x b (x.act &&& b.live) (rcmdOf l) l
      (rowStatus w.dev b.sag x.cl cmd.toNat (rcmdOf l) ⟨0, 0, 0, 0, 64⟩) := by
  rw [W.issueRow, W.instr_fetched h.1, W.withCmd_read h, if_neg hp]

variable (hp : (rcmdOf l).ReadsPar)
  (hu : w.unblocked b.sag [(.operand false, (rcmdOf l).par, 64), (.record, (rcmdOf l).recA, 16)])
include hp hu

theorem issueRow_par {d : List Byte} (hf : w.fetchVa b.sag (rcmdOf l).par 64 (.operand false) = (.bytes d, w')) :
    s.work.issueRow x cmd = w'.rowChecked x b (x.act &&& b.live) (rcmdOf l) (l ++ d)
      (rowStatus w'.dev b.sag x.cl cmd.toNat (rcmdOf l) (rparOf d)) := by
  rw [W.issueRow, W.instr_fetched h.1, W.withCmd_read h, if_pos hp, W.gated_unblocked hu]
  simp only [hf]

theorem issueRow_lostPar {cause va : Nat} (hf : w.fetchVa b.sag (rcmdOf l).par 64 (.operand false) = (.fail cause va, w'))
    (hs : rowStatus w'.dev b.sag x.cl cmd.toNat (rcmdOf l) ⟨0, 0, 0, 0, 64⟩ = 0 ∨
      rowStatus w'.dev b.sag x.cl cmd.toNat (rcmdOf l) ⟨0, 0, 0, 0, 64⟩ = 0x43) :
    s.work.issueRow x cmd = (w'.lastFault b.sag cause va).rowRecord (issuerOf x b (x.act &&& b.live)) (rcmdOf l) 0x11 0 0 := by
  rw [W.issueRow, W.instr_fetched h.1, W.withCmd_read h, if_pos hp, W.gated_unblocked hu]
  simp only [hf]
  rw [if_neg fun hst => hs.elim hst.1 hst.2]
  rfl

end Commands

theorem exec_row {c : Instr} {x : At} {cmd : DWord}
    (h : c = .smax x cmd ∨ c = .smaxp x cmd ∨ c = .smaxf x cmd ∨ c = .rmsn x cmd ∨ c = .mom x cmd ∨ c = .mnorm x cmd ∨ c = .topk x cmd)
    (s : State) : exec c s = actMem (fun w => w.issueRow x cmd) s := by
  rcases h with rfl | rfl | rfl | rfl | rfl | rfl | rfl <;> rfl

/-- Settles O32: with or without a parameter block the issue ends in the checks of R131 (`issueRow_withoutPar`, `issueRow_par`), after
which the operation waits (`completes_joinRows`) or its record is written (`completes_rowRecord`); a parameter block that cannot be read
ends it with its record (`issueRow_lostPar`). -/
theorem rowCommandsWaitOrAreRejected : Obligations.RowCommandsWaitOrAreRejected := by
  intro s x b cmd c l w hc hn h k who par q w' p hq status
  have he := exec_row hc s
  have hw := checking_read h
  have ⟨⟨hi, _⟩, _⟩ := h
  have hb := (Dev.canIssue_some hi).1
  obtain ⟨hw', issue⟩ : Checking s x b w' ∧ s.work.issueRow x cmd = w'.rowChecked x b (x.act &&& b.live) k q status := by
    rcases hq with ⟨hp, rfl, rfl, rfl⟩ | ⟨hp, hu, d, hf, rfl, rfl⟩
    · exact ⟨hw, issueRow_withoutPar h hp⟩
    · exact ⟨hw.fetchVa hf, issueRow_par h hp hu hf⟩
  refine ⟨fun hst => ?_, fun hst hu => ?_, fun cause va v hp hu hf hs => ?_⟩
  · rw [hst, W.rowChecked_zero] at issue
    exact completes_joinRows hw' he hb hn issue
  · rw [W.rowChecked_rejected _ _ _ _ _ _ hst hu] at issue
    exact completes_rowRecord hw' he issue
  · have hv := (hw.fetchVa hf).quiet (quiet_lastFault v b.sag cause va)
    exact completes_rowRecord hv he (issueRow_lostPar h hp hu hf hs)

end Sys2Proof.Machine
end

section
/-!
Why O33 fails (R28, R80, R133): the record of a row operation is written page by page, and the first page that it reaches may hold the
table entry of the second. In `straddling` nothing of the record's range waits before the record is written, and the write itself then
leads its second page to the near store of a sleeping cluster, so that the record waits and the bundle keeps its operation. At issue a
record address that is not a multiple of 64 is rejected (R131); the statement is about every state, also one whose operation has not
come through those checks.
-/
namespace Sys2Proof.Machine

/-- TOPK over one row of ten binary32 elements at 0x20000, delivered at 0x30000; its record of 16 bytes at 0x401FEFF5 has 11 bytes
before the end of a page, and its tag is the upper half of a table entry with V set and the target near store. -/
def straddleCmd : List Byte :=
  leBytes 4 0x26000000 ++ leBytes 4 0x0100000A ++ leBytes 4 1 ++ leBytes 4 0 ++ leBytes 8 0x20000 ++ leBytes 8 0x30000 ++
    List.replicate 16 0 ++ leBytes 8 0x401FEFF5 ++ leBytes 4 0x900000 ++ leBytes 4 0

/-- The row of the operation: NaNs, whose number 10 the record carries as its flush count, the bits leaf and W of a table entry. -/
def straddleRow : List Byte := List.replicate 40 0xFF

/-- Memory of saggar 0: its first GiB is HBM3E from 0 on; at 0x401FE000 stands the table at 0x4000 through its own entry 510, and its
entry 511, of the next page, is not valid. -/
def straddleMem : Mem :=
  { Mem.reset with hbm :=
      [(0x1001, 0x20), (0x1007, 0x80), (0x2001, 0x0E), (0x2007, 0x80), (0x2009, 0x30), (0x200F, 0x80), (0x3001, 0x40), (0x3007, 0x80),
        (0x4FF1, 0x4E), (0x4FF7, 0x80)] ++ (List.range 40).map fun i => (0x20000 + i, 0xFF) }

def straddleOp : RowOp := ⟨0, ⟨0, 1, 0, 0, 0, 0, 0⟩, straddleCmd, ⟨false, false, false⟩, true⟩

def straddleBundle : Bundle :=
  { sag := 0, launch := 0, bix := 0, pc := 0, live := 0xFFFF, vr := [], mr := [], fflags := [], waiting := .no
    faulted := false, trap := .no, storePoison := false, owes := [], memOut := 0, asyncOut := 1, term := false, seed := 0 }

/-- Saggar 0 runs the operation on cluster 1; cluster 0, whose near store it owns, sleeps. -/
def straddling : State :=
  { State.reset with
    mem := straddleMem
    dev := { State.reset.dev with
      pwr := { Pwr.reset with doms := (List.range 4).map fun n => (hbmDom n, Dom.at .active) }
      cmp := { Compute.reset with
        clusters := [(0, { Cluster.reset with online := true }),
          (1, { Cluster.reset with online := true, owner := some 0, engine := some 0 })]
        sags := [(0, { Sag.reset with st := .running, en := true })]
        nsec := [(0, 0x80)]
        mem := [(0, { MemPage.reset with cur := { MemSet.reset with root := 0x1001, lim := 0x40000000 } })]
        vus := [(4, { Vu.reset with bundle := some straddleBundle })]
        rowOps := [straddleOp] } } }

theorem eq_ok_of_toOption {ε α β : Type} {p : Except ε α × β} {a : α} (h : p.1.toOption = some a) : p = (.ok a, p.2) := by
  rcases p with ⟨e | x, b⟩
  · exact nomatch h
  · exact congrArg (fun y => (Except.ok y, b)) (Option.some.inj h)

/-- How the operation's read of its row ends, and the work after it. -/
def straddlingRead : Except Got (List (List Byte)) × W :=
  (straddling.opWork 0x26 1 [.record straddleOp.who.rows]).fetchMany 0 (.operand false) (rowReads (rcmdOf straddleCmd) (rparOf [])) []

/-- How its store of the result ends, and the work after it. -/
def straddlingStored : Except Got Unit × W :=
  straddlingRead.2.storeMany 0 (.operand true)
    (rowStores (rcmdOf straddleCmd) (rparOf []) (rowResults false (rcmdOf straddleCmd) [straddleRow]))

theorem straddling_runs : straddling.dev.cmp.rowOps.find? (fun o => o.started && o.who.cl == 1 && o.who.vu == 0) = some straddleOp ∧
    (spanGroup 1 (rcmdOf straddleCmd).span).any (fun n => straddling.dev.batchesLeft n false 0) = false ∧
    straddling.dev.recWaits (some straddleOp.who.rows) = false := by decide +kernel

theorem straddling_unblocked : (straddling.opWork 0x26 1 [.record straddleOp.who.rows]).unblocked 0
    ((.record, (rcmdOf straddleCmd).recA, 16) :: ((rowReads (rcmdOf straddleCmd) (rparOf [])).map fun r => (.operand false, r.1, r.2)) ++
      (rowWrites (rcmdOf straddleCmd) (rparOf [])).map fun r => (.operand true, r.1, r.2)) := by
  unfold W.unblocked
  decide +kernel

theorem straddling_reads : straddlingRead = (.ok [straddleRow], straddlingRead.2) :=
  eq_ok_of_toOption (by decide +kernel)

theorem straddling_stores : straddlingStored = (.ok (), straddlingStored.2) :=
  eq_ok_of_toOption (by decide +kernel)

/-- Before the record is written, its second page is not mapped: nothing of its range waits. -/
theorem straddling_record_unblocked : straddlingStored.2.unblocked 0 [(.record, (rcmdOf straddleCmd).recA, 16)] := by
  unfold W.unblocked
  decide +kernel

/-- The operation's record waits for cluster 0, and its bundle still counts the operation. -/
theorem straddling_keeps_operation : Completes (.rowDone 1 0 .ok) straddling fun t =>
    t.dev.cmp.recs ≠ [] ∧ (t.dev.bundle 1 0).map Bundle.asyncOut = some 1 := by
  refine ⟨_, rfl, ?_⟩
  decide +kernel

/-- Refutes O33: in `straddling` the operation ends, nothing of its record's range waits when the record is due, and yet its bundle keeps
the operation (`straddling_keeps_operation`). -/
theorem not_rowOperationsStartAndEnd : ¬ Obligations.RowOperationsStartAndEnd := by
  rintro ⟨-, ends⟩
  obtain ⟨hop, hbatches, hrecs⟩ := straddling_runs
  obtain ⟨t, ht, -, -, -, -, -, -, -, -, -, counts, -⟩ := ends straddling 1 0 straddleOp [straddleRow] straddlingRead.2 straddlingStored.2
    hop hbatches hrecs straddling_unblocked straddling_reads straddling_stores
  obtain ⟨b', hb', hout⟩ := counts straddling_record_unblocked 1 0 straddleBundle rfl rfl
  obtain ⟨t', ht', -, kept⟩ := straddling_keeps_operation
  obtain rfl : t = t' := by simpa using ht.symm.trans ht'
  have released : (t.dev.bundle 1 0).map Bundle.asyncOut = some 0 := (congrArg _ hb').trans (congrArg some hout)
  exact absurd (released.symm.trans kept) (by decide)

end Sys2Proof.Machine
end
